-- ==== Sys2Proof/Word.lean ====
section
/-! DEFINITION. Words and bytes of the KF-DX1200-M model: the fixed widths the manual uses (R8). -/

namespace Sys2Proof

/-- An 8-bit byte of memory. -/
abbrev Byte := BitVec 8

/-- A 64-bit word: a general register, a port, a descriptor word. -/
abbrev Word := BitVec 64

/-- A device core index (R4): 0-1,199. -/
abbrev CoreId := Fin 1200

/-- A submission queue Q0-Q5 (Table 11.1). -/
abbrev QueueId := Fin 6

/-- A Strait port (R393). -/
abbrev PortId := Fin 12

/-- An isle (R4). -/
abbrev IsleId := Fin 8

end Sys2Proof
end

