-- ==== Sys2Proof/Syntax.lean ====
section
/-! DEFINITION. The commands of the block: one constructor of `Instr` per row of spec/opcode_table.json.
Instruction rows carry the fields of their layout (Table 6.2), reserved fields included, so that R150 can be stated.
Event rows carry what the event brings from outside the modelled state (a frame, a sensor reading, a check's outcome). -/

namespace Sys2Proof

/-! ### Fields of the instruction word (Tables 6.1, 6.2, 4.5) -/

/-- The guard: PG and PN of Table 6.1. -/
structure Guard where
  pg : BitVec 3
  pn : Bool
deriving DecidableEq, Repr

/-- Layout A. -/
structure FmtA where
  rd : BitVec 5
  ra : BitVec 5
  rb : BitVec 5
  func : BitVec 7
deriving DecidableEq, Repr

/-- Layout A of an instruction whose FUNC code is fixed by its row (SYS, LONG). -/
structure FmtSys where
  rd : BitVec 5
  ra : BitVec 5
  rb : BitVec 5
deriving DecidableEq, Repr

/-- Layout AC, compare. -/
structure FmtAC where
  pd : BitVec 3
  fmt : BitVec 2
  ra : BitVec 5
  rb : BitVec 5
  cond : BitVec 4
  rsv : BitVec 3
deriving DecidableEq, Repr

/-- Layout I12. -/
structure FmtI12 where
  rd : BitVec 5
  ra : BitVec 5
  imm : BitVec 12
deriving DecidableEq, Repr

/-- Layout I17. -/
structure FmtI17 where
  rd : BitVec 5
  imm : BitVec 17
deriving DecidableEq, Repr

/-- Layout IC, compare immediate. -/
structure FmtIC where
  pd : BitVec 3
  cond : BitVec 3
  ra : BitVec 5
  imm : BitVec 11
deriving DecidableEq, Repr

/-- Layout IV, conversion. -/
structure FmtIV where
  rd : BitVec 5
  ra : BitVec 5
  sfmt : BitVec 4
  dfmt : BitVec 4
  rm : BitVec 3
  om : Bool
deriving DecidableEq, Repr

/-- Layout IO without its DIR bit, which the row fixes. -/
structure FmtIO where
  g : BitVec 5
  port : BitVec 16
deriving DecidableEq, Repr

/-- Layout M. -/
structure FmtM where
  rt : BitVec 5
  rb : BitVec 5
  size : BitVec 2
  am : BitVec 3
  amf : BitVec 7
deriving DecidableEq, Repr

/-- Layout M of a CACHE instruction, whose rt field is fixed by its row (Table 6.16). -/
structure FmtCache where
  rb : BitVec 5
  size : BitVec 2
  am : BitVec 3
  amf : BitVec 7
deriving DecidableEq, Repr

/-- Layout V.R. -/
structure FmtVR where
  vd : BitVec 6
  va : BitVec 6
  vb : BitVec 6
  msel : BitVec 3
  pol : Bool
deriving DecidableEq, Repr

/-- Layout V.U without FUNC6, which the row fixes. -/
structure FmtVU where
  vd : BitVec 6
  va : BitVec 6
  msel : BitVec 3
  pol : Bool
deriving DecidableEq, Repr

/-- Layout V.M. `mode` and `param` are VMF[6:4] and VMF[3:0] (Table 7.8). -/
structure FmtVM where
  vt : BitVec 6
  gb : BitVec 5
  mode : BitVec 3
  param : BitVec 4
  msel : BitVec 3
  pol : Bool
deriving DecidableEq, Repr

/-- Layout V.M of a row that fixes MODE. -/
structure FmtVMmode where
  vt : BitVec 6
  gb : BitVec 5
  param : BitVec 4
  msel : BitVec 3
  pol : Bool
deriving DecidableEq, Repr

/-- MX.CFG (Table 4.5). -/
structure FmtMxCfg where
  gs : BitVec 5
  rsv : BitVec 13
deriving DecidableEq, Repr

/-- MX.LDW without its ACC bit, which the row fixes (Table 4.5). -/
structure FmtMxLdw where
  gw : BitVec 5
  bank : Bool
  t : Bool
  rsv : BitVec 10
deriving DecidableEq, Repr

/-- MX.SEQ (Table 4.5). -/
structure FmtMxSeq where
  ga : BitVec 5
  gw : BitVec 5
  gc : BitVec 5
  rsv : BitVec 3
deriving DecidableEq, Repr

/-- MX.DRN without its DISCARD bit, which the row fixes, as the IMG row fixes `img` (Table 4.5). -/
structure FmtMxDrn where
  fmt : BitVec 4
  rm : BitVec 3
  om : Bool
  bank : Bool
  clear : Bool
  img : Bool
  gd : BitVec 5
  rsv : Bool
deriving DecidableEq, Repr

/-! ### What an event brings -/

/-- The outcome of the residue checks of an instruction's passes, or of the batches that one command commits (R142, R218): every check
passes; `n` + 1 passes or batches mismatch and pass on their retries; after `n` such ones, one fails on its retry as well. -/
inductive Check where
  | pass
  | retried (n : BitVec 5)
  | failed (n : BitVec 5)
deriving DecidableEq, Repr

/-- The residue checks of one matrix step (R86): `first` has bit s set when shoal s mismatches on the first run,
`again` says that the retry mismatches as well. -/
structure StepCheck where
  first : BitVec 4
  again : Bool
deriving DecidableEq, Repr

/-- The residue checks of one drained row (R86): `first` has bit j set when column j mismatches when first read. -/
structure DrainCheck where
  first : BitVec 16
  again : Bool
deriving DecidableEq, Repr

/-- What a read of a stored word, block or page meets (R251, R256, R274, R277, R282): `rebuilt` is a Deep page that its stripe restores. -/
inductive EccOutcome where
  | clean
  | corrected
  | rebuilt
  | uncorrectable
deriving DecidableEq, Repr

/-- Where a scrubber visits, or where the code of an array meets an error (R245, R246, R251, R256, R274, R277, R282). -/
inductive ScrubPlace where
  | lagoon (core : CoreId) (word : BitVec 17)
  | scratch (core : CoreId) (word : BitVec 12)
  | l1 (core : CoreId) (set : BitVec 7) (way : BitVec 3)
  | cove (isle : IsleId) (dpa : BitVec 42)
  | near (dpa : BitVec 42)
  | mid (dpa : BitVec 42)
  | deep (dpa : BitVec 42)
deriving DecidableEq, Repr

/-- Whose ferry write a contribution is (R260, R295, R314): the core, its stream, and the context and level of the OUT that posted the
descriptor. -/
structure FerryFrom where
  core : CoreId
  stream : BitVec 4
  ctx : BitVec 12
  level : BitVec 2
deriving DecidableEq, Repr

/-- A 144-byte frame of a Mid link (R272): its header (Table 9.10), its payload of 128 bytes, its CRC-64. -/
structure MidFrame where
  header : BitVec 64
  payload : List Byte
  crc : BitVec 64
deriving DecidableEq, Repr

/-- A UDP end point: address and port (R326). IPv4 addresses lie in the last 32 bits. -/
structure HostAddr where
  ip : BitVec 128
  port : BitVec 16
deriving DecidableEq, Repr

/-- A received HMP datagram (R325-R327): the host Ethernet port it came by, its source, whether its UDP checksum is
non-zero and right, the 32-byte header as one number (Table 11.1), and the payload bytes behind it. -/
structure HmpFrame where
  eth : Bool
  source : HostAddr
  checksumOk : Bool
  header : BitVec 256
  payload : List Byte
deriving DecidableEq, Repr

/-- A patch point of an image header (Table 11.5). -/
structure PatchPoint where
  offset : Nat
  size : Nat
  resolve : Bool
deriving DecidableEq, Repr

/-- A phase entry of a timetable (Table 13.11). -/
structure PhaseEntry where
  s : Nat
  b : Nat
  maxSlip : Nat
  mark : Bool
  elastic : Bool
  rsv : BitVec 46
deriving DecidableEq, Repr

/-- A slot run of a timetable (Table 13.12). -/
structure SlotRun where
  buf : BitVec 56
  bytes : Nat
  stream : BitVec 12
  kind : BitVec 4
  port : BitVec 4
  oport : BitVec 4
  rwin : BitVec 4
  slotmask : BitVec 32
  ridx : BitVec 10
  tstart : Nat
  tcount : Nat
  rsv : BitVec 34
deriving DecidableEq, Repr

/-- The header fields of a graph image that the manual names (Tables 11.5 and 13.10), as Harbour reads them from the image;
the image's own layout belongs to Grinomen. `entry` gives, for each core of CORE_MAP, the task's entry address and
argument (Table 11.7). -/
structure ImageHeader where
  deterministic : Bool
  coreMap : List Nat
  scratchW : Nat
  blockLen : Nat
  points : List PatchPoint
  snapBase : BitVec 64
  snapSlots : Nat
  lead : Nat
  shapeSound : Nat
  shapeChannel : Nat
  shapeReach : Nat
  initial : List Byte
  entry : List (BitVec 64 × BitVec 64)
  uid : BitVec 64
  rank : Nat
  votePort : BitVec 4
  phases : List PhaseEntry
  runs : List SlotRun
  keyPoint : Option Nat
  resumePoint : Option Nat
  neighboursPoint : Option Nat
  markLog : BitVec 64
  markSlots : Nat
  headerDigest : BitVec 384
deriving DecidableEq, Repr

/-- Whether the two signatures of a signed object verify (checks 3 and 4 of R473). -/
structure Signatures where
  ecdsa : Bool
  hss : Bool
deriving DecidableEq, Repr

/-- What verification of a signed object found, check by check, beyond what the header words say (R473). -/
structure SigVerdict where
  digest : Bool
  ecdsa : Bool
  hss : Bool
deriving DecidableEq, Repr

/-- A received signed object's header words (Table 16.3), with the number of body bytes received. -/
structure SignedHeader where
  word0 : BitVec 64
  ver : BitVec 64
  len : BitVec 64
  target : BitVec 64
  reservedZero : Bool
  bytes : Nat
deriving DecidableEq, Repr

/-- A Strait flit of 256 bytes (R397): its header (Table 13.7), its 240 payload bytes, its CRC-64. -/
structure Flit where
  header : BitVec 64
  payload : List Byte
  crc : BitVec 64
deriving DecidableEq, Repr

/-- A side cell (Table 13.8). -/
structure Cell where
  body : BitVec 128
  key : BitVec 64
  tick : BitVec 32
  origin : BitVec 10
  hops : BitVec 4
  rsv : BitVec 10
  kind : BitVec 8
deriving DecidableEq, Repr

/-- What training of a Strait port finds (R395); `cable`: its CBL_PRESENT_N is low (R502). -/
structure TrainingResult where
  cable : Bool
  lanes : BitVec 8
  peerId : BitVec 64
  peerPort : BitVec 4
  latency : Nat
deriving DecidableEq, Repr

/-- A read of the thermal-top record (Table 17.9): `none` when no top answers or it cannot be read. -/
structure TopRecord where
  magic : BitVec 16
  version : BitVec 8
  kind : BitVec 8
  ratingW : BitVec 32
  fault : Bool
  crcOk : Bool
deriving DecidableEq, Repr

/-- What a duty window measures (R426-R428, R437): the shares' demands, the base draw, the module's draw, in W, the frequency ceiling
in MHz that the compute grant leaves to non-deterministic cores, and the cores whose ballast showed a residue mismatch. -/
structure PowerReading where
  demandLinks : Nat
  demandMemory : Nat
  demandCompute : Nat
  base : Nat
  draw : Nat
  ceiling : Nat
  ballast : List CoreId
deriving DecidableEq, Repr

/-- The network configuration that SET_NET carries (Table 17.7). -/
structure NetConfig where
  mode : BitVec 8
  ipv4 : BitVec 32
  prefix4 : BitVec 8
  gateway4 : BitVec 32
  ipv6 : BitVec 128
  prefix6 : BitVec 8
deriving DecidableEq, Repr

/-- Which MCTP binding a management message uses (R480). -/
inductive Binding where
  | i3c
  | ethernet (source : HostAddr)
deriving DecidableEq, Repr

/-- An SPDM request by its part that the manual speaks of (R479, R480). -/
inductive SpdmKind where
  | getVersion
  | getCapabilities
  | negotiateAlgorithms (offersSupported : Bool)
  | getDigests (slot : BitVec 4)
  | getCertificate (slot : BitVec 4)
  | challenge
  | keyExchange (mutAuthOk : Bool)
  | heartbeat
  | keyUpdate
  | chunk
  | endSession (session : BitVec 32)
  | psk
  | csr
  | setCertificate
  | other
deriving DecidableEq, Repr

/-- What the boot stages find (R468-R477): which records and images are valid, the thermal top, the logical cores whose self-test fails,
the spare positions that pass theirs (10 for each isle), the halves of each isle's Mid lanes that work (bits 2i and 2i + 1), SLOT_ID. -/
structure BootReading where
  pufOk : Bool
  partRecordOk : Bool
  securityRecordOk : Bool
  ownerRecordOk : Bool
  serviceRecordOk : Bool
  firmware : SignedHeader
  verdict : SigVerdict
  top : Option TopRecord
  coresFailingSelfTest : List Nat
  sparesOk : BitVec 80
  midLanes : BitVec 16
  slotId : BitVec 3
deriving DecidableEq, Repr

/-- Platform requests on the sideband (R506, R509). -/
inductive PldmKind where
  | getTid
  | otherBase
  | numericSensor (id : BitVec 16)
  | stateSensor (lighthouse : Bool)
  | pdr
deriving DecidableEq, Repr

/-- A command to the block: one constructor per row of spec/opcode_table.json. -/
inductive Instr where
  -- the scalar instruction set (ch. 6)
  | alu (c : CoreId) (g : Guard) (f : FmtA)
  | addi (c : CoreId) (g : Guard) (f : FmtI12)
  | andi (c : CoreId) (g : Guard) (f : FmtI12)
  | ori (c : CoreId) (g : Guard) (f : FmtI12)
  | xori (c : CoreId) (g : Guard) (f : FmtI12)
  | shi (c : CoreId) (g : Guard) (f : FmtI12)
  | movi (c : CoreId) (g : Guard) (f : FmtI17)
  | movsh (c : CoreId) (g : Guard) (f : FmtI17)
  | cmp (c : CoreId) (g : Guard) (f : FmtAC)
  | cmpi (c : CoreId) (g : Guard) (f : FmtIC)
  | pred (c : CoreId) (g : Guard) (f : FmtA)
  | muldiv (c : CoreId) (g : Guard) (f : FmtA)
  | fpu (c : CoreId) (g : Guard) (f : FmtA)
  | fcmp (c : CoreId) (g : Guard) (f : FmtAC)
  | fcvt (c : CoreId) (g : Guard) (f : FmtIV)
  | br (c : CoreId) (g : Guard) (off : BitVec 22)
  | call (c : CoreId) (g : Guard) (off : BitVec 22)
  | nop (c : CoreId) (g : Guard) (f : FmtSys)
  | jr (c : CoreId) (g : Guard) (f : FmtSys)
  | callr (c : CoreId) (g : Guard) (f : FmtSys)
  | ret (c : CoreId) (g : Guard) (f : FmtSys)
  | eret (c : CoreId) (g : Guard) (f : FmtSys)
  | shield (c : CoreId) (g : Guard) (f : FmtSys)
  | trap (c : CoreId) (g : Guard) (f : FmtSys)
  | fence (c : CoreId) (g : Guard) (f : FmtSys)
  | wait (c : CoreId) (g : Guard) (f : FmtSys)
  | inr (c : CoreId) (g : Guard) (f : FmtSys)
  | outr (c : CoreId) (g : Guard) (f : FmtSys)
  | mfc (c : CoreId) (g : Guard) (f : FmtSys)
  | mtc (c : CoreId) (g : Guard) (f : FmtSys)
  | rdpc (c : CoreId) (g : Guard) (f : FmtSys)
  | ld (c : CoreId) (g : Guard) (f : FmtM)
  | ldu (c : CoreId) (g : Guard) (f : FmtM)
  | st (c : CoreId) (g : Guard) (f : FmtM)
  | dzl (c : CoreId) (g : Guard) (f : FmtCache)
  | pref (c : CoreId) (g : Guard) (f : FmtCache)
  | clean (c : CoreId) (g : Guard) (f : FmtCache)
  | flush (c : CoreId) (g : Guard) (f : FmtCache)
  | inval (c : CoreId) (g : Guard) (f : FmtCache)
  | l1Fill (c : CoreId)
  | storeBufferDrain (c : CoreId) (k : BitVec 4)
  | lateBusError (c : CoreId) (k : BitVec 4)
  | lbinfoRead (c : CoreId) (rd : BitVec 5)
  | amo (c : CoreId) (g : Guard) (f : FmtA)
  | lcopy (c : CoreId) (g : Guard) (f : FmtSys)
  | zfill (c : CoreId) (g : Guard) (f : FmtSys)
  | lprogAbandon (c : CoreId)
  | portIn (c : CoreId) (g : Guard) (f : FmtIO)
  | portOut (c : CoreId) (g : Guard) (f : FmtIO)
  | registerWrite (c : CoreId) (port : BitVec 16) (v : Word)
  | interrupt (c : CoreId)
  | shieldWindowEnd (c : CoreId)
  -- the vector extension (ch. 7)
  | vadd (c : CoreId) (g : Guard) (f : FmtVR) (k : Check)
  | vsub (c : CoreId) (g : Guard) (f : FmtVR) (k : Check)
  | vmul (c : CoreId) (g : Guard) (f : FmtVR) (k : Check)
  | vfma (c : CoreId) (g : Guard) (f : FmtVR) (k : Check)
  | vfnma (c : CoreId) (g : Guard) (f : FmtVR) (k : Check)
  | vmin (c : CoreId) (g : Guard) (f : FmtVR) (k : Check)
  | vmax (c : CoreId) (g : Guard) (f : FmtVR) (k : Check)
  | vdiv (c : CoreId) (g : Guard) (f : FmtVR) (k : Check)
  | vand (c : CoreId) (g : Guard) (f : FmtVR)
  | vor (c : CoreId) (g : Guard) (f : FmtVR)
  | vxor (c : CoreId) (g : Guard) (f : FmtVR)
  | vcmp (c : CoreId) (g : Guard) (f : FmtVR) (k : Check)
  | vmov (c : CoreId) (g : Guard) (f : FmtVU)
  | vsplat (c : CoreId) (g : Guard) (f : FmtVU)
  | vget (c : CoreId) (g : Guard) (f : FmtVU)
  | vabs (c : CoreId) (g : Guard) (f : FmtVU) (k : Check)
  | vneg (c : CoreId) (g : Guard) (f : FmtVU) (k : Check)
  | vsqrt (c : CoreId) (g : Guard) (f : FmtVU) (k : Check)
  | vcvt (c : CoreId) (g : Guard) (f : FmtVU) (k : Check)
  | vrint (c : CoreId) (g : Guard) (f : FmtVU) (k : Check)
  | viota (c : CoreId) (g : Guard) (f : FmtVU)
  | vcompress (c : CoreId) (g : Guard) (f : FmtVU)
  | kand (c : CoreId) (g : Guard) (f : FmtVU)
  | kor (c : CoreId) (g : Guard) (f : FmtVU)
  | kxor (c : CoreId) (g : Guard) (f : FmtVU)
  | kandn (c : CoreId) (g : Guard) (f : FmtVU)
  | knot (c : CoreId) (g : Guard) (f : FmtVU)
  | kpop (c : CoreId) (g : Guard) (f : FmtVU)
  | kfirst (c : CoreId) (g : Guard) (f : FmtVU)
  | kset (c : CoreId) (g : Guard) (f : FmtVU)
  | vsetvl (c : CoreId) (g : Guard) (f : FmtVU)
  | vectorReduction (c : CoreId) (g : Guard) (func : BitVec 6) (f : FmtVU) (k : Check)
  | vectorLoad (c : CoreId) (g : Guard) (f : FmtVM)
  | vectorStore (c : CoreId) (g : Guard) (f : FmtVM)
  | firstFaultLoad (c : CoreId) (g : Guard) (f : FmtVMmode)
  | k4inl (c : CoreId) (g : Guard) (store : Bool) (f : FmtVMmode)
  | vcfg (c : CoreId) (v : Word)
  | vlen (c : CoreId) (v : Word)
  -- the matrix engine (ch. 4)
  | mxCfg (c : CoreId) (g : Guard) (f : FmtMxCfg)
  | mxLdw (c : CoreId) (g : Guard) (f : FmtMxLdw)
  | mxLdwAcc (c : CoreId) (g : Guard) (f : FmtMxLdw)
  | weightLoadComplete (c : CoreId) (r : Bool)
  | mxSeq (c : CoreId) (g : Guard) (f : FmtMxSeq)
  | step (c : CoreId) (k : StepCheck)
  | mxDrn (c : CoreId) (g : Guard) (f : FmtMxDrn)
  | mxDrnImg (c : CoreId) (g : Guard) (f : FmtMxDrn)
  | mxDrnDiscard (c : CoreId) (g : Guard) (f : FmtMxDrn)
  | drainRowWrite (c : CoreId) (bank : Bool) (shoal : BitVec 2) (k : DrainCheck)
  | drainEnd (c : CoreId) (bank : Bool)
  | mprogAbandon (c : CoreId)
  | lskew (c : CoreId) (n : BitVec 2) (v : Word)
  | tqdiscard (c : CoreId) (v : Word)
  | accumulatorRestoreEnd (c : CoreId) (bank : Bool)
  -- the element-wise engine (ch. 5)
  | ewpost (c : CoreId) (v : Word)
  | descriptorStart (c : CoreId)
  | tileQueueEntryTake (c : CoreId)
  | batch (c : CoreId) (k : Check)
  | completionRecordPush (c : CoreId)
  | ewcpl (c : CoreId) (rd : BitVec 5)
  | ewabort (c : CoreId) (v : Word)
  -- ferries (ch. 10)
  | fpost (c : CoreId) (s : BitVec 4) (v : Word)
  | ferryDescriptorStart (c : CoreId) (s : BitVec 4)
  | ferryAssign (isle : IsleId)
  | steal (isle : IsleId) (ferry : BitVec 5)
  | ferryTile (isle : IsleId) (ferry : BitVec 5)
  | ferryCompletion (c : CoreId) (s : BitVec 4)
  | fcpl (c : CoreId) (s : BitVec 4) (rd : BitVec 5)
  | fabort (c : CoreId) (s : BitVec 4) (v : Word)
  -- reduction windows (ch. 9)
  | contribution (isle : IsleId) (w : BitVec 4) (va : BitVec 56) (idx : BitVec 10) (f : FerryFrom) (data : List Byte)
  | stagedContributionApply (isle : IsleId) (w : BitVec 4) (line : BitVec 17)
  | arm (c : CoreId) (w : BitVec 4)
  | abort (c : CoreId) (w : BitVec 4)
  -- memory tiers (ch. 9)
  | scrub (p : ScrubPlace) (o : EccOutcome)
  | laneTraining (isle : IsleId) (lanes : BitVec 16)
  | midFrame (isle : IsleId) (header : BitVec 64) (rest : List Byte)
  | midRetrain (isle : IsleId) (lanes : BitVec 16)
  | read64 (isle : IsleId) (tag : BitVec 10) (addr : BitVec 37)
  | read128 (isle : IsleId) (tag : BitVec 10) (addr : BitVec 37)
  | write64 (isle : IsleId) (tag : BitVec 10) (addr : BitVec 37) (data : List Byte)
  | write128 (isle : IsleId) (tag : BitVec 10) (addr : BitVec 37) (data : List Byte)
  | writeMask64 (isle : IsleId) (tag : BitVec 10) (addr : BitVec 37) (mask : BitVec 64) (data : List Byte)
  | response (isle : IsleId) (tag : BitVec 10) (o : EccOutcome)
  | deepWrite (c : CoreId) (addr : BitVec 41) (data : List Byte)
  | deepRead (c : CoreId) (addr : BitVec 41) (len : BitVec 20) (ldpc : EccOutcome) (rebuilt : Bool)
  | enduranceUpdate (media : BitVec 64) (wear : Nat) (spare : Nat)
  | nearTemperatureRead (isle : IsleId) (t0 t1 : BitVec 8)
  -- HMP (ch. 11)
  | cmd (f : HmpFrame)
  | doorbell (f : HmpFrame)
  | ack (f : HmpFrame)
  | nak (f : HmpFrame)
  | hello (f : HmpFrame)
  | retransmit (q : BitVec 4)
  -- Harbour commands at the head of a queue (ch. 12)
  | graphStore (q : QueueId) (img : ImageHeader) (body : BitVec 384) (v : Signatures)
  | graphDrop (q : QueueId)
  | graphLaunch (q : QueueId)
  | paramPatch (q : QueueId)
  | fenceSignal (q : QueueId)
  | fenceWait (q : QueueId)
  | fenceTimeout (q : QueueId)
  | fenceReset (q : QueueId)
  | queueCtlResume (q : QueueId)
  | queueCtlFlush (q : QueueId)
  | ctxOpen (q : QueueId)
  | ctxConfig (q : QueueId)
  | ctxReset (q : QueueId)
  | ctxClose (q : QueueId)
  | map (q : QueueId)
  | unmap (q : QueueId)
  | epochRetire (ctx : BitVec 12)
  | regionDrop (q : QueueId)
  | faultResolveReplay (q : QueueId)
  | faultResolveFail (q : QueueId)
  | faultTimeout (id : BitVec 8)
  | retire (q : QueueId)
  | copy (q : QueueId)
  | query (q : QueueId)
  | logRead (q : QueueId)
  | traceRead (q : QueueId)
  | partSet (q : QueueId)
  | regSet (q : QueueId)
  | powerTol (q : QueueId)
  | powerCap (q : QueueId)
  -- launches and moorings (ch. 11)
  | dispatch (q : QueueId)
  | workItemPost (launch : BitVec 6) (c : CoreId)
  | mooring (c : CoreId)
  | mooringWrite (c : CoreId) (slot : BitVec 3) (v : Word)
  | mooringTimeout (c : CoreId) (slot : BitVec 3)
  | launchEnd (launch : BitVec 6)
  -- RoCE (ch. 10, 11)
  | rdmaWrite (qp : BitVec 8) (key : BitVec 32) (addr : BitVec 64) (data : List Byte)
  | rdmaRead (qp : BitVec 8) (key : BitVec 32) (addr : BitVec 64) (len : BitVec 32)
  | send (qp : BitVec 8)
  | connectionEstablish (qp : BitVec 8) (port : Bool) (mtu : BitVec 16)
  -- tide and Strait (ch. 13)
  | tideAdjust
  | twakeExpiry (c : CoreId)
  | tvote (c : CoreId) (v : Word)
  | portTraining (p : PortId) (r : TrainingResult)
  | portRetrain (p : PortId)
  | data (p : PortId) (f : Flit)
  | filler (p : PortId) (f : Flit)
  | side (p : PortId) (f : Flit)
  | start (p : PortId) (x : Cell)
  | startAt (p : PortId) (x : Cell)
  | startTimeout (launch : BitVec 6)
  | vote (p : PortId) (x : Cell)
  | outcome (p : PortId) (x : Cell)
  | coast (p : PortId) (x : Cell)
  | replay (p : PortId) (x : Cell)
  | root (p : PortId) (x : Cell)
  | harbour (p : PortId) (x : Cell)
  | lateFlit (p : PortId)
  | silent (p : PortId)
  | voteSample (launch : BitVec 6)
  | decisionTick (launch : BitVec 6)
  | outcomeApply (launch : BitVec 6)
  | coastStop (launch : BitVec 6)
  | coastUnload (launch : BitVec 6)
  -- power and thermal (ch. 14)
  | dutyWindow (r : PowerReading)
  | dutyGroup (need needDet : BitVec 4) (mean : Nat)
  | capUnreachable
  | thermalTopRead (r : Option TopRecord)
  | junctionTemperature (isle : IsleId) (t : BitVec 16)
  | wakeTokenGrant (c : CoreId) (mhz : Nat)
  | ageingCheck (isle : IsleId) (short : Bool) (shortAtGuaranteed : Bool)
  | s1 (isle : IsleId)
  | s2 (isle : IsleId)
  | s3
  | s4
  -- safety (ch. 15)
  | limiter (amps100 : Nat)
  | limiterRelease (amps100 : Nat)
  | lighthouseTrip (code : BitVec 8) (reading : BitVec 64)
  | heartbeat
  | lighthouseSelfCheck (oscillatorOk supplyOk storeOk heartbeatOk : Bool)
  -- reporting (ch. 15)
  | alarmClose (source : BitVec 16) (code : BitVec 16)
  | logNotice
  | storm
  | selfTest (c : CoreId)
  | selfTestEnd (c : CoreId) (ok : Bool)
  -- module interfaces (ch. 16, 17)
  | pwrEn (high : Bool)
  | inputVoltage (millivolts : Nat)
  | bootStages (r : BootReading)
  | spdmRequest (b : Binding) (k : SpdmKind)
  | getMeasurements (b : Binding) (index : BitVec 8) (signed : Bool)
  | getHssIdentity (b : Binding)
  | getHssSignature (b : Binding) (appendOk : Bool)
  | requestUpdate (b : Binding)
  | requestFirmwareData (h : SignedHeader) (v : SigVerdict) (digest : BitVec 384) (writtenOk : Bool)
  | pldmRequest (k : PldmKind)
  | setdasa (addr : BitVec 7)
  | setNet (port : BitVec 8) (n : NetConfig)
  | getNet (port : BitVec 8)
  | setRecovery (addr : BitVec 128)
  | moduleReset (flags : BitVec 8)
  | getTrips
  | announce
  | offer (session : BitVec 32) (status : BitVec 8) (total : BitVec 64)
  | dataRecovery (session : BitVec 32) (offset : BitVec 64) (len : BitVec 16) (h : SignedHeader) (v : SigVerdict) (body : BitVec 384) (writtenOk : Bool)
  | readResend (offset : BitVec 64)
  | sessionAbandon
  | slotTransmission
  | cellHoldExpiry (key : BitVec 64)
  | arpRequest (port : Bool) (target : BitVec 128)
  | dhcp (port : Bool) (lease : Option (BitVec 32 × BitVec 8 × BitVec 32))
  | autoNegotiation (port : Bool) (gbps : Option Nat)
  | mctpControl (b : Binding)
  | coolingKindDecode (straps : BitVec 2) (presentN : Bool)
deriving DecidableEq, Repr

end Sys2Proof
end

