-- ==== Sys2Proof/Decode.lean ====
section
/-! DEFINITION. The command that a word spells by the bits of spec/opcode_table.json, which gives no row any bits; and the instruction that a
32-bit word spells by the manual's own tables (R147, R151, R153, R103, R201, R205, R208). -/

namespace Sys2Proof

/-- No row of the table has bits: no word spells a command. -/
def decodeTableWord (_nbits _w : Nat) : Option Instr := none

/-! ### The layouts of Table 6.2 -/

/-- The guard of a word (Table 6.1). -/
def wordGuard (w : BitVec 32) : Guard := { pg := w.extractLsb' 29 3, pn := w.getLsbD 28 }

/-- The major opcode of a word. -/
def wordOp (w : BitVec 32) : Nat := (w.extractLsb' 22 6).toNat

def wordA (w : BitVec 32) : FmtA :=
  { rd := w.extractLsb' 17 5, ra := w.extractLsb' 12 5, rb := w.extractLsb' 7 5, func := w.extractLsb' 0 7 }

def wordSys (w : BitVec 32) : FmtSys := { rd := w.extractLsb' 17 5, ra := w.extractLsb' 12 5, rb := w.extractLsb' 7 5 }

def wordAC (w : BitVec 32) : FmtAC :=
  { pd := w.extractLsb' 19 3, fmt := w.extractLsb' 17 2, ra := w.extractLsb' 12 5, rb := w.extractLsb' 7 5,
    cond := w.extractLsb' 3 4, rsv := w.extractLsb' 0 3 }

def wordI12 (w : BitVec 32) : FmtI12 := { rd := w.extractLsb' 17 5, ra := w.extractLsb' 12 5, imm := w.extractLsb' 0 12 }

def wordI17 (w : BitVec 32) : FmtI17 := { rd := w.extractLsb' 17 5, imm := w.extractLsb' 0 17 }

def wordIC (w : BitVec 32) : FmtIC :=
  { pd := w.extractLsb' 19 3, cond := w.extractLsb' 16 3, ra := w.extractLsb' 11 5, imm := w.extractLsb' 0 11 }

def wordIV (w : BitVec 32) : FmtIV :=
  { rd := w.extractLsb' 17 5, ra := w.extractLsb' 12 5, sfmt := w.extractLsb' 8 4, dfmt := w.extractLsb' 4 4,
    rm := w.extractLsb' 1 3, om := w.getLsbD 0 }

def wordIO (w : BitVec 32) : FmtIO := { g := w.extractLsb' 17 5, port := w.extractLsb' 1 16 }

def wordM (w : BitVec 32) : FmtM :=
  { rt := w.extractLsb' 17 5, rb := w.extractLsb' 12 5, size := w.extractLsb' 10 2, am := w.extractLsb' 7 3, amf := w.extractLsb' 0 7 }

def wordCache (w : BitVec 32) : FmtCache :=
  { rb := w.extractLsb' 12 5, size := w.extractLsb' 10 2, am := w.extractLsb' 7 3, amf := w.extractLsb' 0 7 }

def wordVR (w : BitVec 32) : FmtVR :=
  { vd := w.extractLsb' 16 6, va := w.extractLsb' 10 6, vb := w.extractLsb' 4 6, msel := w.extractLsb' 1 3, pol := w.getLsbD 0 }

def wordVU (w : BitVec 32) : FmtVU :=
  { vd := w.extractLsb' 16 6, va := w.extractLsb' 10 6, msel := w.extractLsb' 1 3, pol := w.getLsbD 0 }

def wordVM (w : BitVec 32) : FmtVM :=
  { vt := w.extractLsb' 16 6, gb := w.extractLsb' 11 5, mode := w.extractLsb' 8 3, param := w.extractLsb' 4 4,
    msel := w.extractLsb' 1 3, pol := w.getLsbD 0 }

def wordVMmode (w : BitVec 32) : FmtVMmode :=
  { vt := w.extractLsb' 16 6, gb := w.extractLsb' 11 5, param := w.extractLsb' 4 4, msel := w.extractLsb' 1 3, pol := w.getLsbD 0 }

/-! ### The opcodes -/

/-- SYS instructions (Table 6.12). -/
def decodeSys (c : CoreId) (w : BitVec 32) : Option Instr :=
  let g := wordGuard w
  let f := wordSys w
  match (w.extractLsb' 0 7).toNat with
  | 0x00 => some (.nop c g f)
  | 0x01 => some (.jr c g f)
  | 0x02 => some (.callr c g f)
  | 0x03 => some (.ret c g f)
  | 0x04 => some (.eret c g f)
  | 0x05 => some (.shield c g f)
  | 0x06 => some (.trap c g f)
  | 0x07 => some (.fence c g f)
  | 0x08 => some (.wait c g f)
  | 0x09 => some (.inr c g f)
  | 0x0a => some (.outr c g f)
  | 0x0b => some (.mfc c g f)
  | 0x0c => some (.mtc c g f)
  | 0x0d => some (.rdpc c g f)
  | _ => none

/-- CACHE instructions (Table 6.16). -/
def decodeCache (c : CoreId) (w : BitVec 32) : Option Instr :=
  let g := wordGuard w
  let f := wordCache w
  match (w.extractLsb' 17 5).toNat with
  | 0x00 => some (.dzl c g f)
  | 0x01 => some (.pref c g f)
  | 0x02 => some (.clean c g f)
  | 0x03 => some (.flush c g f)
  | 0x04 => some (.inval c g f)
  | _ => none

/-- LONG instructions (R177). -/
def decodeLong (c : CoreId) (w : BitVec 32) : Option Instr :=
  match (w.extractLsb' 0 7).toNat with
  | 0x00 => some (.lcopy c (wordGuard w) (wordSys w))
  | 0x01 => some (.zfill c (wordGuard w) (wordSys w))
  | _ => none

/-- V.U operations of opcode 0x2c (Table 7.6). -/
def decodeVU (c : CoreId) (w : BitVec 32) : Option Instr :=
  let g := wordGuard w
  let f := wordVU w
  match (w.extractLsb' 4 6).toNat with
  | 0x00 => some (.vmov c g f)
  | 0x01 => some (.vsplat c g f)
  | 0x02 => some (.vget c g f)
  | 0x03 => some (.vabs c g f .pass)
  | 0x04 => some (.vneg c g f .pass)
  | 0x05 => some (.vsqrt c g f .pass)
  | 0x06 => some (.vcvt c g f .pass)
  | 0x07 => some (.vrint c g f .pass)
  | 0x08 => some (.viota c g f)
  | 0x09 => some (.vcompress c g f)
  | 0x20 => some (.kand c g f)
  | 0x21 => some (.kor c g f)
  | 0x22 => some (.kxor c g f)
  | 0x23 => some (.kandn c g f)
  | 0x24 => some (.knot c g f)
  | 0x25 => some (.kpop c g f)
  | 0x26 => some (.kfirst c g f)
  | 0x27 => some (.kset c g f)
  | 0x30 => some (.vsetvl c g f)
  | _ => none

/-- Vector reductions (R205). -/
def decodeReduction (c : CoreId) (w : BitVec 32) : Option Instr :=
  let func := w.extractLsb' 4 6
  if func = 0#6 || 9#6 < func then none else some (.vectorReduction c (wordGuard w) func (wordVU w) .pass)

/-- Vector loads and stores by VMF.MODE (Table 7.8). -/
def decodeVM (c : CoreId) (store : Bool) (w : BitVec 32) : Option Instr :=
  let g := wordGuard w
  match (w.extractLsb' 8 3).toNat with
  | 3 => if store then none else some (.firstFaultLoad c g (wordVMmode w))
  | 5 => some (.k4inl c g store (wordVMmode w))
  | 6 => none
  | 7 => none
  | _ => some (if store then .vectorStore c g (wordVM w) else .vectorLoad c g (wordVM w))

/-- Matrix instructions by SUB (Table 4.5). -/
def decodeMx (c : CoreId) (w : BitVec 32) : Option Instr :=
  let g := wordGuard w
  match (w.extractLsb' 18 4).toNat with
  | 0 => some (.mxCfg c g { gs := w.extractLsb' 13 5, rsv := w.extractLsb' 0 13 })
  | 1 =>
    let f : FmtMxLdw := { gw := w.extractLsb' 13 5, bank := w.getLsbD 11, t := w.getLsbD 10, rsv := w.extractLsb' 0 10 }
    some (if w.getLsbD 12 then .mxLdwAcc c g f else .mxLdw c g f)
  | 2 => some (.mxSeq c g { ga := w.extractLsb' 13 5, gw := w.extractLsb' 8 5, gc := w.extractLsb' 3 5, rsv := w.extractLsb' 0 3 })
  | 3 =>
    let f : FmtMxDrn :=
      { fmt := w.extractLsb' 14 4, rm := w.extractLsb' 11 3, om := w.getLsbD 10, bank := w.getLsbD 9, clear := w.getLsbD 8,
        img := w.getLsbD 7, gd := w.extractLsb' 2 5, rsv := w.getLsbD 1 }
    some (if w.getLsbD 0 then .mxDrnDiscard c g f else if f.img then .mxDrnImg c g f else .mxDrn c g f)
  | _ => none

/-- The instruction that a 32-bit word spells on core `c` (R147, R151, Table 6.4); none for a reserved OP, FUNC, SUB or operation code,
which raises an illegal-instruction exception (R150). The residue checks of a vector instruction pass: no bit of a word tells of them. -/
def decodeCoreWord (c : CoreId) (w : BitVec 32) : Option Instr :=
  let g := wordGuard w
  match wordOp w with
  | 0x00 => some (.alu c g (wordA w))
  | 0x01 => some (.addi c g (wordI12 w))
  | 0x02 => some (.andi c g (wordI12 w))
  | 0x03 => some (.ori c g (wordI12 w))
  | 0x04 => some (.xori c g (wordI12 w))
  | 0x05 => some (.shi c g (wordI12 w))
  | 0x06 => some (.movi c g (wordI17 w))
  | 0x07 => some (.movsh c g (wordI17 w))
  | 0x08 => some (.cmp c g (wordAC w))
  | 0x09 => some (.cmpi c g (wordIC w))
  | 0x0a => some (.pred c g (wordA w))
  | 0x0b => some (.muldiv c g (wordA w))
  | 0x0c => some (.fpu c g (wordA w))
  | 0x0d => some (.fcmp c g (wordAC w))
  | 0x0e => some (.fcvt c g (wordIV w))
  | 0x10 => some (.br c g (w.extractLsb' 0 22))
  | 0x11 => some (.call c g (w.extractLsb' 0 22))
  | 0x12 => decodeSys c w
  | 0x14 => some (.ld c g (wordM w))
  | 0x15 => some (.ldu c g (wordM w))
  | 0x16 => some (.st c g (wordM w))
  | 0x17 => decodeCache c w
  | 0x18 => some (.amo c g (wordA w))
  | 0x19 => decodeLong c w
  | 0x1c => some (if w.getLsbD 0 then .portOut c g (wordIO w) else .portIn c g (wordIO w))
  | 0x20 => some (.vadd c g (wordVR w) .pass)
  | 0x21 => some (.vsub c g (wordVR w) .pass)
  | 0x22 => some (.vmul c g (wordVR w) .pass)
  | 0x23 => some (.vfma c g (wordVR w) .pass)
  | 0x24 => some (.vfnma c g (wordVR w) .pass)
  | 0x25 => some (.vmin c g (wordVR w) .pass)
  | 0x26 => some (.vmax c g (wordVR w) .pass)
  | 0x27 => some (.vdiv c g (wordVR w) .pass)
  | 0x28 => some (.vand c g (wordVR w))
  | 0x29 => some (.vor c g (wordVR w))
  | 0x2a => some (.vxor c g (wordVR w))
  | 0x2b => some (.vcmp c g (wordVR w) .pass)
  | 0x2c => decodeVU c w
  | 0x2d => decodeReduction c w
  | 0x2e => decodeVM c false w
  | 0x2f => decodeVM c true w
  | 0x30 => decodeMx c w
  | _ => none

end Sys2Proof
end

