-- ==== Sys2Proof/Config.lean ====
section
/-! DEFINITION. What the manual leaves open: free values, constants without a body, and what one implementation fixes.
Nothing in Lean can evaluate a free value or prove one of it. -/

namespace Sys2Proof.Config

/-- Core cycles that an instruction occupies beyond its one issue cycle, by device core index and RETIRED (log 4). -/
opaque extraCycles : Nat → Nat → Nat

/-- Core cycles of a tick that belong to no instruction, by device core index and tide (log 4). -/
opaque tickCycles : Nat → Nat → Nat

/-- A fresh free number, by the counter `State.free` (log 1). -/
opaque freeNat : Nat → Nat

/-- What an approximate element-wise operation leaves open within its bound (R129, R134), by format code, OP and operand bits. -/
opaque ewApprox : Nat → Nat → Nat → Nat

/-- The set of its slice in which a line of a cove lies, by line number: the manual gives the slice of a line and no set (R254). -/
opaque coveSet : Nat → Nat

/-- Which of a set's two guest lines a third one replaces, by line number and the set's tree (R255). -/
opaque guestVictim : Nat → Nat → Nat

/-- The row of a Near DPA within its isle: its place among the stacks' rows (the manual does not give the mapping). -/
opaque nearRow : Nat → Nat

/-- The bank of a row (R284). -/
opaque nearBank : Nat → Nat

/-- The frames with bytes in a row of an isle (R285). -/
opaque rowFrames : Nat → Nat → List Nat

/-- Wake tokens of an operating point in MHz that Table 14.2 does not list (R423). -/
opaque wakeTokens : Nat → Nat

/-- SHA-384 of bytes (R472, R478), left without a body: no statement rests on its values. -/
opaque sha384 : List Byte → BitVec 384

/-- This device's Strait ID, as its part record fixes it (R471). -/
opaque straitId : Word

/-- SVN_FLOOR of the part record (R471), an SVN of 32 bits as those of Tables 16.2 and 16.3. -/
opaque svnFloor : BitVec 32

/-- The digests of the boot ROM and of the part record (Table 16.6). -/
opaque romDigest : BitVec 384
opaque partDigest : BitVec 384

/-- The 384-bit device seed that the PUF gives this device (R469). -/
opaque pufSeed : BitVec 384

/-- HKDF-SHA-384 of the seed for the key of a number, with what else that key depends on (R470). -/
opaque hkdf : BitVec 384 → Nat → BitVec 384 → BitVec 384

/-- The public key of a derived ECDSA P-384 key (R470). -/
opaque publicKey : BitVec 384 → BitVec 768

/-- The MAC address of a host Ethernet port (Table 17.7). -/
opaque mac : Nat → BitVec 48

end Sys2Proof.Config
end

