-- ==== Sys2Proof/Machine/Flags.lean ====
section
/-! DEFINITION. The five IEEE flags, POISON_IN and CHECK_RETRIED, in the bit order of the tile status word [6:0]
(Table 4.10), which FSTAT (R186), VSTAT (R191), MFLAGS and the element-wise FLAGS share. -/

namespace Sys2Proof.Machine

/-- Raised flags, bit order of the tile status word [6:0]. -/
abbrev Flags := BitVec 7

namespace Flags

def none : Flags := 0#7
def inexact : Flags := 0x01#7
def underflow : Flags := 0x02#7
def overflow : Flags := 0x04#7
def divByZero : Flags := 0x08#7
def invalid : Flags := 0x10#7
def poisonIn : Flags := 0x20#7
def checkRetried : Flags := 0x40#7

/-- `x` when `b`, no flag otherwise. -/
def when (b : Bool) (x : Flags) : Flags := if b then x else none

end Flags

/-- The five IEEE flags of a set of flags. -/
def Flags.ieee (f : Flags) : BitVec 5 := f.extractLsb' 0 5

/-- Whether a flag is raised whose bit in a TRAPEN field is set (R224, R218). -/
def Flags.traps (f : Flags) (trapEn : BitVec 5) : Bool := (f.ieee &&& trapEn) != 0#5

end Sys2Proof.Machine
end

