-- ==== Sys2Proof/Machine/State.lean ====
section
/-! DEFINITION. The state of the block: plain data holding every piece of state the manual names (INVENTORY.md, '## State').
Sparse maps are lists of (key, value) pairs in rising key order; what an unlisted key reads as is given at its accessor in
Machine/Ops.lean. -/

namespace Sys2Proof.Machine

/-- A sparse map. -/
abbrev Map (α : Type) := List (Nat × α)

/-- Bytes at addresses, in canonical form: addresses rising, no zero byte listed; an unlisted byte reads zero (log 6). -/
abbrev Bytes := List Host.Cell

/-! ### The scalar core (ch. 6 and 8) -/

/-- What the core is doing between commands: issuing; in WAIT (R233); holding an access on a replayable fault (R220);
running an MX.SEQ (R107); quarantined (R229), as a halt ends as well (R226). -/
inductive RunState where
  | running
  | waiting
  | faultWait
  | matrix
  | quarantined
deriving DecidableEq, Repr

/-- A line of the L1 data cache (R240): the context and the virtual line that allocated it, its frame address over 64, its bytes; `bad`
when a modified line has met an uncorrectable error (R245). -/
structure L1Line where
  ctx : Nat
  line : Nat
  dpaLine : Nat
  data : List Byte
  modified : Bool
  bad : Bool
deriving DecidableEq, Repr

/-- One set of the L1 data cache: eight ways and the tree bits t[0]-t[6] of R242. -/
structure L1Set where
  ways : Vector (Option L1Line) 8
  tree : BitVec 7
deriving DecidableEq, Repr

/-- What takes the one miss slot (R241): a fill of a line, or a load that bypasses L1. -/
inductive Miss where
  | none
  | fill (ctx line : Nat)
  | bypass
deriving DecidableEq, Repr

/-- A store that waits in the store buffer (R241): its address, translation, epoch, bytes, and RETIRED when it retired (R230). -/
structure BufferedStore where
  ea : Word
  dpa : Nat
  ctx : Nat
  epoch : BitVec 16
  data : List Byte
  retiredAt : Word
deriving DecidableEq, Repr

/-- A late bus error that waits for LBINFO to be read (R230). -/
structure LateError where
  ea : Word
  retiredAt : Word
deriving DecidableEq, Repr

/-- The circular-buffer registers c0-c3 (Table 6.15). -/
structure CReg where
  base : BitVec 56
  bits : BitVec 5
  len : BitVec 32
deriving DecidableEq, Repr

/-- The scalar part of a core. `lagoonBad` and `scratchBad` number the 8-byte words that have met an uncorrectable error and have not been
written whole since (R245, R246, R251, R283). -/
structure Scalar where
  g : Vector Word 32
  p : BitVec 8
  c : Vector CReg 4
  pc : Word
  priv : BitVec 2
  opmode : BitVec 2
  cycles : Word
  retired : Word
  ctxid : BitVec 12
  trapEn : BitVec 5
  fflags : BitVec 6
  fround : BitVec 3
  lprogValid : Bool
  lprogKind : Bool
  lprogDir : Bool
  lprogDone : BitVec 21
  evecRt : Word
  evecMon : Word
  epc : Word
  ecauseInt : Bool
  ecauseInfo : BitVec 8
  ecauseCode : BitVec 8
  eaddr : Word
  epriv : BitVec 2
  lbaddr : BitVec 56
  lbValid : Bool
  lbCount : BitVec 32
  late : List LateError
  irqPeer : Bool
  irqHarbour : Bool
  irqmask : BitVec 7
  ssbase : Word
  sslimit : Word
  ss : List Word
  ssSpilled : BitVec 32
  shieldOpen : Bool
  shieldAt : Word
  shieldUsed : Bool
  monitorEntry : Bool
  runtimeEntry : Bool
  hold : Bool
  run : RunState
  l1 : Map L1Set
  miss : Miss
  stores : List BufferedStore
  scratchW : Nat
  scratch : Bytes
  scratchBad : List Nat
  lagoon : Bytes
  lagoonBad : List Nat
deriving DecidableEq, Repr

/-- The vector unit (R152, R187, R191-R194). `flags` is VSTAT[5:0]. -/
structure Vec where
  v : Vector (BitVec 1024) 64
  k : Vector (BitVec 2048) 8
  om : Bool
  cfmt : BitVec 4
  grp : BitVec 2
  efmt : BitVec 4
  vl : BitVec 12
  reason : BitVec 8
  checkRetried : Bool
  cfgRej : Bool
  trapEn : BitVec 5
  ffTrunc : Bool
  empty : Bool
  flags : BitVec 6
  round : BitVec 3
  retry : BitVec 32
deriving DecidableEq, Repr

/-! ### The matrix engine (ch. 3 and 4) -/

/-- The class of a decoded operand (R68). -/
inductive OpClass where
  | finite
  | infinite
  | nan
  | poison
deriving DecidableEq, Repr

/-- A decoded operand (R68): its value is (-1)^s m 2^t; a special operand has m = 0. -/
structure Opd where
  s : Bool
  m : Nat
  t : Int
  cls : OpClass
deriving DecidableEq, Repr

/-- A wide accumulator element (Table 3.5). -/
structure Acc where
  sig : BitVec 96
  exp : BitVec 14
  sticky : Bool
  special : BitVec 3
  residue : BitVec 3
deriving DecidableEq, Repr

/-- A weight register (R91): `st` is coded as MSTAT.WR0. `cols` holds the chunk's columns of decoded operands; while it loads,
`offs` are its segments' lagoon offsets and `before` is the lagoon as it was at issue (R96). -/
structure WReg where
  st : BitVec 2
  fmt : BitVec 4
  k : Nat
  n : Nat
  t : Bool
  offs : List Nat
  before : Bytes
  cols : List (List Opd)
deriving DecidableEq, Repr

/-- A running MX.SEQ (R107): its base offsets, the register that holds its count, the position of its next step. -/
structure Seq where
  ga : BitVec 20
  gw : BitVec 20
  rc : BitVec 5
  chunk : BitVec 16
  pass : BitVec 4
  row : BitVec 7
deriving DecidableEq, Repr

/-- What a drain does with its bank (R111). -/
inductive DrainKind where
  | push
  | img
  | discard
deriving DecidableEq, Repr

/-- A row that a shoal's lanes have read and rounded and that waits in their elastic links (R114). -/
structure LinkRow where
  data : List Byte
  flags : Flags
  retries : Nat
deriving DecidableEq, Repr

/-- One shoal's part of a drain: whether it has its tile-queue entry, rows read, rows written, rows in the links. -/
structure DrainLane where
  taken : Bool
  read : Nat
  written : Nat
  links : List LinkRow
deriving DecidableEq, Repr

/-- A drain in progress (R111), with MCFG as captured at issue; `base` is the lagoon offset of IMG. -/
structure Drain where
  kind : DrainKind
  cfg : Word
  fmt : BitVec 4
  rm : BitVec 3
  om : Bool
  clear : Bool
  tag : BitVec 16
  dseq : BitVec 16
  base : BitVec 20
  lanes : Vector DrainLane 4
deriving DecidableEq, Repr

/-- An accumulator restore in progress (R106): its lagoon offset and the lagoon as it was at issue. -/
structure Restore where
  base : BitVec 20
  before : Bytes
deriving DecidableEq, Repr

/-- A bank event word (R115). -/
structure BankEvent where
  retried : Bool
  mask : BitVec 64
  retries : BitVec 16
deriving DecidableEq, Repr

/-- A tile-queue entry (R116): TILE_HDR, the tile status word, its data; `visible` when every row is written. -/
structure Tile where
  hdr : Word
  status : BitVec 128
  data : List Byte
  visible : Bool
deriving DecidableEq, Repr

/-- The matrix engine of a core. `banks` holds the elements that are not cleared, by shoal, row and column (1024 s + 16 i + j);
`passBuf` the segments of the running chunk by 64 s + i (R102); `seen` the lagoon as it was when the MX.SEQ was first issued
(R96); `discardWait` a TQDISCARD that waits for a drain to end. -/
structure Mx where
  mcfg : Word
  reason : BitVec 8
  skewReject : Bool
  wr0 : WReg
  wr1 : WReg
  wnext : Bool
  seq : Option Seq
  seen : Bytes
  passBuf : Map (List Opd)
  banks : Vector (Map Acc) 2
  events : Vector (Vector BankEvent 4) 2
  drains : Vector (Option Drain) 2
  restores : Vector (Option Restore) 2
  progValid : Bool
  progChunk : BitVec 16
  progPass : BitVec 4
  progRow : BitVec 7
  trapPend : Bool
  mflags : Flags
  mretry : BitVec 32
  mround : BitVec 3
  arow : BitVec 20
  ashoal : BitVec 20
  achunk : BitVec 20
  wcol : BitVec 20
  wchunk : BitVec 20
  srTide : Word
  srOwner : BitVec 11
  srElem : Word
  srPitch : Word
  lskew : Vector Word 4
  tq : List Tile
  tqHead : BitVec 3
  dseq : BitVec 16
  discardWait : Bool
deriving DecidableEq, Repr

/-- An element of a value in some format: its code, and whether its word is poisoned (R51, R197). -/
structure Elem where
  bits : Nat
  poisoned : Bool
deriving DecidableEq, Repr

/-- A completion record in a FIFO: the word its port reads, and whether its descriptor had IRQ set (R322). -/
structure Cpl where
  word : Word
  irq : Bool
deriving DecidableEq, Repr

/-- The result of an operation that writes an encoding: the bits, whether the value is exceptional (R52), its flags. -/
structure Coded where
  bits : Nat
  exc : Bool
  flags : Flags
deriving DecidableEq, Repr

/-- A posted tensor descriptor (R121): its sixteen words, and the lagoon as it was at its post, with the engine's own later
writes in it (R140). -/
structure EwDesc where
  words : Vector Word 16
  before : Bytes
deriving DecidableEq, Repr

/-- The running descriptor: elements visited, whether an entry is held at the head of the tile queue (R136), what its record
will carry, the scales of the scale word in hand (R517), the elements of its open reduction outputs by output position (R130),
the output for a ferry sink, and whether that output is in the ferry stream (R139). -/
structure EwJob where
  desc : EwDesc
  pos : Nat
  tile : Bool
  flags : Flags
  tileFlags : Flags
  empty : Bool
  entries : Nat
  status : Nat
  scales : List (Option Nat)
  opens : Map (List (Option Elem))
  outs : List Coded
  sinking : Bool
deriving DecidableEq, Repr

/-- A completion record that waits to be pushed. -/
structure EwRecord where
  cpl : Cpl
  flags : Flags
  empty : Bool
  err : Bool
deriving DecidableEq, Repr

/-- The element-wise engine (Tables 5.9, 5.10). -/
structure Ew where
  queue : List EwDesc
  job : Option EwJob
  due : List EwRecord
  fifo : List Cpl
  postRej : Bool
  err : Bool
  empty : Bool
  flags : Flags
  round : BitVec 3
  retry : BitVec 32
  rej : BitVec 32
deriving DecidableEq, Repr

/-- Where a ferry descriptor is: in the queue; checked, waiting for a ferry; moved by ferries; ended. -/
inductive FerryPhase where
  | queued
  | ready
  | running
  | ended
deriving DecidableEq, Repr

/-- A ferry descriptor in its stream (R314-R322): its words, the context and level of its post, its number, the status it ends
with, its tiles completed; `sink` holds the bytes of an element-wise sink (R139). -/
structure FerryItem where
  words : Vector Word 8
  ctx : Nat
  level : BitVec 2
  seq : Nat
  sink : Option (List Byte)
  phase : FerryPhase
  status : Nat
  done : Nat
deriving DecidableEq, Repr

/-- A ferry stream: its descriptors in posting order, its completion FIFO, the number of its next descriptor. -/
structure Stream where
  items : List FerryItem
  fifo : List Cpl
  next : Nat
deriving DecidableEq, Repr

/-- A core's ferry ports that its streams share (Table 10.9), and the stream at which the pool's rotation stands (R320). -/
structure FerryPorts where
  err : Bool
  postRej : Bool
  rej : BitVec 32
  rotate : Nat
deriving DecidableEq, Repr

/-- A core's tide ports (Tables 13.1, 13.2). -/
structure TidePorts where
  wakeEn : Bool
  wakeTick : BitVec 63
  tstat : BitVec 5
deriving DecidableEq, Repr

/-- A core's power state (Tables 14.5, 14.7): its ports; whether a gated duty window holds it (R430); the point in MHz that its wake
tokens cover, 0 while gated, and the point it waits for (R434). -/
structure PowerPorts where
  evt : BitVec 6
  mask : BitVec 6
  dutyCnt : BitVec 32
  wakeCnt : BitVec 32
  gated : Bool
  point : Nat
  want : Option Nat
deriving DecidableEq, Repr

/-- Harbour's account of a core (R455-R457): tide values of its quarantines of the last 24 hours, whether it is withdrawn, whether a
self-test runs. -/
structure Health where
  quarantines : List Word
  withdrawn : Bool
  testing : Bool
deriving DecidableEq, Repr

/-- A core. -/
structure Core where
  sc : Scalar
  vec : Vec
  mx : Mx
  ew : Ew
  streams : Map Stream
  fp : FerryPorts
  tp : TidePorts
  pw : PowerPorts
  health : Health
deriving DecidableEq, Repr

/-! ### The isle (ch. 9) -/

/-- A contribution that waits for its turn (R262). -/
structure Staged where
  line : Nat
  idx : Nat
  data : List Byte
deriving DecidableEq, Repr

/-- A reduction window (Tables 9.5-9.7): its two ports, its status, and while it is open its first line's DPA, the next index
of each line (R260), the elements of each line so far, and whether an ordinary access has left it undefined (R263). -/
structure Window where
  base : Word
  cfg : Word
  opened : Bool
  done : Bool
  err : Bool
  reason : BitVec 8
  empty : Bool
  flags : Flags
  linesDone : Nat
  dpa : Nat
  ctx : Nat
  launch : Option Nat
  next : Map Nat
  vals : Map (List Elem)
  spoiled : Bool
  staged : List Staged
deriving DecidableEq, Repr

/-- A Mid request that waits for its response (R273): `data` is what the buffer read when it executed the command. -/
structure MidRequest where
  read : Bool
  addr : Nat
  bytes : Nat
  data : List Byte
deriving DecidableEq, Repr

/-- A command to the Mid buffer (Table 9.11): its code, tag and address, its byte mask, the data that a write carries. -/
structure MidCommand where
  code : Nat
  tag : Nat
  addr : Nat
  mask : Nat
  data : List Byte
deriving DecidableEq, Repr

/-- The Mid link of an isle (R271-R273). Receiving: lanes in use, the frame number expected next, consecutive replays, a NAK owed to the
other side, the credits that its frames have earned and that no header has returned yet. Sending: the next number, the last number that
the other side received in order, whether it asked for a replay from the next one and how often in a row, the credits it returned, the
frames not yet acknowledged (at most 64), every frame sent. The commands that wait for a retrain or for a place in the replay buffer, the
requests outstanding, and what their responses brought, by tag. -/
structure MidLink where
  lanes : BitVec 16
  expect : BitVec 12
  replays : Nat
  nak : Bool
  owedCommands : Nat
  owedData : Nat
  next : BitVec 12
  acked : BitVec 12
  resend : Bool
  resends : Nat
  commandCredits : Nat
  dataCredits : Nat
  replay : List MidFrame
  sent : List MidFrame
  retraining : Bool
  waiting : List MidCommand
  outstanding : Map MidRequest
  returned : Map (List Byte)
  corrected : Nat
deriving DecidableEq, Repr

/-- Repair state of a Near row (R284, R285), keyed by row at its place in `Isle.rows`: tide values of the corrected-error
events of the last 24 hours, and the spare it is remapped to. -/
structure NearRow where
  events : List Word
  spare : Option Nat
deriving DecidableEq, Repr

/-- What an isle's two stacks and cores are held to (Table 9.14, R433, R438): kept readings and their bands; the ageing adder, when
it last rose, the steps taken off the boost ceiling, and whether margin is short at the guaranteed frequency. -/
structure IsleHeat where
  t0 : Nat
  t1 : Nat
  band0 : Nat
  band1 : Nat
  junction : BitVec 16
  junctionStep : Nat
  ageing : Nat
  ageingAt : Option Word
  ageingDue : Bool
  ageingCut : Nat
  worn : Bool
deriving DecidableEq, Repr

/-- A ferry's current share (R320): its core and stream, the descriptor's number, the tile it moves and the next unit of it (a
row, or a line of a REDUCE), the end of its share; `waitAt` the page on whose fault record it waits (R307). -/
structure FerryShare where
  core : Nat
  stream : Nat
  seq : Nat
  next : Nat
  row : Nat
  stop : Nat
  waitAt : Option Nat
deriving DecidableEq, Repr

/-- A line of a cove (R254, R255): its way in its set, whether it is modified, and for a guest line of Deep the frame tag that it keeps. Its
bytes are those of `State.mem`, since the coves are coherent (R253). -/
structure CoveLine where
  way : Nat
  modified : Bool
  guest : Option Nat
deriving DecidableEq, Repr

/-- The cove of an isle (R247, R254): its lines by number, a DPA over 128, and the tree bits of its sets by set number; a set that is not listed
has a tree of zeros. -/
structure Cove where
  lines : Map CoveLine
  trees : Map (BitVec 15)
deriving DecidableEq, Repr

/-- An isle. -/
structure Isle where
  windows : Map Window
  cvce : BitVec 32
  mid : MidLink
  rows : Map NearRow
  badSpares : Map Nat
  heat : IsleHeat
  ferries : Map FerryShare
  rotate : Nat
  tokens : Nat
  idle : Nat
  idleSince : Word
deriving DecidableEq, Repr

/-- The Deep controller's accounts (Table 9.12); WEAR_USED and SPARE_LEFT in hundredths of a percent. `lost` numbers the 4 KiB pages that
could not be rebuilt and have not been written since (R277, R283). -/
structure Deep where
  hostWritten : Nat
  mediaWritten : Nat
  wear : Nat
  spare : Nat
  rebuilt : Nat
  lost : List Nat
  wearPosted : Bool
  readOnly : Bool
deriving DecidableEq, Repr

/-- One token bucket (R280). -/
structure Regulator where
  rate : Nat
  burst : Nat
  floor : Nat
deriving DecidableEq, Repr

/-! ### Contexts, frames and faults (ch. 10, 12) -/

/-- A frame tag (R296). -/
structure FrameTag where
  retired : Bool
  ctx : Nat
deriving DecidableEq, Repr

/-- A placed translation table (R520): its DPA and its size. -/
structure Placed where
  dpa : Nat
  size : Nat
deriving DecidableEq, Repr

/-- A region (R301). -/
structure Region where
  base : Nat
  len : Nat
deriving DecidableEq, Repr

/-- An UNMAP that waits for its epoch to drain (R312 step 7), or the one inside a CTX_CLOSE (R372): the queue that runs it, its
epoch, the leaves cleared, and with RELEASE the DPA ranges that they mapped. -/
structure Unmapping where
  queue : Nat
  closing : Bool
  epoch : BitVec 16
  cleared : Nat
  ranges : List (Nat × Nat)
deriving DecidableEq, Repr

/-- An open context (R290). -/
structure Ctx where
  part : Nat
  poolFirst : Nat
  poolLast : Nat
  tables : List Placed
  epoch : BitVec 16
  faultTimeout : Nat
  regions : Map Region
  unmapping : List Unmapping
deriving DecidableEq, Repr

/-- Who waits on a fault record (R306): class 0 a core, 1 a ferry stream of it, 2 its element-wise sink. -/
structure Waiter where
  cls : Nat
  core : Nat
  stream : Nat
  write : Bool
  read : Bool
deriving DecidableEq, Repr

/-- A WAITING fault record (Table 10.6). -/
structure FaultRec where
  firstTide : Word
  va : Nat
  ctx : Nat
  timeout : Nat
  count : BitVec 32
  waiters : List Waiter
deriving DecidableEq, Repr

/-! ### Harbour: queues, graphs, launches (ch. 11-13) -/

/-- A 64-byte command, completion or event entry, as eight words. -/
abbrev Entry := Vector Word 8

/-- A started entry that has not completed (R359): its number, the entry, the tide of its start, what it has counted. -/
structure Running where
  seq : BitVec 32
  entry : Entry
  start : Word
  count : Nat
deriving DecidableEq, Repr

/-- A completion or event that the host has not acknowledged (R330): its number, the entry, the tide of its last sending, the interval to the
next one in µs. -/
structure Unacked where
  seq : BitVec 32
  entry : Entry
  sentAt : Word
  interval : Nat
deriving DecidableEq, Repr

/-- A submission queue (R328-R354). `started` numbers the next entry to start, `skip` the entries that ended before their turn
(R352, R371), `running` the entry that has begun and not completed, a FENCE_WAIT that waits at the head among them (R334, R353);
`failedSince` says whether a launch failed since the last FENCE_SIGNAL; `compWaiting` are the completions of entries that never started,
which wait for room in the completion ring (log 207). -/
structure Queue where
  expect : BitVec 32
  committed : BitVec 32
  started : BitVec 32
  ring : Map Entry
  skip : List (BitVec 32)
  halted : Bool
  running : Option Running
  failedSince : Bool
  compNext : BitVec 32
  unacked : List Unacked
  compWaiting : List Entry
deriving DecidableEq, Repr

/-- A fence counter (R352). -/
structure Fence where
  err : Bool
  value : BitVec 63
deriving DecidableEq, Repr

/-- A frame that the device sent (R326-R333). -/
structure OutFrame where
  dest : Option HostAddr
  type : BitVec 8
  queue : BitVec 4
  seq : BitVec 32
  ack : BitVec 32
  tide : Word
  entries : List Entry
deriving DecidableEq, Repr

/-- The event stream (R336, R459). -/
structure Events where
  next : BitVec 32
  unacked : List Unacked
  waiting : List Entry
deriving DecidableEq, Repr

/-- A stored graph (R341, R343). -/
structure Graph where
  ctx : Nat
  img : ImageHeader
  live : List Byte
deriving DecidableEq, Repr

/-- TIMING of a completion (Table 11.3). -/
structure Timing where
  boost : Bool
  wake : Bool
  throttle : BitVec 8
  retries : Nat
  duty : Nat
  slip : Nat
deriving DecidableEq, Repr

/-- A launch's failure as Harbour recorded it first (R454). -/
structure Failure where
  result : Word
  tide : Word
deriving DecidableEq, Repr

/-- A stop that a launch has agreed (R417): tc, reason, origin rank. -/
structure Stop where
  tc : Word
  reason : BitVec 8
  origin : BitVec 10
deriving DecidableEq, Repr

/-- A START that rank 0 has collected (R409). -/
structure Started where
  rank : BitVec 10
  tick : Word
  arrived : Word
deriving DecidableEq, Repr

/-- An OUTCOME held for the boundary at which it applies (R411). -/
structure HeldOutcome where
  slip : Bool
  commit : Bool
deriving DecidableEq, Repr

/-- A launch record (R344, R409-R417). `done` lists the cores whose work item is DONE with result zero, `voted` those
that wrote TVOTE for the current phase and the tide at which they did, `gfreq` the guaranteed frequency at dispatch in MHz (R422), `first` the phase it began with (R415), 
`flits` the flit indices that run r has received, at 2r, or sent, at 2r + 1; `rx` the payloads that FORWARD and RECV_REDUCE runs hold, at
65536 r + FIDX; `lines` the lines that a RECV_REDUCE run has contributed; `heldRx` the flits of RECV runs, by run and FIDX, whose write
waits on a fault record (R305), their payloads in `rx`. `stop` is the smallest tc known, `ownStop` the COAST that this device
originated (R400). -/
structure Launch where
  id : Word
  slot : Nat
  ctx : Nat
  queue : Nat
  seq : BitVec 32
  tag : BitVec 32
  deterministic : Bool
  gfreq : Nat
  srTide : Word
  dispatchTide : Word
  startTick : Word
  agreed : Bool
  snapSlot : Nat
  cores : List Nat
  posted : List Nat
  done : List Nat
  key : Word
  first : Nat
  phase : Nat
  base : Nat
  offset : Nat
  phaseSlips : Nat
  voted : Map Word
  starts : List Started
  votes : List (BitVec 10 × Bool)
  sampled : Bool
  outcome : Option HeldOutcome
  stop : Option Stop
  ownStop : Option Stop
  stopped : Bool
  unloaded : Bool
  flits : Map (List Nat)
  rx : Map (List Byte)
  lines : Map (List Nat)
  heldRx : List (Nat × Nat)
  mark : Option Nat
  timing : Timing
  failure : Option Failure
deriving DecidableEq, Repr

/-- A mooring's binding (R347-R351): which graph's task it holds, the tide of its last post, and the tide at which Harbour
wrote BIND or UNBIND and began to wait. -/
structure Mooring where
  graph : Option Nat
  lastPost : Word
  since : Word
deriving DecidableEq, Repr

/-- A RoCE queue pair in use (R355): its path MTU and its Ethernet port. -/
structure QueuePair where
  mtu : Nat
  port : Bool
deriving DecidableEq, Repr

/-- Harbour's host-facing state. -/
structure Harbour where
  queues : Vector Queue 6
  events : Events
  fences : Map Fence
  graphs : Map Graph
  launches : Map Launch
  nextLaunch : Word
  moorings : Map Mooring
  hello : Option HostAddr
  greeted : Bool
  lastCmd : Option HostAddr
  discarded : BitVec 64
  discardSecond : Map Word
  roceNaks : BitVec 64
  qps : Map QueuePair
  sent : List OutFrame
  ctxs : Map Ctx
  regionGen : Map Nat
  regionRetired : List Nat
  faults : Map FaultRec
  faultsWaiting : List (FaultRec × Bool)
  partition : Vector Nat 8
  staging : Vector Nat 8
  regulators : Map Regulator
  lastCtx : Map Nat
  unclean : List Nat
  freeing : List (List Nat)
deriving DecidableEq, Repr

/-! ### Tide and Strait (ch. 13) -/

/-- A DATA flit of a launch, kept for 64 ticks from `sentAt`, the tick that sent it first; `tick` is the one that it names (R398, R407). -/
structure SentFlit where
  launch : Nat
  tick : Word
  sentAt : Word
  slot : Nat
  stream : BitVec 12
  fidx : Nat
  payload : List Byte
  resends : Nat
  due : Bool
deriving DecidableEq, Repr

/-- A flit as a port transmitted it (R397). -/
structure SentOut where
  tick : Word
  slot : Nat
  flit : Flit
deriving DecidableEq, Repr

/-- A Strait port (Table 13.6). `crcTimes` and `missTimes` are the tide values of the last 1,024 ticks' failures, `lastSide`
that of the last valid side flit, `cells` the cells that wait for it. -/
structure Port where
  state : BitVec 3
  reason : BitVec 4
  d : BitVec 3
  crcErr : BitVec 32
  mismatch : BitVec 8
  neighbour : Word
  peerTide : Word
  rootId : Word
  rootHops : Nat
  lastSide : Word
  failedAt : Word
  crcTimes : List Word
  missTimes : List Word
  kept : List SentFlit
  lost : Map Nat
  cells : List Cell
deriving DecidableEq, Repr

/-- A VOTE or START held for a launch that is not here yet (R400). -/
structure HeldCell where
  cell : Cell
  port : Option PortId
  since : Word
deriving DecidableEq, Repr

/-- The Strait dies and the tide election (R389-R400). `errors` are the last 256 tide errors, `skew` the ticks for which their mean
has exceeded twice each level's skew bound (R391). -/
structure Strait where
  id : Word
  root : Word
  hops : Nat
  parent : Option PortId
  errors : List Int
  skew : Vector Nat 4
  ports : Vector Port 12
  seen : List (BitVec 8 × BitVec 10 × Word × BitVec 32)
  held : List HeldCell
  sent : List (PortId × SentOut)
deriving DecidableEq, Repr

/-! ### Reporting (ch. 15) -/

/-- An open alarm identity (R460, Table 15.5). `pendingRepeat` says that a repeat has followed its latest entry, `acked`
that the latest entry is acknowledged. -/
structure Alarm where
  code : BitVec 16
  source : BitVec 16
  count : BitVec 32
  firstTide : Word
  lastTide : Word
  firstDetail : Word
  lastDetail : Word
  seq : BitVec 32
  entrySeq : Option (BitVec 32)
  acked : Bool
  pendingRepeat : Bool
deriving DecidableEq, Repr

/-- A log record (Table 15.7). -/
structure LogRec where
  seq : Nat
  tide : Word
  cls : BitVec 8
  code : BitVec 16
  source : BitVec 16
  ctx : Nat
  data : List Word
deriving DecidableEq, Repr

/-- A trace ring (R465): entries with their numbers, oldest first, the next number, and how many were overwritten. -/
structure Ring where
  entries : List (Nat × Word × Word × Word × Word)
  next : Nat
  lost : Nat
deriving DecidableEq, Repr

/-- An open storm period (R466). -/
structure Storm where
  opened : Bool
  fromTide : Word
  lastLoss : Word
  coalesced : Nat
  overflowed : Nat
  drops : Vector Nat 4
  overwrites : Nat
  rings : BitVec 7
deriving DecidableEq, Repr

/-- A platform event record for the sideband (R510). -/
structure SideRec where
  code : BitVec 16
  source : BitVec 16
  count : BitVec 32
  detail : Word
deriving DecidableEq, Repr

/-- Harbour's reporting state (R459-R466, R510). -/
structure Report where
  alarms : List Alarm
  log : List LogRec
  logNext : Nat
  drops : Vector Nat 4
  traces : Vector Ring 7
  noticeFirst : Option Nat
  noticeCrit : Nat
  noticeErr : Nat
  noticeAt : Option Word
  storm : Storm
  retirement : Map Nat
  sideband : List SideRec
deriving DecidableEq, Repr

/-! ### Power, the Lighthouse and the current limiter (ch. 14, 15) -/

/-- The three shares of module input power (R426). -/
structure Shares where
  links : Nat
  memory : Nat
  compute : Nat
deriving DecidableEq, Repr

/-- Harbour's power state: whether the power stage runs; the profile and the top's rating; a profile read once and when (R421);
POWER_CAP's setting, order and floors, `none` at their defaults; the latency tolerance in µs; the last window's demands, grants,
ceiling; the module's draws of the windows of the last second with the tide of each one's end (Table 12.6); the duty patterns of both classes (R430, R431); since when the cap is unmet, the last shedding, queues shed (R432);
half tokens of the module's wake bucket (R434); the device's idle state and since when (R440). -/
structure Power where
  on : Bool
  profile : Nat
  rating : Option Nat
  topPending : Option (Nat × Word)
  cap : Option Nat
  order : BitVec 6
  floors : Option Shares
  tolerance : Nat
  demand : Shares
  grant : Shares
  ceiling : Nat
  draws : List (Word × Nat)
  duty : Nat
  dutyDet : Nat
  unmet : Option Word
  lastShed : Option Word
  shed : List Nat
  tokens : Nat
  idle : Nat
  idleSince : Word
deriving DecidableEq, Repr

/-- A trip record (R450). -/
structure Trip where
  code : BitVec 8
  stage : Nat
  tide : Word
  reading : Word
  posted : Bool
deriving DecidableEq, Repr

/-- The Lighthouse and the limiter (R446-R452): the stage of Clamp in force, Shed, the code of the latest trip, the last 16 trips
oldest first and how many there have been, a failed self-check, the last heartbeat, the limiter's gate, the decoded cooling kind. -/
structure Lighthouse where
  clamp : Nat
  shed : Bool
  code : BitVec 8
  trips : List Trip
  count : Nat
  fault : Bool
  beat : Word
  limiter : Bool
  kind : Nat
deriving DecidableEq, Repr

/-! ### Boot, identity and the module's interfaces (ch. 16, 17) -/

/-- A firmware image in flash (Table 16.3): SVN, VERSION and the digest of its header. -/
structure FwImage where
  svn : Nat
  version : Nat
  digest : BitVec 384
deriving DecidableEq, Repr

/-- The on-package flash (Table 16.1), the part record apart: the image that an update or recovery last wrote, whether the image region
holds none (R487), MIN_SVN and BOOT_FAILS, the owner record's digest, the service record
(field repairs as isle, row and spare; retired frames; withdrawn cores; substitutions of logical cores by spare positions; ageing
adders; port configurations), and the HSS state. -/
structure Flash where
  firmware : Option FwImage
  erased : Bool
  minSvn : Nat
  bootFails : Nat
  owner : Option (BitVec 384)
  repairs : List (Nat × Nat × Nat)
  retired : List Nat
  withdrawn : List Nat
  spares : Map Nat
  ageing : Map Nat
  net : Map NetConfig
  hss : BitVec 40
deriving DecidableEq, Repr

/-- Where the boot stands: before the end of its stages; ready; halted in stage 0 with a reason; recovery; recovery with a DIAG
image running (R474-R491). -/
inductive BootPhase where
  | stages
  | ready
  | partRecordFail
  | pufFail
  | recovery
  | diag
deriving DecidableEq, Repr

/-- A recovery session (R489-R491): its number, the kind and total that its OFFER gave, the ranges held, the READs outstanding with
the tide of their last sending, the tide of the last DATA. -/
structure Session where
  id : BitVec 32
  kind : BitVec 8
  total : Nat
  held : List (Nat × Nat)
  reads : List (Nat × Word)
  lastData : Word
deriving DecidableEq, Repr

/-- The keys of the security block (R470): the DeviceID key, the HSS identity key and the storage key depend on the seed alone, the alias key
on the running firmware too, and without one there is none. No answer carries a private key. -/
structure Keys where
  deviceId : BitVec 384
  hssIdentity : BitVec 384
  storage : BitVec 384
  aliasKey : Option (BitVec 384)
deriving DecidableEq, Repr

/-- Boot state: the phase, the device seed and the keys derived from it, the running image, measurements 5 (`map`) and 7 (`config`) as they
were last taken (Table 16.6), the SESSION last announced and when, the open recovery session, whether the last module reset asked for
recovery. -/
structure Boot where
  phase : BootPhase
  seed : Option (BitVec 384)
  keys : Option Keys
  running : Option FwImage
  map : BitVec 384
  config : BitVec 384
  announced : Option (BitVec 32)
  announcedAt : Option Word
  session : Option Session
  askRecovery : Bool
deriving DecidableEq, Repr

/-- A measurement as SPDM returns it (Table 16.6): its index and its value. -/
structure Measured where
  index : Nat
  value : Nat
deriving DecidableEq, Repr

/-- What certificate slot 0 says of this device (R481): the public DeviceID and alias keys, and measurements 1-3. -/
structure CertChain where
  deviceId : BitVec 768
  aliasKey : BitVec 768
  measured : List Measured
deriving DecidableEq, Repr

/-- What an SPDM request is answered with (R479-R483). -/
inductive SpdmAnswer where
  | version
  | capabilities
  | algorithms
  | digests
  | certificate (chain : CertChain)
  | challengeAuth
  | keyExchange (session : BitVec 32)
  | heartbeatAck
  | keyUpdateAck
  | chunk
  | endSession
  | sessionRefused
  | unsupportedRequest
  | invalidRequest
  | busy
  | unspecified
deriving DecidableEq, Repr

/-- What a firmware update is answered with (R486). -/
inductive UpdateAnswer where
  | accepted
  | alreadyInUpdateMode
  | verifyFailed
  | applyComplete
  | applyFailed
deriving DecidableEq, Repr

/-- What a PLDM request is answered with (R506, R507, R509, Table 17.7). -/
inductive PldmAnswer where
  | success
  | tid
  | base
  | numericSensor (id : BitVec 16) (value : Nat)
  | profileSensor (profile : Nat)
  | lighthouseSensor (state : Nat)
  | pdr
  | invalidData
  | notReady
deriving DecidableEq, Repr

/-- An answer or message that leaves the module by a path other than HMP. -/
inductive Reply where
  | spdm (b : Binding) (a : SpdmAnswer)
  | measurements (b : Binding) (ms : List Measured) (signed : Bool)
  | hssIdentity (b : Binding)
  | hssSignature (b : Binding) (q : BitVec 40)
  | update (a : UpdateAnswer)
  | pldm (a : PldmAnswer)
  | netConfig (port : Nat) (n : NetConfig) (mac : BitVec 48)
  | trips (ts : List Trip)
  | tripEvent (t : Trip)
  | bootHalt (puf : Bool)
  | recovery (kind : BitVec 8) (session : BitVec 32) (status : BitVec 8) (offset length : Nat)
  | mctp (b : Binding)
  | arp (port : Bool) (target : BitVec 128)
  | roceAck (qp : Nat)
  | roceData (qp : Nat) (data : List Byte)
  | roceAccessNak (qp : Nat)
  | roceInvalidNak (qp : Nat)
  | roceConnected (qp : Nat)
deriving DecidableEq, Repr

/-- The module's interfaces (ch. 17): sent messages; port configurations in force and link speeds in Gb/s by port; the I3C dynamic
address and slot; the recovery server; PWR_EN, whether the input is in range, and since when it has been; SPDM connections with a
signed response and open secure sessions (R480, R482); what the HSS rate
limit leaves, in ticks, and since when (R483); whether an update is in progress. -/
structure Module where
  replies : List Reply
  net : Map NetConfig
  link : Map Nat
  i3c : Option (BitVec 7)
  slot : BitVec 3
  server : Option (BitVec 128)
  pwrEn : Bool
  inputOk : Bool
  inputSince : Word
  signed : List Binding
  sessions : List (Binding × BitVec 32)
  hssLevel : Nat
  hssAt : Word
  updating : Bool
deriving DecidableEq, Repr

/-! ### The whole block -/

/-- The state of the block. `pending` is the queue of commands that wait, oldest first; `free` numbers free values (log 1). -/
structure State where
  cores : Map Core
  isles : Vector Isle 8
  coves : Map Cove
  mem : Bytes
  marks : List Nat
  frames : Map FrameTag
  deep : Deep
  hb : Harbour
  tide : Word
  strait : Strait
  rep : Report
  power : Power
  lh : Lighthouse
  flash : Flash
  boot : Boot
  io : Module
  free : Nat
  pending : List Instr
deriving DecidableEq, Repr

/-! ### The state after reset -/

def Cove.empty : Cove := { lines := [], trees := [] }

def L1Set.empty : L1Set := { ways := Vector.replicate 8 none, tree := 0#7 }

/-- The scalar part of a core at the reset values of Tables 6.3, 6.15, 6.17, 6.19, 6.21, 6.22. -/
def Scalar.reset : Scalar where
  g := Vector.replicate 32 0#64
  p := 1#8
  c := Vector.replicate 4 { base := 0#56, bits := 0#5, len := 0#32 }
  pc := 0#64
  priv := 2#2
  opmode := 1#2
  cycles := 0#64
  retired := 0#64
  ctxid := 0#12
  trapEn := 0#5
  fflags := 0#6
  fround := 0#3
  lprogValid := false
  lprogKind := false
  lprogDir := false
  lprogDone := 0#21
  evecRt := 0#64
  evecMon := 0#64
  epc := 0#64
  ecauseInt := false
  ecauseInfo := 0#8
  ecauseCode := 0#8
  eaddr := 0#64
  epriv := 0#2
  lbaddr := 0#56
  lbValid := false
  lbCount := 0#32
  late := []
  irqPeer := false
  irqHarbour := false
  irqmask := 0#7
  ssbase := 0#64
  sslimit := 0#64
  ss := []
  ssSpilled := 0#32
  shieldOpen := false
  shieldAt := 0#64
  shieldUsed := false
  monitorEntry := false
  runtimeEntry := false
  hold := false
  run := .running
  l1 := []
  miss := .none
  stores := []
  scratchW := 0
  scratch := []
  scratchBad := []
  lagoon := []
  lagoonBad := []

/-- The vector unit at the reset values of Tables 6.3 and 7.2-7.4. -/
def Vec.reset : Vec where
  v := Vector.replicate 64 0#1024
  k := Vector.replicate 8 0#2048
  om := false
  cfmt := 1#4
  grp := 0#2
  efmt := 1#4
  vl := 0x020#12
  reason := 0#8
  checkRetried := false
  cfgRej := false
  trapEn := 0#5
  ffTrunc := false
  empty := false
  flags := 0#6
  round := 0#3
  retry := 0#32

def Ew.reset : Ew where
  queue := []
  job := none
  due := []
  fifo := []
  postRej := false
  err := false
  empty := false
  flags := 0#7
  round := 0#3
  retry := 0#32
  rej := 0#32

def Stream.reset : Stream where
  items := []
  fifo := []
  next := 0

def FerryPorts.reset : FerryPorts := { err := false, postRej := false, rej := 0#32, rotate := 0 }

def TidePorts.reset : TidePorts where
  wakeEn := false
  wakeTick := 0#63
  tstat := 0#5

def PowerPorts.reset : PowerPorts where
  evt := 0#6
  mask := 0#6
  dutyCnt := 0#32
  wakeCnt := 0#32
  gated := false
  point := 0
  want := none

def WReg.empty : WReg where
  st := 0#2
  fmt := 0#4
  k := 0
  n := 0
  t := false
  offs := []
  before := []
  cols := []

def BankEvent.clear : BankEvent := { retried := false, mask := 0#64, retries := 0#16 }

/-- A cleared element (R74). -/
def Acc.clear : Acc := { sig := 0#96, exp := 0x2000#14, sticky := false, special := 0#3, residue := 0#3 }

/-- The matrix engine at the reset values of Tables 4.3, 4.6, 4.12-4.15. -/
def Mx.reset : Mx where
  mcfg := 0x100441#64
  reason := 0#8
  skewReject := false
  wr0 := WReg.empty
  wr1 := WReg.empty
  wnext := false
  seq := none
  seen := []
  passBuf := []
  banks := Vector.replicate 2 []
  events := Vector.replicate 2 (Vector.replicate 4 BankEvent.clear)
  drains := Vector.replicate 2 none
  restores := Vector.replicate 2 none
  progValid := false
  progChunk := 0#16
  progPass := 0#4
  progRow := 0#7
  trapPend := false
  mflags := 0#7
  mretry := 0#32
  mround := 0#3
  arow := 0#20
  ashoal := 0#20
  achunk := 0#20
  wcol := 0#20
  wchunk := 0#20
  srTide := 0#64
  srOwner := 0#11
  srElem := 0#64
  srPitch := 0#64
  lskew := Vector.replicate 4 0#64
  tq := []
  tqHead := 0#3
  dseq := 0#16
  discardWait := false

def Core.reset : Core where
  sc := Scalar.reset
  vec := Vec.reset
  mx := Mx.reset
  ew := Ew.reset
  streams := []
  fp := FerryPorts.reset
  tp := TidePorts.reset
  pw := PowerPorts.reset
  health := { quarantines := [], withdrawn := false, testing := false }

def Isle.reset : Isle where
  windows := []
  cvce := 0#32
  mid :=
    { lanes := 0xffff#16, expect := 0#12, replays := 0, nak := false, owedCommands := 0, owedData := 0, next := 0#12, acked := 0xfff#12,
      resend := false, resends := 0, commandCredits := 0, dataCredits := 0, replay := [], sent := [], retraining := false, waiting := [],
      outstanding := [], returned := [], corrected := 0 }
  rows := []
  badSpares := []
  heat :=
    { t0 := 0, t1 := 0, band0 := 0, band1 := 0, junction := 0#16, junctionStep := 0, ageing := 0, ageingAt := none, ageingDue := false,
      ageingCut := 0, worn := false }
  ferries := []
  rotate := 0
  tokens := 15
  idle := 0
  idleSince := 0#64

def Deep.reset : Deep where
  hostWritten := 0
  mediaWritten := 0
  wear := 0
  spare := 10000
  rebuilt := 0
  lost := []
  wearPosted := false
  readOnly := false

def Queue.reset : Queue where
  expect := 0#32
  committed := 0#32
  started := 0#32
  ring := []
  skip := []
  halted := false
  running := none
  failedSince := false
  compNext := 0#32
  unacked := []
  compWaiting := []

def Harbour.reset : Harbour where
  queues := Vector.replicate 6 Queue.reset
  events := { next := 0#32, unacked := [], waiting := [] }
  fences := []
  graphs := []
  launches := []
  nextLaunch := 0#64
  moorings := []
  hello := none
  greeted := false
  lastCmd := none
  discarded := 0#64
  discardSecond := []
  roceNaks := 0#64
  qps := []
  sent := []
  ctxs := []
  regionGen := []
  regionRetired := []
  faults := []
  faultsWaiting := []
  partition := Vector.replicate 8 0
  staging := Vector.replicate 8 4
  regulators := []
  lastCtx := []
  unclean := []
  freeing := []

def Port.reset : Port where
  state := 0#3
  reason := 0#4
  d := 0#3
  crcErr := 0#32
  mismatch := 0#8
  neighbour := 0#64
  peerTide := 0#64
  rootId := 0#64
  rootHops := 0
  lastSide := 0#64
  failedAt := 0#64
  crcTimes := []
  missTimes := []
  kept := []
  lost := []
  cells := []

def Strait.reset : Strait where
  id := 0#64
  root := 0#64
  hops := 0
  parent := none
  errors := []
  skew := Vector.replicate 4 0
  ports := Vector.replicate 12 Port.reset
  seen := []
  held := []
  sent := []

def Report.reset : Report where
  alarms := []
  log := []
  logNext := 0
  drops := Vector.replicate 4 0
  traces := Vector.replicate 7 { entries := [], next := 0, lost := 0 }
  noticeFirst := none
  noticeCrit := 0
  noticeErr := 0
  noticeAt := none
  storm :=
    { opened := false, fromTide := 0#64, lastLoss := 0#64, coalesced := 0, overflowed := 0, drops := Vector.replicate 4 0,
      overwrites := 0, rings := 0#7 }
  retirement := []
  sideband := []

/-- Bench, until the thermal top is read (R420); tolerance 80 µs (R440). -/
def Power.reset : Power where
  on := true
  profile := 0
  rating := none
  topPending := none
  cap := none
  order := 0x24#6
  floors := none
  tolerance := 80
  demand := { links := 0, memory := 0, compute := 0 }
  grant := { links := 0, memory := 0, compute := 0 }
  ceiling := 3300
  draws := []
  duty := 0
  dutyDet := 0
  unmet := none
  lastShed := none
  shed := []
  tokens := 512
  idle := 0
  idleSince := 0#64

def Lighthouse.reset : Lighthouse where
  clamp := 0
  shed := false
  code := 0#8
  trips := []
  count := 0
  fault := false
  beat := 0#64
  limiter := false
  kind := 0

/-- Flash as a part that has never stored anything holds it. -/
def Flash.reset : Flash where
  firmware := none
  erased := false
  minSvn := 0
  bootFails := 0
  owner := none
  repairs := []
  retired := []
  withdrawn := []
  spares := []
  ageing := []
  net := []
  hss := 0#40

def Boot.reset : Boot where
  phase := .stages
  seed := none
  keys := none
  running := none
  map := 0#384
  config := 0#384
  announced := none
  announcedAt := none
  session := none
  askRecovery := false

def Module.reset : Module where
  replies := []
  net := []
  link := []
  i3c := none
  slot := 0#3
  server := none
  pwrEn := true
  inputOk := true
  inputSince := 0#64
  signed := []
  sessions := []
  hssLevel := 16 * 15625000
  hssAt := 0#64
  updating := false

/-- The machine right after reset. -/
def State.reset : State where
  cores := []
  isles := Vector.replicate 8 Isle.reset
  coves := []
  mem := []
  marks := []
  frames := []
  deep := Deep.reset
  hb := Harbour.reset
  tide := 0#64
  strait := Strait.reset
  rep := Report.reset
  power := Power.reset
  lh := Lighthouse.reset
  flash := Flash.reset
  boot := Boot.reset
  io := Module.reset
  free := 0
  pending := []

/-! ### Why a run stops -/

/-- Faults: reasons for which the machine itself stops. -/
inductive Fault where
  /-- Not raised by any command: the block never stops (every exception, rejection and failure is a next state). Safe. -/
  | never
deriving DecidableEq, Repr

/-- Refusals: commands to which the model gives no meaning. -/
inductive Refusal where
  /-- Raised by an arm of `exec` whose command has no meaning yet. Safe: nothing is claimed of it. -/
  | notModelled (mnemonic : String)
deriving DecidableEq, Repr

end Sys2Proof.Machine
end

