-- ==== Sys2Proof/Machine/Float.lean ====
section
/-! DEFINITION. Floating-point values and one rounding function for every float format of Number Formats and
Conversions (R35-R45, R56-R66): the long formats, bfloat16, K18 and K9F. Values are exact: sign, significand, exponent. -/

namespace Sys2Proof.Machine

/-- A binary float layout: `eb` exponent bits, `mb` mantissa bits, `bias`; `ieee` when the top exponent field holds
infinities and NaNs (R42, R44: the short formats have none). -/
structure FlFmt where
  eb : Nat
  mb : Nat
  bias : Nat
  ieee : Bool
deriving DecidableEq, Repr

def binary64 : FlFmt := ⟨11, 52, 1023, true⟩
def binary32 : FlFmt := ⟨8, 23, 127, true⟩
def binary16 : FlFmt := ⟨5, 10, 15, true⟩
def bfloat16 : FlFmt := ⟨8, 7, 127, true⟩
def k18 : FlFmt := ⟨9, 8, 255, false⟩
def k9f : FlFmt := ⟨5, 3, 15, false⟩

/-- Exponent of the least significant bit of a subnormal. -/
def FlFmt.lsb (f : FlFmt) : Int := 1 - (f.bias : Int) - (f.mb : Int)

/-- Exponent of the least significant bit of the largest finite value. -/
def FlFmt.qmax (f : FlFmt) : Int :=
  (2 ^ f.eb : Nat) - (if f.ieee then 2 else 1 : Int) - (f.bias : Int) - (f.mb : Int)

def FlFmt.signBit (f : FlFmt) : Nat := 2 ^ (f.eb + f.mb)

/-- Encoding of the largest finite magnitude. -/
def FlFmt.maxMag (f : FlFmt) : Nat := if f.ieee then (2 ^ f.eb - 1) * 2 ^ f.mb - 1 else 2 ^ (f.eb + f.mb) - 1

/-- Encoding of infinity (IEEE layouts only). -/
def FlFmt.infMag (f : FlFmt) : Nat := (2 ^ f.eb - 1) * 2 ^ f.mb

/-- Encoding of the default NaN: positive, quiet, zero payload (R65). -/
def FlFmt.defaultNaN (f : FlFmt) : Nat := (2 ^ f.eb - 1) * 2 ^ f.mb + 2 ^ (f.mb - 1)

/-- A decoded value: `fin s m e` is (-1)^s m 2^e; a NaN keeps its sign, whether it is quiet, and its payload, the
trailing significand without the quiet bit, `pw` bits wide (R65). -/
inductive FVal where
  | fin (s : Bool) (m : Nat) (e : Int)
  | inf (s : Bool)
  | nan (s : Bool) (quiet : Bool) (payload : Nat) (pw : Nat)
deriving DecidableEq, Repr

namespace FVal

/-- The quiet NaN with zero payload. -/
def dnan : FVal := .nan false true 0 0

def zero (s : Bool) : FVal := .fin s 0 0

def isNaN : FVal → Bool
  | .nan _ _ _ _ => true
  | _ => false

def isSNaN : FVal → Bool
  | .nan _ q _ _ => !q
  | _ => false

def sign : FVal → Bool
  | .fin s _ _ => s
  | .inf s => s
  | .nan s _ _ _ => s

def isZero : FVal → Bool
  | .fin _ m _ => m == 0
  | _ => false

def isInf : FVal → Bool
  | .inf _ => true
  | _ => false

def quieten : FVal → FVal
  | .nan s _ p w => .nan s true p w
  | x => x

def negate : FVal → FVal
  | .fin s m e => .fin (!s) m e
  | .inf s => .inf (!s)
  | .nan s q p w => .nan (!s) q p w

def abs : FVal → FVal
  | .fin _ m e => .fin false m e
  | .inf _ => .inf false
  | .nan _ q p w => .nan false q p w

end FVal

/-- Number of bits of a natural number (R73's bitlen). -/
def bitlen (n : Nat) : Nat := if n = 0 then 0 else n.log2 + 1

/-- Bit field `x[hi:lo]` of a natural number, given by its low end and width. -/
def nbits (x lo w : Nat) : Nat := (x >>> lo) % 2 ^ w

/-- Decodes an encoding of layout `f` (R42, R44, IEEE 754-2019). -/
def decodeFl (f : FlFmt) (x : Nat) : FVal :=
  let s := x.testBit (f.eb + f.mb)
  let ex := nbits x f.mb f.eb
  let fr := nbits x 0 f.mb
  if ex = 0 then .fin s fr f.lsb
  else if f.ieee && ex = 2 ^ f.eb - 1 then
    if fr = 0 then .inf s
    else .nan s (fr.testBit (f.mb - 1)) (nbits fr 0 (f.mb - 1)) (f.mb - 1)
  else .fin s (2 ^ f.mb + fr) (f.lsb + (ex : Int) - 1)

/-- How a value is rounded: a mode of Table 2.2, or deterministic stochastic rounding with its threshold (R62). -/
inductive Rnd where
  | mode (rm : BitVec 3)
  | sr (thr : Nat)
deriving DecidableEq, Repr

def Rnd.rne : Rnd := .mode 0#3

/-- Whether magnitude `t + rem / 2^d` rounds up to `t + 1` (Table 2.2, R62); `rem` is not zero. -/
def Rnd.up (r : Rnd) (s : Bool) (t rem d : Nat) : Bool :=
  match r with
  | .sr thr => rem * 2 ^ 32 / 2 ^ d > thr
  | .mode rm =>
    if rm = 0#3 then 2 * rem > 2 ^ d || (2 * rem = 2 ^ d && t % 2 = 1)
    else if rm = 2#3 then s
    else if rm = 3#3 then !s
    else if rm = 4#3 then 2 * rem ≥ 2 ^ d
    else false

/-- Rounds magnitude m 2^e to a multiple of 2^q: the multiple, and whether it differs. -/
def roundAt (r : Rnd) (s : Bool) (m : Nat) (e q : Int) : Nat × Bool :=
  if q ≤ e then (m * 2 ^ (e - q).toNat, false)
  else
    let d := (q - e).toNat
    let t := m / 2 ^ d
    let rem := m % 2 ^ d
    if rem = 0 then (t, false) else (if r.up s t rem d then t + 1 else t, true)

/-- Packs a rounded magnitude t 2^q, which layout `f` holds, as an encoding. -/
def packFl (f : FlFmt) (s : Bool) (t : Nat) (q : Int) : Nat :=
  let sb := if s then f.signBit else 0
  if t < 2 ^ f.mb then sb + t
  else if t = 2 ^ (f.mb + 1) then sb + (q + 1 - f.lsb + 1).toNat * 2 ^ f.mb
  else sb + (q - f.lsb + 1).toNat * 2 ^ f.mb + (t - 2 ^ f.mb)

/-- Whether an overflow in mode `r` gives infinity rather than the largest finite value (IEEE 754-2019). -/
def Rnd.overflowsToInf (r : Rnd) (s : Bool) : Bool :=
  match r with
  | .sr _ => false
  | .mode rm => rm = 0#3 || rm = 4#3 || (rm = 2#3 && s) || (rm = 3#3 && !s)

/-- Narrows or widens a NaN payload to `w` bits, keeping the bits nearest the quiet bit (R65). -/
def payloadTo (p pw w : Nat) : Nat := if w ≤ pw then p >>> (pw - w) else p <<< (w - pw)

/-- Encodes a NaN, made quiet, in an IEEE layout (R65). -/
def packNaN (f : FlFmt) (s : Bool) (p pw : Nat) : Nat :=
  (if s then f.signBit else 0) + f.defaultNaN + payloadTo p pw (f.mb - 1)

/-- Rounds a finite magnitude into layout `f` (R56, R57, Table 2.11; IEEE 754-2019 with tininess after rounding).
`poison` is the overflow mode POISON of R38. -/
def roundFin (f : FlFmt) (r : Rnd) (poison : Bool) (s : Bool) (m : Nat) (e : Int) : Coded :=
  let sb := if s then f.signBit else 0
  if m = 0 then ⟨sb, false, Flags.none⟩
  else
    let qU : Int := e + bitlen m - (f.mb + 1)
    let q := max qU f.lsb
    let (t, ix) := roundAt r s m e q
    if q > f.qmax || (q = f.qmax && t = 2 ^ (f.mb + 1)) then
      let fl := Flags.overflow ||| Flags.inexact
      if f.ieee then
        if r.overflowsToInf s then ⟨sb + f.infMag, false, fl⟩ else ⟨sb + f.maxMag, false, fl⟩
      else ⟨sb + f.maxMag, poison, fl⟩
    else
      let tU := (roundAt r s m e qU).1
      let tiny := if f.ieee then (bitlen tU : Int) + qU ≤ f.lsb + f.mb else t < 2 ^ f.mb
      ⟨packFl f s t q, false, Flags.when ix Flags.inexact ||| Flags.when (tiny && ix) Flags.underflow⟩

/-- Encodes a value in layout `f` with rounding `r` and overflow mode `poison`. NaN and infinity follow R65 in an IEEE
layout and R58 in a short one. -/
def encodeFl (f : FlFmt) (r : Rnd) (poison : Bool) (v : FVal) : Coded :=
  match v with
  | .fin s m e => roundFin f r poison s m e
  | .inf s =>
    let sb := if s then f.signBit else 0
    if f.ieee then ⟨sb + f.infMag, false, Flags.none⟩ else ⟨sb + f.maxMag, true, Flags.overflow⟩
  | .nan s q p w =>
    if f.ieee then ⟨packNaN f s p w, false, Flags.when (!q) Flags.invalid⟩
    else ⟨0, true, Flags.invalid⟩

/-! ### Exact arithmetic on values -/

/-- The integer value of a finite value at exponent `e0`, at or below its own. -/
def scaledInt (s : Bool) (m : Nat) (e e0 : Int) : Int :=
  let x : Int := (m * 2 ^ (e - e0).toNat : Nat)
  if s then -x else x

/-- A finite value from an integer and an exponent; `sz` is the sign of an exact zero. -/
def ofInt (x : Int) (e : Int) (sz : Bool) : FVal :=
  if x = 0 then .zero sz else .fin (x < 0) x.natAbs e

/-- The first NaN of a list of operands, made quiet (R65). -/
def firstNaN : List FVal → Option FVal
  | [] => none
  | x :: t => if x.isNaN then some x.quieten else firstNaN t

/-- INVALID when some operand is a signalling NaN (R65). -/
def snanFlags (xs : List FVal) : Flags := Flags.when (xs.any FVal.isSNaN) Flags.invalid

/-- An exact result with the flags the operation itself raises. -/
abbrev FRes := FVal × Flags

def invalidRes : FRes := (.dnan, Flags.invalid)

/-- Handles NaN operands as R65 states, and otherwise runs `k`. -/
def withNaN (xs : List FVal) (k : FRes) : FRes :=
  match firstNaN xs with
  | some n => (n, snanFlags xs)
  | none => k

/-- Exact sum of two finite values; `down` is rounding toward minus infinity, which gives an exact zero the sign minus. -/
def addFin (down : Bool) (s1 : Bool) (m1 : Nat) (e1 : Int) (s2 : Bool) (m2 : Nat) (e2 : Int) : FVal :=
  let e := min e1 e2
  let sz := if m1 = 0 && m2 = 0 && s1 == s2 then s1 else down
  ofInt (scaledInt s1 m1 e1 e + scaledInt s2 m2 e2 e) e sz

def Rnd.isDown (r : Rnd) : Bool := r = .mode 2#3

def fAdd (r : Rnd) (a b : FVal) : FRes :=
  withNaN [a, b] <|
    match a, b with
    | .fin s1 m1 e1, .fin s2 m2 e2 => (addFin r.isDown s1 m1 e1 s2 m2 e2, Flags.none)
    | .inf s1, .inf s2 => if s1 == s2 then (.inf s1, Flags.none) else invalidRes
    | .inf s1, _ => (.inf s1, Flags.none)
    | _, x => (x, Flags.none)

def fSub (r : Rnd) (a b : FVal) : FRes :=
  withNaN [a, b] (fAdd r a b.negate)

def fMul (a b : FVal) : FRes :=
  withNaN [a, b] <|
    match a, b with
    | .fin s1 m1 e1, .fin s2 m2 e2 => (.fin (s1 != s2) (m1 * m2) (e1 + e2), Flags.none)
    | .inf s1, .inf s2 => (.inf (s1 != s2), Flags.none)
    | .inf s1, x => if x.isZero then invalidRes else (.inf (s1 != x.sign), Flags.none)
    | x, .inf s2 => if x.isZero then invalidRes else (.inf (x.sign != s2), Flags.none)
    | x, _ => (x, Flags.none)

/-- a × b + c, exact; NaN operands in the order a, b, c (R65). -/
def fFma (r : Rnd) (a b c : FVal) : FRes :=
  withNaN [a, b, c] <|
    let p := fMul a b
    if p.1.isNaN then p else fAdd r p.1 c

/-- Quotient of two finite non-zero values to `k` significant bits or more, with a sticky last bit. -/
def divFin (k : Nat) (s : Bool) (m1 : Nat) (e1 : Int) (m2 : Nat) (e2 : Int) : FVal :=
  let sh := k + bitlen m2
  let n := m1 * 2 ^ sh
  let q := n / m2
  .fin s (2 * q + (if n % m2 = 0 then 0 else 1)) (e1 - e2 - sh - 1)

/-- a ÷ b. The exact quotient is carried to more bits than any format holds, with a sticky bit. -/
def fDiv (a b : FVal) : FRes :=
  withNaN [a, b] <|
    let s := a.sign != b.sign
    match a, b with
    | .inf _, .inf _ => invalidRes
    | .inf _, _ => (.inf s, Flags.none)
    | _, .inf _ => (.zero s, Flags.none)
    | .fin _ m1 e1, .fin _ m2 e2 =>
      if m2 = 0 then (if m1 = 0 then invalidRes else (.inf s, Flags.divByZero))
      else if m1 = 0 then (.zero s, Flags.none)
      else (divFin 64 s m1 e1 m2 e2, Flags.none)
    | x, _ => (x, Flags.none)

/-- Integer square root, by `n` steps of bisection on bit positions. -/
def isqrtLoop (x : Nat) : Nat → Nat → Nat
  | 0, r => r
  | n + 1, r =>
    let r' := r + 2 ^ n
    isqrtLoop x n (if r' * r' ≤ x then r' else r)

def isqrt (x : Nat) : Nat := isqrtLoop x (bitlen x / 2 + 1) 0

/-- √a, carried with a sticky bit. -/
def fSqrt (a : FVal) : FRes :=
  withNaN [a] <|
    match a with
    | .inf s => if s then invalidRes else (.inf false, Flags.none)
    | .fin s m e =>
      if m = 0 then (.zero s, Flags.none)
      else if s then invalidRes
      else
        let sh : Nat := 130 + (e % 2).toNat
        let x := m * 2 ^ sh
        let r := isqrt x
        (.fin false (2 * r + (if r * r = x then 0 else 1)) ((e - sh) / 2 - 1), Flags.none)
    | x => (x, Flags.none)

/-- IEEE remainder(a, b). -/
def fRem (a b : FVal) : FRes :=
  withNaN [a, b] <|
    match a, b with
    | .inf _, _ => invalidRes
    | x, .inf _ => (x, Flags.none)
    | .fin s1 m1 e1, .fin _ m2 e2 =>
      if m2 = 0 then invalidRes
      else if m1 = 0 then (.fin s1 m1 e1, Flags.none)
      else
        let e := min e1 e2
        let x := m1 * 2 ^ (e1 - e).toNat
        let y := m2 * 2 ^ (e2 - e).toNat
        let n := x / y
        let rem := x % y
        if rem = 0 then (.zero s1, Flags.none)
        else if 2 * rem > y || (2 * rem = y && n % 2 = 1) then (.fin (!s1) (y - rem) e, Flags.none)
        else (.fin s1 rem e, Flags.none)
    | x, _ => (x, Flags.none)

/-- scaleB(a, n). The exponent is clamped where every format has long saturated. -/
def fScaleB (a : FVal) (n : Int) : FRes :=
  withNaN [a] <|
    match a with
    | .fin s m e => (.fin s m (e + max (-10000) (min 10000 n)), Flags.none)
    | x => (x, Flags.none)

/-- Rounds a value to an integral value in mode `r`; the second part says whether it differs. -/
def roundIntegral (r : Rnd) (a : FVal) : FVal × Bool :=
  match a with
  | .fin s m e =>
    let (t, ix) := roundAt r s m e 0
    if t = 0 then (.zero s, ix) else if 0 ≤ e then (.fin s m e, false) else (.fin s t 0, ix)
  | x => (x, false)

/-- Order of two finite or infinite values by magnitude. -/
def magCompare (a b : FVal) : Ordering :=
  match a, b with
  | .inf _, .inf _ => .eq
  | .inf _, _ => .gt
  | _, .inf _ => .lt
  | .fin _ m1 e1, .fin _ m2 e2 =>
    let e := min e1 e2
    compare (m1 * 2 ^ (e1 - e).toNat) (m2 * 2 ^ (e2 - e).toNat)
  | _, _ => .eq

/-- Order of two values that are not NaN; the zeros are equal. -/
def valCompare (a b : FVal) : Ordering :=
  if a.isZero && b.isZero then .eq
  else if a.isZero then (if b.sign then .gt else .lt)
  else if b.isZero then (if a.sign then .lt else .gt)
  else
    match a.sign, b.sign with
    | true, false => .lt
    | false, true => .gt
    | false, false => magCompare a b
    | true, true => (magCompare a b).swap

/-- Order of two values that are not NaN with −0 below +0 (R128 minimum and maximum, R133). -/
def valCompareZ (a b : FVal) : Ordering :=
  match valCompare a b with
  | .eq => if a.sign && !b.sign then .lt else if !a.sign && b.sign then .gt else .eq
  | o => o

/-- IEEE 754-2019 minimum and maximum. -/
def fMinimum (a b : FVal) : FRes :=
  withNaN [a, b] ((if valCompareZ b a = .lt then b else a), Flags.none)

def fMaximum (a b : FVal) : FRes :=
  withNaN [a, b] ((if valCompareZ a b = .lt then b else a), Flags.none)

/-- minimumNumber and maximumNumber: a NaN gives way to a number; a signalling NaN raises INVALID. -/
def numOp (op : FVal → FVal → FRes) (a b : FVal) : FRes :=
  match a.isNaN, b.isNaN with
  | true, false => (b, snanFlags [a, b])
  | false, true => (a, snanFlags [a, b])
  | _, _ => op a b

/-- minimumMagnitude and maximumMagnitude over `op`; `small` picks the smaller magnitude. -/
def magOp (small : Bool) (op : FVal → FVal → FRes) (a b : FVal) : FRes :=
  if a.isNaN || b.isNaN then op a b
  else
    match magCompare a b with
    | .lt => (if small then a else b, Flags.none)
    | .gt => (if small then b else a, Flags.none)
    | .eq => op a b

/-- totalOrder of two encodings of one layout, as sign and magnitude (R162). -/
def totalOrder (f : FlFmt) (x y : Nat) : Bool :=
  let key (z : Nat) : Int :=
    let mag : Int := (nbits z 0 (f.eb + f.mb) : Nat)
    if z.testBit (f.eb + f.mb) then -mag - 1 else mag
  key x ≤ key y

/-- The integer nearest a value in mode `r`, for values that are not NaN or infinite. -/
def toIntRounded (r : Rnd) (s : Bool) (m : Nat) (e : Int) : Int × Bool :=
  let (t, ix) := roundAt r s m e 0
  (if s then -(t : Int) else t, ix)

/-- Rounds to a w-bit integer, saturating with INVALID out of range, 0 with INVALID for a NaN (Table 2.10, R127). -/
def encodeInt (w : Nat) (signed : Bool) (r : Rnd) (v : FVal) : Coded :=
  let lo : Int := if signed then -(2 ^ (w - 1) : Nat) else 0
  let hi : Int := if signed then (2 ^ (w - 1) : Nat) - 1 else (2 ^ w : Nat) - 1
  let code (x : Int) : Nat := (x % (2 ^ w : Nat)).toNat
  match v with
  | .nan _ _ _ _ => ⟨0, false, Flags.invalid⟩
  | .inf s => ⟨code (if s then lo else hi), false, Flags.invalid⟩
  | .fin s m e =>
    let (x, ix) := toIntRounded r s m e
    if x < lo then ⟨code lo, false, Flags.invalid⟩
    else if x > hi then ⟨code hi, false, Flags.invalid⟩
    else ⟨code x, false, Flags.when ix Flags.inexact⟩

/-- Rounds to K9I: an integer from −256 to 255 with the overflow rule of R57 and the special values of R58. -/
def encodeK9I (r : Rnd) (poison : Bool) (v : FVal) : Coded :=
  match v with
  | .nan _ _ _ _ => ⟨0, true, Flags.invalid⟩
  | .inf s => ⟨if s then 0x100 else 0xff, true, Flags.overflow⟩
  | .fin s m e =>
    let (x, ix) := toIntRounded r s m e
    if x < -256 then ⟨0x100, poison, Flags.overflow ||| Flags.inexact⟩
    else if x > 255 then ⟨0xff, poison, Flags.overflow ||| Flags.inexact⟩
    else ⟨(x % 512).toNat, false, Flags.when ix Flags.inexact⟩

/-- A two's-complement code of width w as an exact value. -/
def intVal (w : Nat) (signed : Bool) (x : Nat) : FVal :=
  let y := x % 2 ^ w
  if signed && y ≥ 2 ^ (w - 1) then .fin true (2 ^ w - y) 0 else .fin false y 0

end Sys2Proof.Machine
end

