-- ==== Sys2Proof/Machine/Convert.lean ====
section
/-! DEFINITION. Format codes (Table 2.1), conversions between them (R56-R59), K4 quantisation (R60), deterministic
stochastic rounding (R61, R62) and the words that pack short formats (R46-R50). -/

namespace Sys2Proof.Machine

/-- A format code of Table 2.1. -/
abbrev FmtCode := BitVec 4

namespace Fmt
def binary64 : FmtCode := 0x0#4
def binary32 : FmtCode := 0x1#4
def binary16 : FmtCode := 0x2#4
def k18 : FmtCode := 0x3#4
def k9f : FmtCode := 0x4#4
def k9i : FmtCode := 0x5#4
def k4 : FmtCode := 0x6#4
def bfloat16 : FmtCode := 0x7#4
def s8 : FmtCode := 0x8#4
def u8 : FmtCode := 0x9#4
def s32 : FmtCode := 0xa#4
def s64 : FmtCode := 0xb#4
end Fmt

/-- Codes 0xc-0xf are reserved (R35). -/
def FmtCode.reserved (f : FmtCode) : Bool := 0xc#4 ≤ f

/-- binary64, binary32 and binary16. -/
def FmtCode.isLong (f : FmtCode) : Bool := f ≤ 0x2#4

/-- K18, K9F, K9I and K4, the formats with a poison bit. -/
def FmtCode.isShort (f : FmtCode) : Bool := 0x3#4 ≤ f && f ≤ 0x6#4

def FmtCode.isInt (f : FmtCode) : Bool := 0x8#4 ≤ f && f ≤ 0xb#4

/-- The float layout of a code, if it has one. -/
def FmtCode.fl? (f : FmtCode) : Option FlFmt :=
  match f with
  | 0x0#4 => some Sys2Proof.Machine.binary64
  | 0x1#4 => some Sys2Proof.Machine.binary32
  | 0x2#4 => some Sys2Proof.Machine.binary16
  | 0x3#4 => some Sys2Proof.Machine.k18
  | 0x4#4 => some Sys2Proof.Machine.k9f
  | 0x7#4 => some Sys2Proof.Machine.bfloat16
  | _ => none

/-- Width of one value in its slot, in bits (Table 2.1). -/
def FmtCode.bits (f : FmtCode) : Nat :=
  match f with
  | 0x0#4 => 64
  | 0x1#4 => 32
  | 0x2#4 => 16
  | 0x3#4 => 18
  | 0x4#4 => 9
  | 0x5#4 => 9
  | 0x6#4 => 4
  | 0x7#4 => 16
  | 0x8#4 => 8
  | 0x9#4 => 8
  | 0xa#4 => 32
  | 0xb#4 => 64
  | _ => 0

/-- Values per storage word (R46-R48); 1 for a format without words. -/
def FmtCode.perWord (f : FmtCode) : Nat :=
  match f with
  | 0x3#4 => 7
  | 0x4#4 => 7
  | 0x5#4 => 7
  | 0x6#4 => 16
  | _ => 1

/-- Bytes of one storage word, or of one value in a format without words. -/
def FmtCode.wordBytes (f : FmtCode) : Nat :=
  match f with
  | 0x0#4 => 8
  | 0x1#4 => 4
  | 0x2#4 => 2
  | 0x3#4 => 16
  | 0x4#4 => 8
  | 0x5#4 => 8
  | 0x6#4 => 8
  | 0x7#4 => 2
  | 0x8#4 => 1
  | 0x9#4 => 1
  | 0xa#4 => 4
  | 0xb#4 => 8
  | _ => 1

/-- Position of the poison bit in a storage word, if the format has one there (R46, R47). -/
def FmtCode.poisonBit? (f : FmtCode) : Option Nat :=
  match f with
  | 0x3#4 => some 126
  | 0x4#4 => some 63
  | 0x5#4 => some 63
  | _ => none

/-- The magnitude column of Table 2.3, in quarters. -/
def k4Quarter (code : Nat) : Nat :=
  match code % 8 with
  | 0 => 0
  | 1 => 1
  | 2 => 2
  | 3 => 4
  | 4 => 6
  | 5 => 8
  | 6 => 12
  | _ => 16

/-- The exponent of a K9E code other than 0x100 (R41). -/
def k9eExp (code : Nat) : Int := if code % 512 < 256 then (code % 512 : Nat) else ((code % 512 : Nat) : Int) - 512

def k9ePoison : Nat := 0x100

/-- A K4 code under a block scale (R39, R41); a poisoned scale makes it a NaN (R51). -/
def k4Val (code scale : Nat) : FVal :=
  if scale % 512 = k9ePoison then .dnan
  else .fin (code.testBit 3) (k4Quarter code) (k9eExp scale - 2)

/-- Decodes one value of format `f`; a value from a poisoned word is a NaN (R51). K4 has no value without its scale. -/
def decodeFmt (f : FmtCode) (poisoned : Bool) (x : Nat) : FVal :=
  if poisoned then .dnan
  else
    match f.fl? with
    | some fl => decodeFl fl x
    | none =>
      if f = Fmt.k9i then intVal 9 true x
      else if f = Fmt.u8 then intVal 8 false x
      else intVal f.bits true x

/-- Encodes a value in format `f` other than K4 (R56-R59, R127 step 5). `poison` is the overflow mode. -/
def encodeFmt (f : FmtCode) (r : Rnd) (poison : Bool) (v : FVal) : Coded :=
  match f.fl? with
  | some fl => encodeFl fl r poison v
  | none =>
    if f = Fmt.k9i then encodeK9I r poison v
    else if f = Fmt.u8 then encodeInt 8 false r v
    else encodeInt f.bits true r v

/-- The pairs of Table 2.10 (R56). -/
def legalPair (s d : FmtCode) : Bool :=
  if s.isLong then
    (d.isLong && s != d) || d = Fmt.k18 || d = Fmt.k9f || d = Fmt.k9i || d = Fmt.k4 || d = Fmt.s32 || d = Fmt.s64
  else if s = Fmt.k9f then d.isLong || d = Fmt.k18 || d = Fmt.k9i
  else if s = Fmt.k9i then d.isLong || d = Fmt.k18 || d = Fmt.k9f || d = Fmt.s8 || d = Fmt.u8
  else if s = Fmt.k18 then d.isLong || d = Fmt.bfloat16 || d = Fmt.k9f || d = Fmt.k9i
  else if s = Fmt.k4 then d.isLong || d = Fmt.k18 || d = Fmt.k9f
  else if s = Fmt.bfloat16 then d = Fmt.k18
  else if s = Fmt.s8 || s = Fmt.u8 then d = Fmt.k9i
  else if s = Fmt.s32 || s = Fmt.s64 then d.isLong
  else false

/-- Converts a value read as `v` (a NaN when `poisoned`) into format `d`. A poisoned source raises no IEEE flag at the
conversion that reads it (R51): it gives the default NaN, zero with the poison bit, or zero. -/
def convertFmt (d : FmtCode) (r : Rnd) (om : Bool) (poisoned : Bool) (v : FVal) : Coded :=
  if poisoned then
    match d.fl? with
    | some fl => if fl.ieee then ⟨fl.defaultNaN, false, Flags.none⟩ else ⟨0, true, Flags.none⟩
    | none => ⟨0, d.isShort, Flags.none⟩
  else encodeFmt d r om v

/-- The threshold of R61. -/
def srThreshold (srTide : BitVec 64) (core : BitVec 11) (elem : BitVec 64) : Nat :=
  let x := srTide ^^^ ((core.setWidth 64) <<< 53) ^^^ elem
  let x := (x ^^^ (x >>> 31)) * 0x8b4f27c3a5d16e19#64
  let x := (x ^^^ (x >>> 29)) * 0x5c2e93b71f48d6a5#64
  let x := x ^^^ (x >>> 32)
  x.toNat % 2 ^ 32

/-- Rounding-mode field values (Table 2.2). -/
def rmSR : BitVec 3 := 5#3
def rmDYN : BitVec 3 := 7#3

/-- The modes a rounding control port may hold (R37). -/
def rmPortOk (rm : BitVec 3) : Bool := rm < 5#3

/-- Whether a rounding-mode field is allowed for target format `f` (R36, R37). -/
def rmFieldOk (rm : BitVec 3) (f : FmtCode) : Bool := rm != 6#3 && (rm != rmSR || f.isShort)

/-! ### Quantising to K4 (R60) -/

/-- Rounds |x| / 2^e to the grid of Table 2.3: the magnitude code, inexact. `thr` is the SR threshold. -/
def roundGrid (r : Rnd) (s : Bool) (m : Nat) (e : Int) : Nat × Bool :=
  let num := m * 2 ^ (e + 2).toNat
  let d := (-(e + 2)).toNat
  let i := (List.range 8).foldl (fun acc j => if k4Quarter j * 2 ^ d ≤ num then j else acc) 0
  let lo := k4Quarter i * 2 ^ d
  let rem := num - lo
  let span := (k4Quarter (i + 1) - k4Quarter i) * 2 ^ d
  if rem = 0 || i = 7 then (i, rem != 0)
  else
    let up : Bool :=
      match r with
      | .sr thr => decide (rem * 2 ^ 32 / span > thr)
      | .mode rm =>
        if rm = 0#3 then decide (2 * rem > span || (2 * rem = span && i % 2 = 1))
        else if rm = 2#3 then s
        else if rm = 3#3 then !s
        else if rm = 4#3 then decide (2 * rem ≥ span)
        else false
    (if up then i + 1 else i, true)

/-- A quantised block: its scale code, its 32 codes, the flags. -/
structure K4Block where
  scale : Nat
  codes : List Nat
  flags : Flags
deriving DecidableEq, Repr

/-- One element of a block: the value with its rounding (SR thresholds differ by element), `none` when dropped (R518). -/
abbrev K4Elem := Option (FVal × Rnd)

def K4Elem.special (x : K4Elem) : Bool :=
  match x with
  | some (v, _) => v.isNaN || v.isInf
  | none => false

/-- Magnitude order of kept elements: the larger of two finite magnitudes. -/
def magMax (a : Nat × Int) (x : K4Elem) : Nat × Int :=
  match x with
  | some (.fin _ m e, _) => if magCompare (.fin false a.1 a.2) (.fin false m e) = .lt then (m, e) else a
  | _ => a

/-- The code and flags of one element under scale exponent `e`. -/
def k4Code (e : Int) (x : K4Elem) : Nat × Flags :=
  match x with
  | some (.fin s m ex, r) =>
    let big := magCompare (.fin false m (ex - e)) (.fin false 4 0) = .gt
    let (mag, ix) := if big then (7, true) else roundGrid r s m (ex - e)
    ((if s then 8 else 0) + mag,
      Flags.when big Flags.overflow ||| Flags.when ix Flags.inexact ||| Flags.when (m != 0 && mag = 0) Flags.underflow)
  | _ => (0, Flags.none)

/-- Codes of every element of a block, with the flags ORed. -/
def k4Codes (e : Int) (xs : List K4Elem) : List Nat × Flags :=
  xs.foldr (fun x acc => let (c, f) := k4Code e x; (c :: acc.1, f ||| acc.2)) ([], Flags.none)

def k4Poisoned (xs : List K4Elem) (f : Flags) : K4Block := ⟨k9ePoison, xs.map fun _ => 0, f⟩

/-- Flags of a block with a NaN or an infinity (R60). -/
def k4SpecialFlags (xs : List K4Elem) : Flags :=
  Flags.when (xs.any fun x => match x with | some (v, _) => v.isNaN | none => false) Flags.invalid |||
  Flags.when (xs.any fun x => match x with | some (v, _) => v.isInf | none => false) Flags.overflow

/-- Quantises a block with a scale that the device chooses (first pseudocode of R60). -/
def k4Quantise (poison : Bool) (xs : List K4Elem) : K4Block :=
  if xs.any K4Elem.special then k4Poisoned xs (k4SpecialFlags xs)
  else
    let (m, ex) := xs.foldl magMax (0, 0)
    let e0 : Int :=
      if m = 0 then 0
      else
        let eE : Int := ex + bitlen m - 1
        if m = 2 ^ (bitlen m - 1) then eE - 2 else eE - 1
    if e0 > 255 && poison then k4Poisoned xs (Flags.overflow ||| Flags.inexact)
    else
      let e := max (-255) (min 255 e0)
      let (codes, f) := k4Codes e xs
      ⟨(e % 512).toNat, codes, f⟩

/-- Quantises a block with a given scale (second pseudocode of R60). -/
def k4QuantiseGiven (poison : Bool) (gs : Nat) (xs : List K4Elem) : K4Block :=
  if xs.any K4Elem.special then k4Poisoned xs (k4SpecialFlags xs)
  else if gs % 512 = k9ePoison then k4Poisoned xs Flags.none
  else
    let e := k9eExp gs
    let big := xs.any fun x =>
      match x with
      | some (.fin _ m ex, _) => magCompare (.fin false m (ex - e)) (.fin false 4 0) = .gt
      | _ => false
    if poison && big then k4Poisoned xs (Flags.overflow ||| Flags.inexact)
    else
      let (codes, f) := k4Codes e xs
      ⟨gs % 512, codes, f⟩

/-! ### Values in storage words -/

/-- Slot `j` of a storage word of format `f`. -/
def wordSlot (f : FmtCode) (w j : Nat) : Nat := nbits w (j * f.bits) f.bits

/-- Whether a storage word's poison bit is set. -/
def wordPoison (f : FmtCode) (w : Nat) : Bool :=
  match f.poisonBit? with
  | some b => w.testBit b
  | none => false

/-- Replaces slot `j` of a storage word. -/
def setSlot (f : FmtCode) (w j x : Nat) : Nat :=
  let sh := j * f.bits
  w - nbits w sh f.bits * 2 ^ sh + (x % 2 ^ f.bits) * 2 ^ sh

/-- Sets the poison bit of a storage word to `b`; the reserved bit above it of a K18 word is written as zero (R47). -/
def setPoison (f : FmtCode) (w : Nat) (b : Bool) : Nat :=
  match f.poisonBit? with
  | some p => w % 2 ^ p + (if b then 2 ^ p else 0)
  | none => w

/-- Packs values as one storage word, slot 0 first, padding zero (R50). -/
def packWord (f : FmtCode) (xs : List Nat) (poison : Bool) : Nat :=
  let w := (xs.foldl (fun (acc : Nat × Nat) x => (acc.1 + (x % 2 ^ f.bits) * 2 ^ acc.2, acc.2 + f.bits)) (0, 0)).1
  if poison then setPoison f w true else w

/-- Splits a list into pieces of `n`, by fuel. -/
def chunksOf {α : Type} (n : Nat) : Nat → List α → List (List α)
  | 0, _ => []
  | fuel + 1, xs => if xs.isEmpty then [] else xs.take n :: chunksOf n fuel (xs.drop n)

/-- Little-endian bytes of a number (R8). -/
def leBytes : Nat → Nat → List Byte
  | 0, _ => []
  | n + 1, x => BitVec.ofNat 8 x :: leBytes n (x / 256)

/-- The number that little-endian bytes hold. -/
def leNat : List Byte → Nat
  | [] => 0
  | b :: t => b.toNat + 256 * leNat t

/-- Packs coded values as a tensor of its own (R50): every slot of every word written, padding zero, poison bits of R53. -/
def packTensor (f : FmtCode) (xs : List Coded) : List Byte :=
  if f.perWord = 1 then xs.flatMap fun x => leBytes f.wordBytes (x.bits % 2 ^ f.bits)
  else (chunksOf f.perWord xs.length xs).flatMap fun ws =>
    leBytes f.wordBytes (packWord f (ws.map Coded.bits) (ws.any Coded.exc))

/-- Bytes that a packed tensor of `n` values takes. -/
def packedSize (f : FmtCode) (n : Nat) : Nat := (n + f.perWord - 1) / f.perWord * f.wordBytes

/-- Value `j` of a packed tensor, with its word's poison bit. -/
def packedVal (f : FmtCode) (bs : List Byte) (j : Nat) : Nat × Bool :=
  let w := leNat ((bs.drop (j / f.perWord * f.wordBytes)).take f.wordBytes)
  if f.perWord = 1 then (w % 2 ^ f.bits, false) else (wordSlot f w (j % f.perWord), wordPoison f w)

end Sys2Proof.Machine
end

