-- ==== Sys2Proof/Machine/Reduce.lean ====
section
/-! DEFINITION. Element arithmetic in one format and the ordered reduction tree, shared by the vector unit (R199, R206), the
element-wise engine (R131) and the reduction windows (R261). -/

namespace Sys2Proof.Machine

/-- The value of an element in format `f`. -/
def Elem.val (f : FmtCode) (x : Elem) : FVal := decodeFmt f x.poisoned x.bits

/-- Formats whose arithmetic wraps (R199). -/
def wraps (f : FmtCode) : Bool := f = Fmt.s32 || f = Fmt.s64

/-- A wrapped integer result of `w` bits. -/
def wrapCode (w : Nat) (x : Int) : Coded := ⟨(x % (2 ^ w : Nat)).toNat, false, Flags.none⟩

/-- The signed integer in a code of `w` bits. -/
def signedOf (w x : Nat) : Int := if (x % 2 ^ w).testBit (w - 1) then ((x % 2 ^ w : Nat) : Int) - 2 ^ w else (x % 2 ^ w : Nat)

/-- Operations of Tables 7.5 and 7.6 on elements, and R130's. -/
inductive ElemOp where
  | add
  | sub
  | mul
  | fma
  | fnma
  | min
  | max
  | div
  | and
  | or
  | xor
  | abs
  | neg
  | sqrt
  | rint
deriving DecidableEq, Repr

/-- An operation on wrapped integers. -/
def intElemOp (op : ElemOp) (w a b d : Nat) : Coded :=
  let x := signedOf w a
  let y := signedOf w b
  match op with
  | .add => wrapCode w (x + y)
  | .sub => wrapCode w (x - y)
  | .mul => wrapCode w (x * y)
  | .fma => wrapCode w (x * y + signedOf w d)
  | .fnma => wrapCode w (signedOf w d - x * y)
  | .min => wrapCode w (min x y)
  | .max => wrapCode w (max x y)
  | .and => ⟨(a &&& b) % 2 ^ w, false, Flags.none⟩
  | .or => ⟨(a ||| b) % 2 ^ w, false, Flags.none⟩
  | .xor => ⟨(a ^^^ b) % 2 ^ w, false, Flags.none⟩
  | .abs => wrapCode w x.natAbs
  | .neg => wrapCode w (-x)
  | _ => wrapCode w x

/-- The exact result of an operation on values (R199), with the flags the operation raises. -/
def valElemOp (op : ElemOp) (r : Rnd) (a b d : FVal) : FRes :=
  match op with
  | .add => fAdd r a b
  | .sub => fSub r a b
  | .mul => fMul a b
  | .fma => fFma r a b d
  | .fnma => withNaN [a, b, d] (fFma r a.negate b d)
  | .min => fMinimum a b
  | .max => fMaximum a b
  | .div => fDiv a b
  | .abs => (a.abs, Flags.none)
  | .neg => (a.negate, Flags.none)
  | .sqrt => fSqrt a
  | .rint => ((roundIntegral r a).1, Flags.none)
  | _ => (a, Flags.none)

/-- One operation on elements of format `f` (R199): wrapped integers, bitwise K9I, sign operations of the long formats as bit
operations, and otherwise one rounding of the exact result. A K18 or K9F division by zero keeps DIVBYZERO beside the OVERFLOW of R58, a choice
(log 200). -/
def elemOp (op : ElemOp) (f : FmtCode) (r : Rnd) (om : Bool) (a b d : Elem) : Coded :=
  if wraps f then intElemOp op f.bits a.bits b.bits d.bits
  else if (op = .and || op = .or || op = .xor) && !a.poisoned && !b.poisoned then intElemOp op f.bits a.bits b.bits d.bits
  else if op = .and || op = .or || op = .xor then encodeFmt f r om .dnan
  else
    let sb := 2 ^ (f.bits - 1)
    if f.isLong && op = .abs then ⟨a.bits % sb, false, Flags.none⟩
    else if f.isLong && op = .neg then ⟨if a.bits < sb then a.bits + sb else a.bits - sb, false, Flags.none⟩
    else
      let x := valElemOp op r (a.val f) (b.val f) (d.val f)
      let c := encodeFmt f r om x.1
      { c with flags := c.flags ||| x.2 }

/-! ### The reduction tree (R131) -/

/-- Combines two partials, either of which may be absent. -/
def combine {α : Type} (op : α → α → α) (a b : Option α) : Option α :=
  match a, b with
  | none, y => y
  | x, none => x
  | some x, some y => some (op x y)

/-- One level of the lane-end tree. -/
def pairUp {α : Type} (op : α → α → α) : List (Option α) → List (Option α)
  | a :: b :: t => combine op a b :: pairUp op t
  | l => l

/-- The lane partials: element j goes to lane j mod 64. -/
def lanePartials {α : Type} (op : α → α → α) (es : List (Option α)) : List (Option α) :=
  (List.range 64).map fun l =>
    (es.zipIdx.filter fun x => x.2 % 64 == l).foldl (fun acc x => combine op acc x.1) none

/-- Combines the elements of one output in the order of R131. -/
def reduceTree {α : Type} (op : α → α → α) (es : List (Option α)) : Option α :=
  let l := lanePartials op es
  let l := pairUp op (pairUp op (pairUp op (pairUp op (pairUp op (pairUp op l)))))
  (l.headD none)

/-- A partial of a reduction: the element, its index, the flags raised on the way. -/
structure Partial where
  e : Elem
  idx : Nat
  flags : Flags
deriving DecidableEq, Repr

/-- REDOP codes (R130) 1-9 as element operations. -/
def redElemOp (code : Nat) : ElemOp :=
  if code = 1 then .add else if code = 2 then .mul else if code = 3 || code = 5 then .max
  else if code = 4 || code = 6 then .min else if code = 7 then .and else if code = 8 then .or else .xor

/-- Whether the second of two elements beats the first in argmax (`big`) or argmin (R133). -/
def argBeats (big : Bool) (a b : FVal) : Bool :=
  match a.isNaN, b.isNaN with
  | true, true => false
  | true, false => !big
  | false, true => big
  | false, false => if big then valCompareZ a b = .lt else valCompareZ b a = .lt

/-- op of R131 for a REDOP code, rounded in format `f`; in argmax and argmin equal values take the smaller index (R133). -/
def redOp (code : Nat) (f : FmtCode) (r : Rnd) (om : Bool) (a b : Partial) : Partial :=
  if code = 5 || code = 6 then
    let x := a.e.val f
    let y := b.e.val f
    let big := code = 5
    let w := if argBeats big x y then b else if argBeats big y x then a else if b.idx < a.idx then b else a
    { w with flags := a.flags ||| b.flags }
  else
    let c := elemOp (redElemOp code) f r om a.e b.e a.e
    { e := ⟨c.bits, c.exc⟩, idx := a.idx, flags := a.flags ||| b.flags ||| c.flags }

/-- The identity of an empty reduction (Table 5.5, R207), as an exact value to encode in the format. -/
def redIdentity (code : Nat) (f : FmtCode) (om : Bool) : Coded :=
  let w := f.bits
  if f.isInt || f = Fmt.k9i then
    if code = 1 then ⟨0, false, Flags.none⟩
    else if code = 2 then ⟨1, false, Flags.none⟩
    else if code = 3 then ⟨2 ^ (w - 1), false, Flags.none⟩
    else if code = 4 then ⟨2 ^ (w - 1) - 1, false, Flags.none⟩
    else if code = 7 then ⟨2 ^ w - 1, false, Flags.none⟩
    else ⟨0, false, Flags.none⟩
  else if code = 2 then encodeFmt f Rnd.rne om (.fin false 1 0)
  else if code = 3 then encodeFmt f Rnd.rne om (.inf true)
  else if code = 4 then encodeFmt f Rnd.rne om (.inf false)
  else ⟨0, false, Flags.none⟩

/-- Runs a reduction over elements (R131): the last partial, or nothing when every element is absent. -/
def reduceElems (code : Nat) (f : FmtCode) (r : Rnd) (om : Bool) (es : List (Option Elem)) : Option Partial :=
  reduceTree (redOp code f r om) (es.zipIdx.map fun x => x.1.map fun e => { e := e, idx := x.2, flags := Flags.none })

end Sys2Proof.Machine
end

