-- ==== Sys2Proof/Machine/EwApprox.lean ====
section
/-! DEFINITION. The approximate operations of the element-wise engine (R129, R134, R135): an enclosure of the exact result in whole numbers
scaled by a power of two, and a free result within the bound that Table 5.6 gives around it. -/

namespace Sys2Proof.Machine

/-! ### Enclosures -/

/-- The exact result lies from lo × 2^e to hi × 2^e. -/
structure Encl where
  lo : Int
  hi : Int
  e : Int
deriving DecidableEq, Repr

/-- Bits behind the point in the series below; their rounding errors stay below 2^-240. -/
def fixP : Nat := 320

/-- An enclosure around a fixed-point value. -/
def Encl.around (y : Int) : Encl := { lo := y - 2 ^ 80, hi := y + 2 ^ 80, e := -(fixP : Int) }

/-- The enclosure times 2^k. -/
def Encl.scale (x : Encl) (k : Int) : Encl := { x with e := x.e + k }

def Encl.neg (x : Encl) : Encl := { lo := -x.hi, hi := -x.lo, e := x.e }

/-- An enclosure of m 2^e times any factor from 1 - 2^-100 to 1 + 2^-100. -/
def Encl.near (m : Int) (e : Int) : Encl := { lo := m * (2 ^ 100 - 1), hi := m * (2 ^ 100 + 1), e := e - 100 }

/-! ### Series in fixed point -/

/-- The product of two numbers with `p` bits behind the point. -/
def fixMul (p : Nat) (a b : Int) : Int := a * b / 2 ^ p

/-- Sum of x^n / n! from the term `t` of index `n` - 1 on. -/
def expSum (p : Nat) (x : Int) : Nat → Nat → Int → Int
  | 0, _, _ => 0
  | fuel + 1, n, t => t + expSum p x fuel (n + 1) (fixMul p t x / (n : Int))

/-- Sum of z^(2i+1) / (2i+1), with alternating signs if `alt`, from the power `t` of index `i` on. -/
def oddSum (p : Nat) (zz : Int) (alt : Bool) : Nat → Nat → Int → Int
  | 0, _, _ => 0
  | fuel + 1, i, t =>
    t / ((2 * i + 1 : Nat) : Int) + oddSum p zz alt fuel (i + 1) (if alt then -(fixMul p t zz) else fixMul p t zz)

/-- Sum of (-1)^n x^(2n+1) / (n! (2n+1)) from the term `t` = (-1)^n x^(2n+1) / n! of index `n` on. -/
def erfSum (p : Nat) (xx : Int) : Nat → Nat → Int → Int
  | 0, _, _ => 0
  | fuel + 1, n, t => t / ((2 * n + 1 : Nat) : Int) + erfSum p xx fuel (n + 1) (-(fixMul p t xx / ((n + 1 : Nat) : Int)))

/-- Sum of (-1)^i x^(2i+k) / (2i+k)! from the term `t` of index `n` = 2i + k on. -/
def trigSum (p : Nat) (xx : Int) : Nat → Nat → Int → Int
  | 0, _, _ => 0
  | fuel + 1, n, t => t + trigSum p xx fuel (n + 2) (-(fixMul p t xx / (((n + 1) * (n + 2) : Nat) : Int)))

/-- ln 2 = 2 artanh(1/3). -/
def fixLn2 (p : Nat) : Int := 2 * oddSum p (2 ^ p / 9) false (p / 3 + 8) 0 (2 ^ p / 3)

/-- π = 16 arctan(1/5) - 4 arctan(1/239). -/
def fixPi (p : Nat) : Int :=
  16 * oddSum p (2 ^ p / 25) true (p / 4 + 8) 0 (2 ^ p / 5) - 4 * oddSum p (2 ^ p / 57121) true (p / 15 + 8) 0 (2 ^ p / 239)

/-- m 2^e with `p` bits behind the point, rounded down. -/
def toFix (p : Nat) (m : Int) (e : Int) : Int :=
  let k := e + (p : Int)
  if 0 ≤ k then m * 2 ^ k.toNat else m / 2 ^ (-k).toNat

/-- e^x of a fixed-point x: a fixed-point number from 1 to 2 and its power of two. -/
def fixExp (x : Int) : Int × Int :=
  let l := fixLn2 fixP
  let k := x / l
  (expSum fixP (x - k * l) 90 1 (2 ^ fixP), k)

/-- ln of m 2^e, m > 0. -/
def fixLn (m : Nat) (e : Int) : Int :=
  let b := bitlen m
  let y := toFix fixP m (1 - (b : Int))
  let half := 3 * 2 ^ (fixP - 1) ≤ y
  let y := if half then y / 2 else y
  let k := e + (b : Int) - 1 + (if half then 1 else 0)
  let one : Int := 2 ^ fixP
  let z := (y - one) * one / (y + one)
  k * fixLn2 fixP + 2 * oddSum fixP (fixMul fixP z z) false 110 0 z

/-- erf of a fixed-point x from 0 to 6. -/
def fixErf (x : Int) : Int :=
  let s := erfSum fixP (fixMul fixP x x) 400 0 x
  2 * s * 2 ^ fixP / (isqrt ((fixPi fixP * 2 ^ fixP).toNat) : Int)

/-! ### The functions (Table 5.4) on a magnitude m 2^e -/

/-- Whether m 2^e is below 2^k. -/
def belowPow (m : Nat) (e k : Int) : Bool := (bitlen m : Int) + e ≤ k

def enclOne : Encl := { lo := 2 ^ 120 - 1, hi := 2 ^ 120, e := -120 }

/-- e^x and 2^x, and the magnitude of x as `exp` takes it: above 2^12 it only over- or underflows. -/
def enclExp (two s : Bool) (m : Nat) (e : Int) : Encl :=
  let x := if belowPow m e 12 then toFix fixP m e else 2 ^ (fixP + 12)
  let x := if s then -x else x
  if two then
    let k := x / 2 ^ fixP
    (Encl.around (expSum fixP (fixMul fixP (x - k * 2 ^ fixP) (fixLn2 fixP)) 90 1 (2 ^ fixP))).scale k
  else (Encl.around (fixExp x).1).scale (fixExp x).2

def enclLn (two : Bool) (m : Nat) (e : Int) : Encl :=
  let y := fixLn m e
  Encl.around (if two then y * 2 ^ fixP / fixLn2 fixP else y)

def enclTanh (m : Nat) (e : Int) : Encl :=
  if belowPow m e (-64) then Encl.near m e
  else if !belowPow m e 6 then enclOne
  else
    let (y, k) := fixExp (2 * toFix fixP m e)
    let u := y * 2 ^ k.toNat
    Encl.around ((u - 2 ^ fixP) * 2 ^ fixP / (u + 2 ^ fixP))

def enclSigmoid (s : Bool) (m : Nat) (e : Int) : Encl :=
  if !belowPow m e 6 then
    if s then let x := enclExp false true m e; Encl.near ((x.lo + x.hi) / 2) x.e else enclOne
  else
    let (y, k) := fixExp (-(toFix fixP m e))
    let u := y / 2 ^ (-k).toNat
    let one : Int := 2 ^ fixP
    Encl.around ((if s then u else one) * one / (one + u))

def enclErf (m : Nat) (e : Int) : Encl :=
  if belowPow m e (-64) then
    let c := 2 * 2 ^ (2 * fixP) / (isqrt ((fixPi fixP * 2 ^ fixP).toNat) : Int)
    Encl.near (m * c) (e - (fixP : Int))
  else
    let x := toFix fixP m e
    if 6 * 2 ^ fixP ≤ x then { lo := 2 ^ 120 - 2 ^ 65, hi := 2 ^ 120, e := -120 } else Encl.around (fixErf x)

/-- x Φ(x). -/
def enclGelu (s : Bool) (m : Nat) (e : Int) : Encl :=
  let phi : Encl :=
    if belowPow m e (-64) then { lo := 2 ^ 119 - 2 ^ 56, hi := 2 ^ 119 + 2 ^ 56, e := -120 }
    else
      let x := enclErf m e
      let y := toFix fixP m e
      let z := fixMul fixP y (isqrt (2 ^ (2 * fixP - 1)))
      let x := if 6 * 2 ^ fixP ≤ z || !belowPow m e 12 then { x with lo := 2 ^ 120 - 2 ^ 65, hi := 2 ^ 120, e := -120 }
        else Encl.around (fixErf z)
      let one : Int := 2 ^ (-x.e).toNat
      if s then { lo := one - x.hi, hi := one - x.lo, e := x.e - 1 } else { lo := one + x.lo, hi := one + x.hi, e := x.e - 1 }
  let y : Encl := { lo := phi.lo * m, hi := phi.hi * m, e := phi.e + e }
  if s then y.neg else y

/-- sin and cos of m 2^e. -/
def enclTrig (cosine : Bool) (m : Nat) (e : Int) : Encl :=
  if !cosine && belowPow m e (-64) then Encl.near m e
  else
    let p := fixP + ((bitlen m : Int) + e).toNat
    let x := toFix p m e
    let h := fixPi p / 2
    let q := (2 * x + h) / (2 * h)
    let r := (x - q * h) / 2 ^ (p - fixP)
    let rr := fixMul fixP r r
    let sn := trigSum fixP rr 60 1 r
    let cs := trigSum fixP rr 60 0 (2 ^ fixP)
    Encl.around (match ((q + (if cosine then 1 else 0)) % 4).toNat with
      | 0 => sn
      | 1 => cs
      | 2 => -sn
      | _ => -cs)

/-- 1 ÷ x and 1 ÷ √x. -/
def enclRecip (m : Nat) (e : Int) : Encl :=
  let k := bitlen m + 200
  { lo := ((2 ^ k / m : Nat) : Int), hi := ((2 ^ k / m + 1 : Nat) : Int), e := -(k : Int) - e }

def enclRsqrt (m : Nat) (e : Int) : Encl :=
  let n := if e % 2 = 0 then m else 2 * m
  let k := bitlen n + 200
  let y := isqrt (2 ^ (2 * k) / n)
  { lo := y, hi := ((y + 1 : Nat) : Int), e := -(k : Int) - e / 2 }

/-- The enclosure of operation `op` on a finite operand that is not zero (Table 5.4). -/
def enclOf (op : Nat) (s : Bool) (m : Nat) (e : Int) : Encl :=
  let odd (x : Encl) : Encl := if s then x.neg else x
  match op with
  | 0x0d => odd (enclRecip m e)
  | 0x0f => enclRsqrt m e
  | 0x10 => enclExp false s m e
  | 0x11 => enclExp true s m e
  | 0x12 => enclLn false m e
  | 0x13 => enclLn true m e
  | 0x14 => odd (enclTanh m e)
  | 0x15 => enclSigmoid s m e
  | 0x16 => odd (enclErf m e)
  | 0x17 => enclGelu s m e
  | 0x18 => odd (enclTrig false m e)
  | _ => enclTrig true m e

/-! ### A free result within its bound -/

/-- The bound of Table 5.6 in ulps. -/
def ulpBound (op : Nat) (half : Bool) : Nat :=
  if half || op ≤ 0x13 then 1 else if op = 0x17 then 3 else 2

/-- The exponent of the unit in the last place of x 2^e. -/
def FlFmt.ulpExp (fl : FlFmt) (x : Int) (e : Int) : Int := max ((bitlen x.natAbs : Int) + e - 1 - (fl.mb : Int)) fl.lsb

/-- Whether a code lies within `tol` × 2^e of x 2^e; an infinity never does. -/
def FlFmt.within (fl : FlFmt) (bits : Nat) (x tol e : Int) : Bool :=
  match decodeFl fl bits with
  | .fin s m k =>
    let b := min k e
    let y : Int := (if s then -(m : Int) else m) * 2 ^ (k - b).toNat
    ((y - x * 2 ^ (e - b).toNat).natAbs : Int) ≤ tol * 2 ^ (e - b).toNat
  | _ => false

/-- Brings an enclosure to at most 300 bits, and one far below the format's smallest unit to that unit's neighbourhood. -/
def Encl.trim (x : Encl) (fl : FlFmt) : Encl :=
  let b := max (bitlen x.lo.natAbs) (bitlen x.hi.natAbs) - 300
  if x.e + (b : Int) + 340 < fl.lsb then { lo := if x.lo < 0 then -1 else 0, hi := if x.lo < 0 then 0 else 1, e := fl.lsb - 40 }
  else { lo := x.lo / 2 ^ b, hi := x.hi / 2 ^ b + 1, e := x.e + (b : Int) }

/-- A result within `tol` of the exact one: the middle of the enclosure, moved by a part of `reach` that `free` gives
and rounded, or, where that leaves the bound, the middle rounded. -/
def boundedResult (fl : FlFmt) (r : Rnd) (x : Encl) (tol reach : Int) (free : Nat) : Coded :=
  let mid := (x.lo + x.hi) / 2
  let at_ (y : Int) : Coded := encodeFl fl r false (ofInt y x.e false)
  let step : Int := ((free % 2 ^ 31 : Nat) : Int) - 2 ^ 30
  let c := at_ (mid + reach * step / 2 ^ 30)
  let c := if fl.within c.bits x.lo tol x.e && fl.within c.bits x.hi tol x.e then c else at_ mid
  { c with flags := c.flags ||| Flags.when (c.bits % fl.signBit < 2 ^ fl.mb) Flags.underflow }

/-- Operation `op` on a finite operand that is not zero, in layout `fl` (R129, R134): within the ulps of Table 5.6 of the exact result, GELU
within 2^-`mb` of its operand where that is more. binary16 rounds once, with CRM, a value that the binary32 method leaves within 2^-24 of the
exact one. -/
def approxResult (fl : FlFmt) (half : Bool) (crm : BitVec 3) (op : Nat) (s : Bool) (m : Nat) (e : Int) (free : Nat) : Coded :=
  let x := (enclOf op s m e).trim fl
  let mid := (x.lo + x.hi) / 2
  let ulps := (ulpBound op half : Int) * 2 ^ (fl.ulpExp mid x.e - x.e).toNat
  if half then boundedResult fl (.mode crm) x ulps (mid / 2 ^ 24) free
  else
    let own := if op = 0x17 then toFix 0 m (e - (fl.mb : Int) - x.e) else 0
    boundedResult fl Rnd.rne x (max ulps own) (max ulps own) free

end Sys2Proof.Machine
end

