-- ==== Sys2Proof/Machine/EwMath.lean ====
section
/-! DEFINITION. The chain operations of the element-wise engine (R128, R129, R134, R135) on codes of the compute format. -/

namespace Sys2Proof.Machine

/-- OP codes of Table 5.4 that the text names. -/
def opFma : Nat := 0x05
def opClamp : Nat := 0x08
def opRecip : Nat := 0x0d
def opRsqrt : Nat := 0x0f
def opExp : Nat := 0x10
def opExp2 : Nat := 0x11
def opLog : Nat := 0x12
def opLog2 : Nat := 0x13
def opTanh : Nat := 0x14
def opSigmoid : Nat := 0x15
def opErf : Nat := 0x16
def opGelu : Nat := 0x17
def opSin : Nat := 0x18
def opCos : Nat := 0x19
def opKeep : Nat := 0x20

/-- Whether an OP code exists (R128). -/
def ewOpExists (op : Nat) : Bool := op ≤ opCos || (opKeep ≤ op && op ≤ 0x25)

/-- Whether an operation takes an argument. -/
def ewTakesArg (op : Nat) : Bool := (0x01 ≤ op && op ≤ 0x07) || op = 0x0c || opKeep ≤ op

/-- Operations that s64 allows. -/
def ewS64Ok (op : Nat) : Bool := op ≤ 0x04 || (0x06 ≤ op && op ≤ 0x0b) || opKeep ≤ op

/-- Whether an operation of the chain reads K0, and K1 (R127 step 2). -/
def readsK0 (op arg : Nat) : Bool := (ewTakesArg op && arg = 0) || op = opClamp
def readsK1 (op arg : Nat) : Bool := (ewTakesArg op && arg = 1) || op = opClamp || op = opFma

/-- The float layout of a compute format. -/
def computeFl (cf : FmtCode) : FlFmt := (FmtCode.fl? cf).getD binary32

/-! ### Approximate operations -/

/-- The exact results of Table 5.12 and the invalid cases of R135 for a value that is not a NaN. -/
def approxExact (op : Nat) (a : FVal) : Option FRes :=
  let inf (s : Bool) : FRes := (.inf s, Flags.none)
  let one (s : Bool) : FRes := (.fin s 1 0, Flags.none)
  let zero (s : Bool) : FRes := (.zero s, Flags.none)
  let below := a.sign && !a.isZero
  if op = opRecip then
    if a.isZero then some (.inf a.sign, Flags.divByZero) else if a.isInf then some (zero a.sign) else none
  else if op = opRsqrt then
    if a.isZero then some (.inf a.sign, Flags.divByZero) else if below then some invalidRes
    else if a.isInf then some (zero false) else none
  else if op = opExp || op = opExp2 then
    if a.isZero then some (one false) else if a.isInf then some (if a.sign then zero false else inf false) else none
  else if op = opLog || op = opLog2 then
    if a.isZero then some (.inf true, Flags.divByZero) else if below then some invalidRes
    else if a.isInf then some (inf false)
    else if valCompare a (.fin false 1 0) = .eq then some (zero false) else none
  else if op = opTanh || op = opErf then
    if a.isZero then some (zero a.sign) else if a.isInf then some (one a.sign) else none
  else if op = opSigmoid then
    if a.isZero then some (.fin false 1 (-1), Flags.none)
    else if a.isInf then some (if a.sign then zero false else one false) else none
  else if op = opGelu then
    if a.isZero then some (zero a.sign) else if a.isInf then some (if a.sign then zero true else inf false) else none
  else if op = opSin then
    if a.isZero then some (zero a.sign) else if a.isInf then some invalidRes else none
  else if op = opCos then
    if a.isZero then some (one false) else if a.isInf then some invalidRes else none
  else none

/-- Operations 0x0d, 0x0f and 0x10-0x19 (R129, R134, R135). Their bits are a fixed function of their input that the manual does not give:
a free value within the bounds of Table 5.6 (log 160). -/
def ewApproxOp (op : Nat) (cf : FmtCode) (crm : BitVec 3) (x : Nat) : Coded :=
  let fl := computeFl cf
  let a := decodeFl fl x
  if a.isNaN then encodeFl fl Rnd.rne false a
  else
    match approxExact op a with
    | some r => let c := encodeFl fl Rnd.rne false r.1; { c with flags := c.flags ||| r.2 }
    | none =>
      match a with
      | .fin s m e =>
        let c := approxResult fl (cf = Fmt.binary16) crm op s m e (Config.ewApprox cf.toNat op x)
        { c with flags := c.flags ||| Flags.inexact }
      | _ => encodeFl fl Rnd.rne false .dnan

/-! ### The chain -/

/-- The element operation of a chain OP, where it is one. -/
def ewElemOp (op : Nat) : Option ElemOp :=
  match op with
  | 0x01 => some .add
  | 0x02 => some .sub
  | 0x04 => some .mul
  | 0x05 => some .fma
  | 0x06 => some .max
  | 0x07 => some .min
  | 0x09 => some .abs
  | 0x0a => some .neg
  | 0x0c => some .div
  | 0x0e => some .sqrt
  | _ => none

def plain (x : Nat) : Elem := ⟨x, false⟩

/-- RELU (Table 5.4). -/
def ewRelu (cf : FmtCode) (x : Nat) : Coded :=
  if wraps cf then ⟨if signedOf 64 x ≤ 0 then 0 else x, false, Flags.none⟩
  else
    let fl := computeFl cf
    let a := decodeFl fl x
    if a.isNaN then encodeFl fl Rnd.rne false a
    else if a.sign || a.isZero then ⟨0, false, Flags.none⟩ else ⟨x, false, Flags.none⟩

/-- One operation of the chain that is not a KEEP: x, the argument a, the constants (R128). -/
def ewOp (op : Nat) (cf : FmtCode) (crm : BitVec 3) (k0 k1 x a : Nat) : Coded :=
  let r : Rnd := .mode crm
  match ewElemOp op with
  | some e => elemOp e cf r false (plain x) (plain a) (plain k1)
  | none =>
    if op = 0x03 then elemOp .sub cf r false (plain a) (plain x) (plain k1)
    else if op = opClamp then
      let y := elemOp .max cf r false (plain x) (plain k0) (plain k1)
      let z := elemOp .min cf r false (plain y.bits) (plain k1) (plain k1)
      { z with flags := z.flags ||| y.flags }
    else if op = 0x0b then ewRelu cf x
    else if op = 0x00 then ⟨x, false, Flags.none⟩
    else ewApproxOp op cf crm x

/-- A KEEP predicate by its code 0-5 from an ordering; `none` is unordered (R128). -/
def keepHolds (k : Nat) (o : Option Ordering) : Bool :=
  match o with
  | none => k = 1
  | some .eq => k = 0 || k = 3 || k = 5
  | some .lt => k = 1 || k = 2 || k = 3
  | some .gt => k = 1 || k = 4 || k = 5

/-- Whether a KEEP operation keeps x, and the flags of its quiet comparison. -/
def ewKeep (op : Nat) (cf : FmtCode) (x a : Nat) : Bool × Flags :=
  if wraps cf then (keepHolds (op - opKeep) (some (compare (signedOf 64 x) (signedOf 64 a))), Flags.none)
  else
    let u := decodeFl (computeFl cf) x
    let v := decodeFl (computeFl cf) a
    (keepHolds (op - opKeep) (if u.isNaN || v.isNaN then none else some (valCompare u v)), snanFlags [u, v])

/-- Runs a chain of (OP, ARG) on an element: its result, or nothing when it is dropped, and the flags (R127). -/
def ewChain (cf : FmtCode) (crm : BitVec 3) (k0 k1 a1 : Nat) : List (Nat × Nat) → Nat → Option Nat × Flags
  | [], x => (some x, Flags.none)
  | (op, arg) :: t, x =>
    let a := if arg = 0 then k0 else if arg = 1 then k1 else a1
    if opKeep ≤ op then
      let (keep, f) := ewKeep op cf x a
      if keep then
        let (y, g) := ewChain cf crm k0 k1 a1 t x
        (y, f ||| g)
      else (none, f)
    else
      let c := ewOp op cf crm k0 k1 x a
      let (y, g) := ewChain cf crm k0 k1 a1 t c.bits
      (y, c.flags ||| g)

end Sys2Proof.Machine
end

