-- ==== Sys2Proof/Machine/Ops.lean ====
section
/-! DEFINITION. Named operations over the state: sparse maps, bytes in canonical form, accessors of cores, isles, queues
and launches, and the core's register file. -/

namespace Sys2Proof.Machine

/-! ### Sparse maps and byte memories -/

/-- The value at key `k`, or `d`. -/
def mapGet {α : Type} (d : α) (k : Nat) : Map α → α
  | [] => d
  | (i, a) :: t => if i = k then a else mapGet d k t

/-- The value at key `k`, if listed. -/
def mapFind {α : Type} (k : Nat) : Map α → Option α
  | [] => none
  | (i, a) :: t => if i = k then some a else mapFind k t

/-- Sets key `k`, keeping keys in rising order. -/
def mapSet {α : Type} (k : Nat) (a : α) : Map α → Map α
  | [] => [(k, a)]
  | (i, b) :: t => if i = k then (k, a) :: t else if k < i then (k, a) :: (i, b) :: t else (i, b) :: mapSet k a t

/-- Removes key `k`. -/
def mapErase {α : Type} (k : Nat) (m : Map α) : Map α := m.filter fun x => x.1 != k

/-- Sets or removes key `k`. -/
def mapPut {α : Type} (k : Nat) (o : Option α) (m : Map α) : Map α :=
  match o with
  | some a => mapSet k a m
  | none => mapErase k m

/-- The lowest key below `n` that is not listed. -/
def mapFree {α : Type} (n : Nat) (m : Map α) : Option Nat :=
  (List.range n).find? fun k => (mapFind k m).isNone

/-- What an unlisted byte reads as (log 6). -/
def unlistedByte : Byte := 0#8

/-- One byte. -/
def byteAt (m : Bytes) (a : Nat) : Byte := mapGet unlistedByte a m

/-- Writes one byte, keeping the canonical form. -/
def setByte (m : Bytes) (a : Nat) (b : Byte) : Bytes :=
  if b = unlistedByte then mapErase a m else mapSet a b m

/-- `n` bytes from address `a`, lowest first. -/
def readBytes (m : Bytes) (a : Nat) : Nat → List Byte
  | 0 => []
  | n + 1 => byteAt m a :: readBytes m (a + 1) n

/-- Writes bytes from address `a` upward. -/
def writeBytes (m : Bytes) (a : Nat) : List Byte → Bytes
  | [] => m
  | b :: t => writeBytes (setByte m a b) (a + 1) t

/-- Zeroes `n` bytes from address `a`. -/
def zeroBytes (m : Bytes) (a n : Nat) : Bytes := m.filter fun x => x.1 < a || a + n ≤ x.1

/-- Bytes written under a mask: bit j of `mask` selects byte j. -/
def writeMasked (m : Bytes) (a : Nat) (mask : Nat) : List Byte → Bytes
  | [] => m
  | b :: t => writeMasked (if mask % 2 = 1 then setByte m a b else m) (a + 1) (mask / 2) t

/-- Addresses rising from `lo`, no zero byte listed: the canonical form. -/
def bytesFrom : Nat → Bytes → Bool
  | _, [] => true
  | lo, (a, b) :: t => lo ≤ a && b != unlistedByte && bytesFrom (a + 1) t

/-- The canonical form of a byte memory. -/
abbrev Bytes.wf (m : Bytes) : Bool := bytesFrom 0 m

/-- The little-endian number of `n` bytes at `a` (R8). -/
def readNat (m : Bytes) (a n : Nat) : Nat := leNat (readBytes m a n)

/-- The 64-bit word at `a`. -/
def readWord (m : Bytes) (a : Nat) : Word := BitVec.ofNat 64 (readNat m a 8)

/-- Stores the low `n` bytes of a number at `a`. -/
def writeNat (m : Bytes) (a n x : Nat) : Bytes := writeBytes m a (leBytes n x)

/-- Field [hi:lo] of a word as a number. -/
def fld (w : Word) (hi lo : Nat) : Nat := nbits w.toNat lo (hi + 1 - lo)

/-- A word from a number. -/
def word (x : Nat) : Word := BitVec.ofNat 64 x

/-- A number saturated at the all-ones value of `w` bits (R15). -/
def sat (w x : Nat) : Nat := min x (2 ^ w - 1)

/-- One more, saturating (R15). -/
def satInc {w : Nat} (x : BitVec w) : BitVec w := if x = BitVec.allOnes w then x else x + 1#w

/-- Removes repeats, keeping first places. -/
def addOnce {α : Type} [DecidableEq α] (x : α) (l : List α) : List α := if x ∈ l then l else l ++ [x]

/-- FEAT0 and FEAT1 (R31, R34). -/
def feat0 : Word := 0x000000000fff1fff#64
def feat1 : Word := 0x001404b096820806#64

/-! ### Accessors -/

def State.core (s : State) (c : CoreId) : Core := mapGet Core.reset c.val s.cores

def State.setCore (s : State) (c : CoreId) (x : Core) : State := { s with cores := mapSet c.val x s.cores }

def State.sc (s : State) (c : CoreId) : Scalar := (s.core c).sc

def State.setSc (s : State) (c : CoreId) (x : Scalar) : State := s.setCore c { s.core c with sc := x }

def State.vec (s : State) (c : CoreId) : Vec := (s.core c).vec

def State.setVec (s : State) (c : CoreId) (x : Vec) : State := s.setCore c { s.core c with vec := x }

def State.updVec (s : State) (c : CoreId) (f : Vec → Vec) : State := s.setVec c (f (s.vec c))

def State.mx (s : State) (c : CoreId) : Mx := (s.core c).mx

def State.updMx (s : State) (c : CoreId) (f : Mx → Mx) : State := s.setCore c { s.core c with mx := f (s.mx c) }

/-- Applies `f` to core `c`. -/
def State.updCore (s : State) (c : CoreId) (f : Core → Core) : State := s.setCore c (f (s.core c))

/-- Applies `f` to the scalar part of core `c`. -/
def State.updSc (s : State) (c : CoreId) (f : Scalar → Scalar) : State := s.setSc c (f (s.sc c))

/-- A core by number; numbers past the last name no core and reach core 0 (never used so: callers pass enabled cores). -/
def coreOf (n : Nat) : CoreId := Fin.ofNat 1200 n

def State.isle (s : State) (i : IsleId) : Isle := s.isles.get i

def State.setIsle (s : State) (i : IsleId) (x : Isle) : State := { s with isles := s.isles.set i x }

def State.updIsle (s : State) (i : IsleId) (f : Isle → Isle) : State := s.setIsle i (f (s.isle i))

/-- The isle of a core (R4). -/
def isleOf (c : CoreId) : IsleId := Fin.ofNat 8 (c.val / 150)

/-- The core index within its isle (R4). -/
def coreIndex (c : CoreId) : Nat := c.val % 150

def State.updHb (s : State) (f : Harbour → Harbour) : State := { s with hb := f s.hb }

def State.queue (s : State) (q : QueueId) : Queue := s.hb.queues.get q

def State.setQueue (s : State) (q : QueueId) (x : Queue) : State :=
  s.updHb fun h => { h with queues := h.queues.set q x }

def State.updQueue (s : State) (q : QueueId) (f : Queue → Queue) : State := s.setQueue q (f (s.queue q))

def State.port (s : State) (p : PortId) : Port := s.strait.ports.get p

def State.setPort (s : State) (p : PortId) (x : Port) : State :=
  { s with strait := { s.strait with ports := s.strait.ports.set p x } }

def State.updPort (s : State) (p : PortId) (f : Port → Port) : State := s.setPort p (f (s.port p))

def State.launch (s : State) (k : Nat) : Option Launch := mapFind k s.hb.launches

def State.setLaunch (s : State) (k : Nat) (l : Launch) : State :=
  s.updHb fun h => { h with launches := mapSet k l h.launches }

/-- Applies `f` to launch record `k`, if it is in use. -/
def State.updLaunch (s : State) (k : Nat) (f : Launch → Launch) : State :=
  match s.launch k with
  | some l => s.setLaunch k (f l)
  | none => s

def State.ctx (s : State) (c : Nat) : Option Ctx := mapFind c s.hb.ctxs

def State.setCtx (s : State) (c : Nat) (x : Ctx) : State :=
  s.updHb fun h => { h with ctxs := mapSet c x h.ctxs }

def State.updCtx (s : State) (c : Nat) (f : Ctx → Ctx) : State :=
  match s.ctx c with
  | some x => s.setCtx c (f x)
  | none => s

/-- A frame's tag; a frame never retagged has context 0 and is not retired (R296). -/
def State.frameTag (s : State) (fr : Nat) : FrameTag := mapGet { retired := false, ctx := 0 } fr s.frames

def State.setFrameTag (s : State) (fr : Nat) (t : FrameTag) : State :=
  { s with frames := if t.retired = false && t.ctx = 0 then mapErase fr s.frames else mapSet fr t s.frames }

def State.graph (s : State) (g : Nat) : Option Graph := mapFind g s.hb.graphs

/-- Whether a band or step holds the isle's cores with clocks stopped (Table 9.14, R433). -/
def IsleHeat.stopped (h : IsleHeat) : Bool := 3 ≤ h.band0 || 3 ≤ h.band1 || 3 ≤ h.junctionStep

/-- Whether the power stage runs and no stage of Clamp stops the isle dies (R447, R493). -/
def State.powered (s : State) : Bool :=
  s.power.on && s.lh.clamp = 0 && (s.boot.phase = .stages || s.boot.phase = .ready || s.boot.phase = .diag)

/-- Whether a core's clock may run: no heat, idle state, limiter or gated window stops it (R288, R430, R433, R440, R452). -/
def State.clockFree (s : State) (c : CoreId) : Bool :=
  let i := s.isle (isleOf c)
  s.powered && !s.lh.limiter && s.power.idle = 0 && i.idle = 0 && !i.heat.stopped && !(s.core c).pw.gated

/-- Whether a core runs: its clock is free, and it does not wait for the wake tokens of its restart (R430, R434). -/
def State.clocked (s : State) (c : CoreId) : Bool :=
  let x := (s.core c).pw
  s.clockFree c && !(x.point = 0 && x.want.isSome)

/-- The launch that a core works for (R338: one launch at a time holds a core). -/
def State.launchOfCore (s : State) (c : Nat) : Option (Nat × Launch) :=
  s.hb.launches.find? fun x => x.2.cores.contains c

/-- Whether no failure stops the work of the launch that core `c` works for (R340). -/
def State.launchLive (s : State) (c : CoreId) : Bool :=
  match s.launchOfCore c.val with
  | some (_, l) => l.failure.isNone
  | none => true

/-- A number for the next free value, and the state that has used it (log 1). -/
def State.takeFree (s : State) : Nat × State := (s.free, { s with free := s.free + 1 })

/-! ### Registers of the scalar core (R152) -/

/-- Reads g[r]; g0 reads zero. -/
def Scalar.rg (x : Scalar) (r : BitVec 5) : Word := if r = 0#5 then 0#64 else x.g.get r.toFin

/-- Writes g[r]; a write to g0 is discarded. -/
def Scalar.wg (x : Scalar) (r : BitVec 5) (v : Word) : Scalar := if r = 0#5 then x else { x with g := x.g.set r.toFin v }

/-- Reads p[i]; p0 reads 1. -/
def Scalar.rp (x : Scalar) (i : BitVec 3) : Bool := i = 0#3 || x.p.getLsbD i.toNat

/-- Writes p[i]; a write to p0 is discarded. -/
def Scalar.wp (x : Scalar) (i : BitVec 3) (b : Bool) : Scalar :=
  if i = 0#3 then x
  else
    let bit := (1#8 <<< i.toNat)
    { x with p := if b then x.p ||| bit else x.p &&& ~~~bit }

/-- The eight predicates as a number, bit 0 reading 1 (PTOG, Table 6.8). -/
def Scalar.preds (x : Scalar) : Word := (x.p ||| 1#8).setWidth 64

/-! ### Lagoon and scratch words (R251, R246) -/

/-- The first byte of a bad word that `n` bytes at `o` touch. -/
def badIn (bad : List Nat) (o n : Nat) : Option Nat :=
  (bad.find? fun w => 8 * w < o + n && o < 8 * w + 8).map fun w => 8 * w

/-- The bad words that a write of `n` bytes at `o` does not replace whole. -/
def stillBad (bad : List Nat) (o n : Nat) : List Nat := bad.filter fun w => !(o ≤ 8 * w && 8 * w + 8 ≤ o + n)

/-- Writes lagoon bytes; a word written whole is good again. -/
def Scalar.putLagoon (x : Scalar) (o : Nat) (bs : List Byte) : Scalar :=
  { x with lagoon := writeBytes x.lagoon o bs, lagoonBad := stillBad x.lagoonBad o bs.length }

/-! ### CRC-64 -/

/-- The CRC-64 register `r` after more bits, by the polynomial of ECMA-182. -/
def crcBits (r : BitVec 64) : List Bool → BitVec 64
  | [] => r
  | b :: t => if r.getLsbD 63 != b then crcBits ((r <<< 1) ^^^ 0x42f0e1eba9ea3693#64) t else crcBits (r <<< 1) t

/-- CRC-64 as ECMA-182 defines it, of the bytes of a Mid frame or a Strait flit (R272, R397): the register starts at 0, and takes the most
significant bit of a byte first. -/
def crc64 (bs : List Byte) : BitVec 64 := crcBits 0#64 (bs.flatMap fun b => (List.range 8).map fun i => b.getLsbD (7 - i))

/-- Writes bytes of the scratch ways. -/
def Scalar.putScratch (x : Scalar) (o : Nat) (bs : List Byte) : Scalar :=
  { x with scratch := writeBytes x.scratch o bs, scratchBad := stillBad x.scratchBad o bs.length }

/-- Reads a half of a c register (Table 6.15). -/
def Scalar.rc (x : Scalar) (ctl : Bool) (i : BitVec 2) : Word :=
  let r := x.c.get i.toFin
  if ctl then (r.bits.setWidth 64 <<< 32) ||| r.len.setWidth 64 else r.base.setWidth 64

/-- Writes a half of a c register; reserved bits are ignored (R11). -/
def Scalar.wc (x : Scalar) (ctl : Bool) (i : BitVec 2) (v : Word) : Scalar :=
  let r := x.c.get i.toFin
  let r' : CReg :=
    if ctl then { r with bits := v.extractLsb' 32 5, len := v.extractLsb' 0 32 } else { r with base := v.extractLsb' 0 56 }
  { x with c := x.c.set i.toFin r' }

end Sys2Proof.Machine
end

