-- ==== Sys2Proof/Machine/EwCheck.lean ====
section
/-! DEFINITION. Tensor descriptors: their fields (Tables 5.1-5.3), their footprints (R125) and the checks of R124. -/

namespace Sys2Proof.Machine

/-- Word `i` of a descriptor. -/
def EwDesc.w (d : EwDesc) (i : Nat) : Word := d.words.get (Fin.ofNat 16 i)

/-! ### Fields -/

def EwDesc.tag (d : EwDesc) : Nat := fld (d.w 0) 63 48
def EwDesc.tqtag (d : EwDesc) : Nat := fld (d.w 0) 47 32
def EwDesc.tagchk (d : EwDesc) : Bool := (d.w 0).getLsbD 31
def EwDesc.irq (d : EwDesc) : Bool := (d.w 0).getLsbD 30
def EwDesc.s0kind (d : EwDesc) : Nat := fld (d.w 0) 29 28
def EwDesc.s1en (d : EwDesc) : Bool := (d.w 0).getLsbD 27
def EwDesc.dkind (d : EwDesc) : Bool := (d.w 0).getLsbD 26
def EwDesc.fstream (d : EwDesc) : Nat := fld (d.w 0) 25 22
def EwDesc.len (d : EwDesc) : Nat := fld (d.w 0) 21 18
def EwDesc.reddims (d : EwDesc) : Nat := fld (d.w 0) 17 13
def EwDesc.redop (d : EwDesc) : Nat := fld (d.w 0) 12 9
def EwDesc.tswen (d : EwDesc) : Bool := (d.w 0).getLsbD 8
def EwDesc.k4mode (d : EwDesc) : Nat := fld (d.w 1) 41 40
def EwDesc.om (d : EwDesc) : Bool := (d.w 1).getLsbD 39
def EwDesc.orm (d : EwDesc) : BitVec 3 := (d.w 1).extractLsb' 36 3
def EwDesc.crm (d : EwDesc) : BitVec 3 := (d.w 1).extractLsb' 32 3
def EwDesc.cfmt (d : EwDesc) : FmtCode := (d.w 1).extractLsb' 28 4
def EwDesc.ofmt (d : EwDesc) : FmtCode := (d.w 1).extractLsb' 24 4
def EwDesc.s1fmt (d : EwDesc) : FmtCode := (d.w 1).extractLsb' 20 4
def EwDesc.s0fmt (d : EwDesc) : FmtCode := (d.w 1).extractLsb' 16 4
def EwDesc.scaleOff (d : EwDesc) : Nat := fld (d.w 2) 59 40
def EwDesc.src1Off (d : EwDesc) : Nat := fld (d.w 2) 39 20
def EwDesc.src0Off (d : EwDesc) : Nat := fld (d.w 2) 19 0
def EwDesc.dst (d : EwDesc) : Nat := fld (d.w 3) 55 0
def EwDesc.tswOff (d : EwDesc) : Nat := fld (d.w 5) 35 16
def EwDesc.k1 (d : EwDesc) : Nat := fld (d.w 13) 63 32
def EwDesc.k0 (d : EwDesc) : Nat := fld (d.w 13) 31 0
def EwDesc.src1Bound (d : EwDesc) : Nat := fld (d.w 14) 41 21
def EwDesc.src0Bound (d : EwDesc) : Nat := fld (d.w 14) 20 0
def EwDesc.srBase (d : EwDesc) : Nat := fld (d.w 15) 63 32
def EwDesc.dstBound (d : EwDesc) : Nat := fld (d.w 15) 31 0

/-- Extent of dimension `k`, 0-4. -/
def EwDesc.ext (d : EwDesc) (k : Nat) : Nat := if k = 4 then fld (d.w 5) 15 0 else fld (d.w 4) (16 * k + 15) (16 * k)

/-- Whether dimension `k` is reduced. -/
def EwDesc.red (d : EwDesc) (k : Nat) : Bool := d.reddims.testBit k

/-- Extent of dimension `k` in the output: 1 where it is reduced (R130). -/
def EwDesc.oext (d : EwDesc) (k : Nat) : Nat := if d.red k then 1 else d.ext k

/-- Operation `i` of the chain: (OP, ARG). -/
def EwDesc.op (d : EwDesc) (i : Nat) : Nat × Nat := (fld (d.w 12) (8 * i + 5) (8 * i), fld (d.w 12) (8 * i + 7) (8 * i + 6))

def EwDesc.chain (d : EwDesc) : List (Nat × Nat) := (List.range (min d.len 8)).map d.op

/-- Words of the strides of SRC0, SRC1 and the destination. -/
def strSrc0 : Nat := 6
def strSrc1 : Nat := 8
def strDst : Nat := 10

/-- Signed stride of dimension `k`, 1-4, in the two words from `b`. -/
def EwDesc.stride (d : EwDesc) (b k : Nat) : Int :=
  let w := d.w (b + (k - 1) / 2)
  signedOf 32 (fld w (32 * ((k - 1) % 2) + 31) (32 * ((k - 1) % 2)))

/-- Elements visited, and output elements. -/
def EwDesc.visited (d : EwDesc) : Nat := d.ext 0 * d.ext 1 * d.ext 2 * d.ext 3 * d.ext 4
def EwDesc.outputs (d : EwDesc) : Nat := d.oext 0 * d.oext 1 * d.oext 2 * d.oext 3 * d.oext 4

/-- K4 is one of the operands' formats. -/
def EwDesc.usesK4 (d : EwDesc) : Bool := d.s0fmt = Fmt.k4 || d.ofmt = Fmt.k4

/-- Some operand uses a scale plane. -/
def EwDesc.usesPlane (d : EwDesc) : Bool := d.usesK4 && d.k4mode != 2

/-- Bytes of a run of `n` elements (R126). -/
def EwDesc.runBytes (d : EwDesc) (f : FmtCode) (n : Nat) : Nat :=
  if f = Fmt.k4 && d.k4mode = 2 then n / 32 * 24 else packedSize f n

/-- Alignment of a run start (R126). -/
def runAlign (f : FmtCode) : Nat := f.wordBytes

/-! ### Footprints (R125) -/

/-- The lowest and the highest offset of a run start over extents `e`, from base `off`. -/
def EwDesc.span (d : EwDesc) (off b : Nat) (e : Nat → Nat) : Int × Int :=
  [1, 2, 3, 4].foldl (fun (acc : Int × Int) k =>
    let x := d.stride b k * ((e k : Int) - 1)
    (acc.1 + min 0 x, acc.2 + max 0 x)) ((off : Int), (off : Int))

/-- An operand in the lagoon: its offset, stride words, format, bound, run length and extents. -/
structure EwOperand where
  off : Nat
  str : Nat
  fmt : FmtCode
  bound : Nat
  run : Nat
  ext : Nat → Nat

def EwDesc.src0 (d : EwDesc) : EwOperand := ⟨d.src0Off, strSrc0, d.s0fmt, d.src0Bound, d.ext 0, d.ext⟩
def EwDesc.src1 (d : EwDesc) : EwOperand := ⟨d.src1Off, strSrc1, d.s1fmt, d.src1Bound, d.ext 0, d.ext⟩
def EwDesc.sink (d : EwDesc) : EwOperand := ⟨d.dst, strDst, d.ofmt, d.dstBound, d.oext 0, d.oext⟩

/-- The operands that lie in the lagoon. -/
def EwDesc.operands (d : EwDesc) : List EwOperand :=
  (if d.s0kind = 0 then [d.src0] else []) ++ (if d.s1en then [d.src1] else []) ++ (if d.dkind then [] else [d.sink])

/-- Whether the extents allow some index. -/
def EwOperand.touched (x : EwOperand) : Bool := (List.range 5).all fun k => x.ext k != 0

/-- The footprint: its first byte, and one past its last. -/
def EwDesc.footprint (d : EwDesc) (x : EwOperand) : Int × Int :=
  let (lo, hi) := d.span x.off x.str x.ext
  (lo, hi + d.runBytes x.fmt x.run)

/-- Whether an operand's footprint keeps its bound and the lagoon (R124 check 4). -/
def EwDesc.inBound (d : EwDesc) (x : EwOperand) : Bool :=
  let (lo, hi) := d.footprint x
  !x.touched || ((x.off : Int) ≤ lo && hi ≤ x.off + x.bound && hi ≤ 0x100000)

/-- Whether every run start is aligned (R124 check 5). -/
def EwDesc.aligned (d : EwDesc) (x : EwOperand) : Bool :=
  !x.touched || (x.off % runAlign x.fmt = 0 &&
    [1, 2, 3, 4].all fun k => x.ext k = 1 || d.stride x.str k % runAlign x.fmt = 0)

/-! ### The checks of R124 -/

/-- Status codes (Table 5.8). -/
def ewOk : Nat := 0
def ewReserved : Nat := 1
def ewBadFormat : Nat := 2
def ewBadMode : Nat := 3
def ewLengthOver : Nat := 4
def ewMisaligned : Nat := 5
def ewShape : Nat := 6
def ewTag : Nat := 7
def ewAborted : Nat := 8
def ewSinkFault : Nat := 9

/-- Check 1: reserved fields, and CHAIN bytes at or beyond LEN. The high bits of a lagoon destination are among them. -/
def EwDesc.reserved (d : EwDesc) : Bool :=
  d.w 0 &&& 0xff#64 != 0#64 || d.w 1 &&& 0xfffffc080000ffff#64 != 0#64 || d.w 2 &&& 0xf000000000000000#64 != 0#64 ||
  d.w 3 &&& 0xff00000000000000#64 != 0#64 || (!d.dkind && 0x100000 ≤ d.dst) ||
  d.w 5 &&& 0xfffffff000000000#64 != 0#64 || d.w 14 &&& 0xfffffc0000000000#64 != 0#64 ||
  (d.len < 8 && fld (d.w 12) 63 (8 * d.len) != 0)

/-- Compute formats (Table 5.3). -/
def computeFmt (f : FmtCode) : Bool := f.isLong || f = Fmt.s64

/-- Check 2. -/
def EwDesc.badFormat (d : EwDesc) : Bool :=
  FmtCode.reserved d.s0fmt || FmtCode.reserved d.s1fmt || FmtCode.reserved d.ofmt || !computeFmt d.cfmt ||
  d.s1fmt = Fmt.k4 || ((d.redop = 5 || d.redop = 6) && d.ofmt != Fmt.s32 && d.ofmt != Fmt.s64)

/-- Whether an operation of the chain is not allowed (R128). -/
def EwDesc.badOp (d : EwDesc) (x : Nat × Nat) : Bool :=
  let (op, arg) := x
  !ewOpExists op || arg = 3 || (!ewTakesArg op && arg != 0) || (op = opFma && arg = 1) || (arg = 2 && !d.s1en) ||
  (d.cfmt = Fmt.s64 && !ewS64Ok op)

/-- A field that Table 5.11 marks zero is not zero while unused (R519). -/
def EwDesc.unusedNonzero (d : EwDesc) : Bool :=
  let z (i : Nat) : Bool := d.w i = 0#64
  let tile := d.s0kind = 1
  (!d.s1en && !(d.src1Off = 0 && z 8 && z 9 && d.src1Bound = 0 && d.s1fmt = 0#4)) ||
  (tile && !(d.src0Off = 0 && z 6 && z 7 && d.src0Bound = 0)) ||
  (d.s0kind = 0 && (d.tagchk || d.tqtag != 0 || d.tswen || d.tswOff != 0)) ||
  (!d.tagchk && d.tqtag != 0) || (!d.tswen && d.tswOff != 0) ||
  (d.dkind && !(z 10 && z 11)) || (!d.dkind && d.fstream != 0) ||
  (!d.usesK4 && d.k4mode != 0) || (!d.usesPlane && d.scaleOff != 0)

/-- Check 3. -/
def EwDesc.badMode (d : EwDesc) : Bool :=
  2 ≤ d.s0kind || d.k4mode = 3 || 9 < d.redop || d.chain.any d.badOp ||
  d.crm = rmSR || d.crm = 6#3 || !rmFieldOk d.orm d.ofmt ||
  (7 ≤ d.redop && d.cfmt != Fmt.s64) || ((d.redop = 0) != (d.reddims = 0)) ||
  (d.s0fmt = Fmt.k4 && d.ofmt = Fmt.k4) ||
  (d.s0fmt = Fmt.k4 && d.ext 0 % 32 != 0) || (d.ofmt = Fmt.k4 && d.oext 0 % 32 != 0) ||
  d.unusedNonzero ||
  (d.dkind && (d.ofmt = Fmt.k4 || (d.redop = 0 && d.chain.any fun x => opKeep ≤ x.1)))

/-- The open-output count (R130). -/
def EwDesc.openOutputs (d : EwDesc) : Nat :=
  let hi := bitlen d.reddims - 1
  if d.reddims = 0 then 0
  else ((List.range hi).filter fun k => !d.red k).foldl (fun a k => a * d.ext k) 1

/-- Blocks of the K4 operand. -/
def EwDesc.k4Blocks (d : EwDesc) : Nat := (if d.s0fmt = Fmt.k4 then d.visited else d.outputs) / 32

/-- Check 4. -/
def EwDesc.lengthOver (d : EwDesc) : Bool :=
  8 < d.len || 64 < d.openOutputs || !(d.operands.all d.inBound) ||
  (d.dkind && d.outputs != 0 && d.dstBound < packedSize d.ofmt d.outputs) ||
  (d.usesPlane && d.k4Blocks != 0 && 0x100000 < d.scaleOff + 8 * ((d.k4Blocks + 6) / 7)) ||
  (d.tswen && d.visited != 0 && 0x100000 < d.tswOff + 32 * (d.ext 2 * d.ext 3 * d.ext 4))

/-- The first failing check of R124, or OK. -/
def EwDesc.check (d : EwDesc) : Nat :=
  if d.reserved then ewReserved
  else if d.badFormat then ewBadFormat
  else if d.badMode then ewBadMode
  else if d.lengthOver then ewLengthOver
  else if !(d.operands.all d.aligned) then ewMisaligned
  else ewOk

end Sys2Proof.Machine
end

