-- ==== Sys2Proof/Machine/MatArith.lean ====
section
/-! DEFINITION. Matrix arithmetic (R67-R81): operand decoding, pieces and passes, alignment groups, the wide accumulator,
special values, rounding at drain, accumulator images. -/

namespace Sys2Proof.Machine

/-! ### Modes (Tables 3.1, 4.1) -/

def mdK4 : Nat := 0
def mdK9 : Nat := 1
def mdK18 : Nat := 2
def mdB16 : Nat := 3
def mdFP32x9 : Nat := 4
def mdFP32x6 : Nat := 5
def mdFP64x9 : Nat := 6
def mdFP64x6 : Nat := 7

/-- Chunk extent k. -/
def modeK (md : Nat) : Nat := if md = mdK4 then 32 else if md = mdK9 || md = mdK18 then 16 else 8

/-- Chunk extent n. -/
def modeN (md : Nat) : Nat := if md ≤ mdK18 then 16 else 8

/-- Passes P. -/
def modePasses (md : Nat) : Nat :=
  if md = mdFP32x9 || md = mdFP64x9 then 9 else if md = mdFP32x6 || md = mdFP64x6 then 6 else 1

/-- The piece width of Table 3.3, for the modes that split significands. -/
def pieceWidth (md : Nat) : Option Nat :=
  if md = mdFP32x9 || md = mdFP32x6 then some 9 else if md = mdFP64x9 || md = mdFP64x6 then some 18 else none

/-- The operand formats of a mode (Table 3.1). -/
def modeFmtOk (md : Nat) (f : FmtCode) : Bool :=
  if md = mdK4 then f = Fmt.k4
  else if md = mdK9 then f = Fmt.k9f || f = Fmt.k9i
  else if md = mdK18 then f = Fmt.k18 || f = Fmt.k9f || f = Fmt.k9i
  else if md = mdB16 then f = Fmt.binary16
  else if md = mdFP32x9 || md = mdFP32x6 then f = Fmt.binary32
  else if md = mdFP64x9 || md = mdFP64x6 then f = Fmt.binary64
  else false

/-! ### Operands (R68) -/

/-- m and t of a K4 magnitude code, before the block scale (Table 3.2). -/
def k4Operand (code : Nat) : Nat × Int :=
  match code % 8 with
  | 0 => (0, 0)
  | 1 => (1, -2)
  | 2 => (1, -1)
  | 3 => (1, 0)
  | 4 => (3, -1)
  | 5 => (1, 1)
  | 6 => (3, 0)
  | _ => (1, 2)

def Opd.special (c : OpClass) : Opd := { s := false, m := 0, t := 0, cls := c }

/-- Decodes one operand (Table 3.2); `scale` is the K9E code of a K4 block. -/
def decodeOpd (f : FmtCode) (poisoned : Bool) (scale x : Nat) : Opd :=
  if f = Fmt.k4 then
    if poisoned || scale % 512 = k9ePoison then Opd.special .poison
    else { s := x.testBit 3, m := (k4Operand x).1, t := (k4Operand x).2 + k9eExp scale, cls := .finite }
  else if poisoned then Opd.special .poison
  else
    match decodeFmt f false x with
    | .fin s m e => { s := s, m := m, t := e, cls := .finite }
    | .inf s => { s := s, m := 0, t := 0, cls := .infinite }
    | .nan s _ _ _ => { s := s, m := 0, t := 0, cls := .nan }

/-- Bytes of a segment of `n` values (Table 4.2): K4 carries its scale in a nonet word behind its two words. -/
def segBytes (f : FmtCode) (n : Nat) : Nat := if f = Fmt.k4 then 24 else packedSize f n

/-- Alignment of a segment (Table 4.2). -/
def segAlign (f : FmtCode) : Nat := if f = Fmt.k18 then 16 else 8

/-- Decodes a packed segment of `n` values (R94). -/
def decodeSegment (f : FmtCode) (n : Nat) (bs : List Byte) : List Opd :=
  if f = Fmt.k4 then
    let w := leNat ((bs.drop 16).take 8)
    (List.range n).map fun i => decodeOpd f (w.testBit 63) (nbits w 0 9) (packedVal f bs i).1
  else
    (List.range n).map fun i =>
      let v := packedVal f bs i
      decodeOpd f v.2 0 v.1

/-! ### Pieces and products (R69-R71) -/

/-- The pieces of each pass, operand A first (Table 3.4). -/
def passPieces (p : Nat) : Nat × Nat :=
  [(2, 2), (2, 1), (1, 2), (2, 0), (1, 1), (0, 2), (1, 0), (0, 1), (0, 0)].getD p (0, 0)

/-- The widening shift of Table 3.3 for piece width `w`. -/
def widen (w : Nat) : Nat := if w = 9 then 3 else 1

/-- Piece `i` of an operand. -/
def Opd.piece (x : Opd) (w i : Nat) : Nat := nbits (x.m <<< widen w) (w * i) w

/-- A finite product: (-1)^s m 2^t. -/
structure Prod1 where
  s : Bool
  m : Nat
  t : Int
deriving DecidableEq, Repr

/-- The product that pass `p` of mode `md` forms (R70, R71). -/
def product (md p : Nat) (a b : Opd) : Prod1 :=
  match pieceWidth md with
  | none => { s := a.s != b.s, m := a.m * b.m, t := a.t + b.t }
  | some w =>
    let (i, j) := passPieces p
    { s := a.s != b.s
      m := a.piece w i * b.piece w j
      t := (a.t - widen w) + (b.t - widen w) + (w * (i + j) : Nat) }

/-! ### Special values (R79, R80) -/

def spNone : BitVec 3 := 0#3
def spPinf : BitVec 3 := 1#3
def spNinf : BitVec 3 := 2#3
def spInv : BitVec 3 := 3#3
def spInvP : BitVec 3 := 7#3

/-- The class of a product, as the state it leads to from NONE (R80 rule 1). -/
def productClass (a b : Opd) : BitVec 3 :=
  if a.cls = .poison || b.cls = .poison then spInvP
  else if a.cls = .nan || b.cls = .nan then spInv
  else if a.cls = .infinite || b.cls = .infinite then
    if (a.cls = .finite && a.m = 0) || (b.cls = .finite && b.m = 0) then spInv
    else if a.s != b.s then spNinf else spPinf
  else spNone

/-- R80 rule 2. -/
def mergeSpecial (x c : BitVec 3) : BitVec 3 :=
  if c = spNone then x
  else if x = spInvP || c = spInvP then spInvP
  else if x = spInv || c = spInv then spInv
  else if x = spNone || x = c then c
  else spInv

/-! ### Alignment groups (R73) -/

/-- A group sum: g, the weight l of its bit 0, and gsticky. -/
structure GroupSum where
  g : Int
  l : Int
  sticky : Bool
deriving DecidableEq, Repr

/-- The larger of an optional top and a product's. -/
def groupTop (top : Option Int) (p : Prod1) : Option Int :=
  let y := p.t + bitlen p.m
  match top with
  | none => some y
  | some x => some (max x y)

/-- The aligned magnitude of a product under a window whose bit 0 weighs 2^l, and whether bits fell below it. -/
def alignTo (l : Int) (p : Prod1) : Nat × Bool :=
  if l ≤ p.t then (p.m * 2 ^ (p.t - l).toNat, false)
  else
    let d := (l - p.t).toNat
    (p.m / 2 ^ d, p.m % 2 ^ d != 0)

/-- The sum of one alignment group; `none` when no finite product is non-zero. -/
def groupSum (ps : List Prod1) : Option GroupSum :=
  let ps := ps.filter fun p => p.m != 0
  match ps.foldl groupTop none with
  | none => none
  | some top =>
    let l := top - 58
    some (ps.foldl (fun (acc : GroupSum) p =>
      let (a, st) := alignTo l p
      { acc with g := if p.s then acc.g - a else acc.g + a, sticky := acc.sticky || st })
      { g := 0, l := l, sticky := false })

/-! ### The wide accumulator (R74, R75) -/

/-- SIG mod 7, 0-6 (Table 3.5). -/
def residue7 (x : Int) : BitVec 3 := BitVec.ofNat 3 (x % 7).toNat

/-- The fewest positions by which `r` must shift right to fit 96 bits. -/
def fitShift (r : Int) : Nat := if 0 ≤ r then bitlen r.toNat - 95 else bitlen (r.natAbs - 1) - 95

/-- Adds a group sum into an element (R75); RESIDUE is the residue of the new SIG (R85). -/
def Acc.add (e : Acc) (g : GroupSum) : Acc :=
  let base := min e.exp.toInt g.l
  let r : Int := e.sig.toInt * (2 ^ (e.exp.toInt - base).toNat : Nat) + g.g * (2 ^ (g.l - base).toNat : Nat)
  let d := fitShift r
  let sig := r / (2 ^ d : Nat)
  { e with
    sig := BitVec.ofInt 96 sig
    exp := BitVec.ofInt 14 (base + d)
    sticky := e.sticky || r % (2 ^ d : Nat) != 0 || g.sticky
    residue := residue7 sig }

/-- One step of one element (R71-R75, R80): the special states of its products, reported in pass 0 only, then the group sum. -/
def Acc.update (e : Acc) (md p : Nat) (as bs : List Opd) : Acc :=
  let ab := as.zip bs
  let e := if p = 0 then { e with special := ab.foldl (fun x y => mergeSpecial x (productClass y.1 y.2)) e.special } else e
  let ps := (ab.filter fun y => y.1.cls = .finite && y.2.cls = .finite).map fun y => product md p y.1 y.2
  match groupSum ps with
  | none => e
  | some g => e.add g

/-- Whether the stored codes of an element pass their checks (R77, R79, R86). -/
def Acc.sound (e : Acc) : Bool :=
  e.residue = residue7 e.sig.toInt && !(e.special = 4#3 || e.special = 5#3 || e.special = 6#3)

/-! ### Images (Table 3.5, R106) -/

def Acc.image (e : Acc) : BitVec 128 :=
  0#11 ++ e.special ++ e.residue ++ BitVec.ofBool e.sticky ++ e.exp ++ e.sig

def accOfImage (x : BitVec 128) : Acc :=
  { sig := x.extractLsb' 0 96, exp := x.extractLsb' 96 14, sticky := x.getLsbD 110, residue := x.extractLsb' 111 3,
    special := x.extractLsb' 114 3 }

/-- Whether an image's reserved field is not zero. -/
def imageReserved (x : BitVec 128) : Bool := x.extractLsb' 117 11 != 0#11

/-! ### Rounding at drain (R76, R77, R81) -/

/-- The targets of MX.DRN (R76). -/
def drainTarget (f : FmtCode) : Bool :=
  f = Fmt.binary64 || f = Fmt.binary32 || f = Fmt.binary16 || f = Fmt.k18 || f = Fmt.k9f || f = Fmt.k9i ||
    f = Fmt.s32 || f = Fmt.s64

/-- Whether a float encoding is zero or below the smallest normal magnitude. -/
def belowNormal (f : FmtCode) (x : Nat) : Bool :=
  match f.fl? with
  | some fl => nbits x fl.mb fl.eb = 0
  | none => false

/-- What an element drains as (R77, R81). -/
def Acc.drain (e : Acc) (f : FmtCode) (r : Rnd) (om : Bool) : Coded :=
  if e.special = spPinf then encodeFmt f r om (.inf false)
  else if e.special = spNinf then encodeFmt f r om (.inf true)
  else if e.special != spNone then
    let c := encodeFmt f r om .dnan
    { c with flags := c.flags ||| Flags.invalid ||| Flags.when (e.special = spInvP) Flags.poisonIn }
  else
    let v := 4 * e.sig.toInt + (if e.sticky then 1 else 0)
    if v = 0 then ⟨0, false, Flags.none⟩
    else
      let c := encodeFmt f r om (ofInt v (e.exp.toInt - 2) false)
      { c with flags := c.flags ||| Flags.when e.sticky Flags.inexact |||
                Flags.when (e.sticky && belowNormal f c.bits) Flags.underflow }

end Sys2Proof.Machine
end

