-- ==== Sys2Proof/Machine/Report.lean ====
section
/-! DEFINITION. Reporting (R459-R466): sent frames, the event stream, alarms, the log, the trace rings, storm periods. -/

namespace Sys2Proof.Machine

/-- Ticks of one second (R7). -/
def second : Nat := 15625000

/-- Ticks since tide value `t`. -/
def State.since (s : State) (t : Word) : Nat := (s.tide - t).toNat

/-- Whether `us` microseconds have passed since tide `t`. -/
def State.passedUs (s : State) (t : Word) (us : Nat) : Bool := us * 1000 ≤ s.since t * 64

def State.updRep (s : State) (f : Report → Report) : State := { s with rep := f s.rep }

/-- An entry from its words; missing words are zero. -/
def entry (ws : List Word) : Entry := Vector.ofFn fun i => ws.getD i.val 0#64

/-! ### Storms and traces -/

/-- Notes a loss at this tide, opening a storm period at the first one (R466). -/
def State.noteLoss (s : State) (f : Storm → Storm) : State :=
  s.updRep fun r =>
    let st := if r.storm.opened then r.storm else { r.storm with opened := true, fromTide := s.tide }
    { r with storm := f { st with lastLoss := s.tide } }

/-- Entries of each trace ring (Table 15.8). -/
def ringSize (r : Nat) : Nat :=
  if r = 2 then 16384 else if r = 3 || r = 5 then 4096 else 8192

/-- Writes an entry to trace ring `r` (R465); a full ring overwrites its oldest entry. -/
def State.trace (s : State) (r : Fin 7) (source code : BitVec 16) (d2 d3 : Word) : State :=
  let g := s.rep.traces.get r
  let full := ringSize r.val ≤ g.entries.length
  let w1 : Word := (source.setWidth 64 <<< 16) ||| code.setWidth 64
  let es := if full then g.entries.tail else g.entries
  let g' : Ring :=
    { entries := es ++ [(g.next, s.tide, w1, d2, d3)], next := g.next + 1, lost := if full then g.lost + 1 else g.lost }
  let s := s.updRep fun x => { x with traces := x.traces.set r g' }
  if full then s.noteLoss fun st => { st with overwrites := st.overwrites + 1, rings := st.rings ||| (1#7 <<< r.val) } else s

/-! ### Frames and events -/

/-- Sends an HMP frame (Table 11.1), traced in ring 0. -/
def State.sendFrame (s : State) (dest : Option HostAddr) (type : BitVec 8) (queue : BitVec 4) (seq ack : BitVec 32)
    (es : List Entry) : State :=
  let f : OutFrame := { dest := dest, type := type, queue := queue, seq := seq, ack := ack, tide := s.tide, entries := es }
  let s := s.updHb fun h => { h with sent := h.sent ++ [f] }
  s.trace 0 (queue.setWidth 16) (type.setWidth 16) (seq.setWidth 64) (ack.setWidth 64)

/-- Where completions and events go (R326, R507): a CMD's source only while no HELLO has been accepted since reset. -/
def State.hostDest (s : State) : Option HostAddr := if s.hb.greeted then s.hb.hello else s.hb.lastCmd

/-- An entry as it is first sent (R330). -/
def State.fresh (s : State) (n : BitVec 32) (e : Entry) : Unacked := { seq := n, entry := e, sentAt := s.tide, interval := 50 }

/-- Numbers and entries of what is not acknowledged. -/
def owedOf (xs : List Unacked) : List (BitVec 32 × Entry) := xs.map fun u => (u.seq, u.entry)

def Queue.owed (x : Queue) : List (BitVec 32 × Entry) := owedOf x.unacked

def Events.owed (x : Events) : List (BitVec 32 × Entry) := owedOf x.unacked

/-- The type byte of an event entry (R336). -/
def Entry.kind (e : Entry) : Nat := fld e[0] 7 0

/-- The reserve that an event type draws on, and its size (R459). -/
def reserveOf (k : Nat) : Nat × Nat :=
  if k = 1 then (0, 512) else if k = 2 || k = 3 then (1, 256) else if k = 4 then (2, 128) else (3, 128)

/-- Whether the reserve of event type `k` has room. -/
def Events.room (e : Events) (k : Nat) : Bool :=
  decide ((e.unacked.filter fun x => (reserveOf x.entry.kind).1 == (reserveOf k).1).length < (reserveOf k).2)

/-- Whether an entry of the same reserve waits already. -/
def Events.queued (e : Events) (k : Nat) : Bool :=
  e.waiting.any fun x => (reserveOf x.kind).1 == (reserveOf k).1

/-- The identity of an ALARM entry: code and source (Table 15.5). -/
def Entry.alarmId (e : Entry) : BitVec 16 × BitVec 16 := (e[3].extractLsb' 32 16, e[3].extractLsb' 48 16)

/-- The ALARM entry of an identity as it stands (Table 15.5). -/
def Alarm.entry (a : Alarm) : Entry :=
  Machine.entry
    [4#64, a.firstTide, a.lastTide,
      (a.source.setWidth 64 <<< 48) ||| (a.code.setWidth 64 <<< 32) ||| a.count.setWidth 64,
      a.firstDetail, a.lastDetail, a.seq.setWidth 64]

/-- A waiting alarm is held in coalesced form, and a retirement request in the per-frame table: the entry of the one, and the other's count
of further errors (R286), are made when it is posted (R459). -/
def Report.refresh (r : Report) (e : Entry) : Entry :=
  if e.kind = 4 then
    match r.alarms.find? fun a => (a.code, a.source) == e.alarmId with
    | some a => a.entry
    | none => e
  else if e.kind = 2 then e.set 4 (BitVec.ofNat 64 (mapGet 0 e[1].toNat r.retirement))
  else e

/-- Posts an event entry with the next sequence number. -/
def State.emitEvent (s : State) (e : Entry) : State :=
  let e := s.rep.refresh e
  let n := s.hb.events.next
  let s := s.updHb fun h => { h with events := { h.events with next := n + 1#32, unacked := h.events.unacked ++ [s.fresh n e] } }
  let s :=
    if e.kind = 4 then
      s.updRep fun r =>
        { r with alarms := r.alarms.map fun a =>
            if (a.code, a.source) = e.alarmId then { a with entrySeq := some n, acked := false, pendingRepeat := false } else a }
    else s
  s.sendFrame s.hostDest 4#8 0xf#4 n 0#32 [e]

/-- Raises an event: posted when its reserve has room, and otherwise it waits in order (R459, R336). -/
def State.postEvent (s : State) (e : Entry) : State :=
  if s.hb.events.room e.kind && !s.hb.events.queued e.kind then s.emitEvent e
  else
    (s.updHb fun h => { h with events := { h.events with waiting := h.events.waiting ++ [e] } }).noteLoss id

/-- Posts waiting events whose reserves have room, in order within each kind; `fuel` bounds the passes. -/
def State.drainEvents : Nat → State → State
  | 0, s => s
  | n + 1, s =>
    match s.hb.events.waiting.find? fun e => s.hb.events.room e.kind with
    | none => s
    | some e =>
      let s := s.updHb fun h => { h with events := { h.events with waiting := h.events.waiting.erase e } }
      State.drainEvents n (s.emitEvent e)

/-! ### The log -/

/-- Logs a record (R464): a full log drops the least important class present, and drops are counted. -/
def State.log (s : State) (cls : BitVec 8) (code source : BitVec 16) (ctx : Nat) (data : List Word) : State :=
  let r := s.rep
  let x : LogRec := { seq := r.logNext, tide := s.tide, cls := cls, code := code, source := source, ctx := ctx, data := data }
  let worst : BitVec 8 := r.log.foldl (fun a y => if y.cls > a then y.cls else a) cls
  let full := decide (65536 ≤ r.log.length)
  let kept :=
    if !full then r.log ++ [x]
    else if worst = cls then r.log
    else (r.log.eraseP fun y => y.cls = worst) ++ [x]
  let bump (v : Vector Nat 4) : Vector Nat 4 :=
    let i : Fin 4 := Fin.ofNat 4 worst.toNat
    v.set i (v.get i + 1)
  let serious := cls = 0#8 || cls = 1#8
  let s := s.updRep fun r =>
    { r with
      log := kept
      logNext := r.logNext + 1
      drops := if full then bump r.drops else r.drops
      noticeFirst := if serious then r.noticeFirst <|> some r.logNext else r.noticeFirst
      noticeCrit := if cls = 0#8 then r.noticeCrit + 1 else r.noticeCrit
      noticeErr := if cls = 1#8 then r.noticeErr + 1 else r.noticeErr }
  if full then s.noteLoss fun st => { st with drops := bump st.drops } else s

/-! ### Alarms -/

/-- Alarm codes of Table 15.6. -/
def alarmOverflow : BitVec 16 := 0x0000#16
def alarmJunction : BitVec 16 := 0x0001#16
def alarmStack : BitVec 16 := 0x0002#16
def alarmProfile : BitVec 16 := 0x0003#16
def alarmCap : BitVec 16 := 0x0004#16
def alarmQuarantine : BitVec 16 := 0x0005#16
def alarmWithdrawn : BitVec 16 := 0x0006#16
def alarmAgeing : BitVec 16 := 0x0007#16
def alarmMemory : BitVec 16 := 0x0008#16
def alarmCross : BitVec 16 := 0x0009#16
def alarmStrait : BitVec 16 := 0x000a#16
def alarmMid : BitVec 16 := 0x000b#16
def alarmLimiter : BitVec 16 := 0x000c#16
def alarmLighthouse : BitVec 16 := 0x000d#16
def alarmDiscard : BitVec 16 := 0x000e#16

/-- Log class of an alarm raise. -/
def alarmClass (code : BitVec 16) : BitVec 8 :=
  if code = alarmJunction || code = alarmStack || code = alarmLimiter || code = alarmLighthouse then 0#8 else 1#8

/-- Brings the sideband's record of an alarm identity up to date (R510): one record for each identity, 64 records and ALARM_OVERFLOW. -/
def Report.toSideband (r : Report) (code source : BitVec 16) (count : BitVec 32) (detail : Word) : Report :=
  let x : SideRec := { code := code, source := source, count := count, detail := detail }
  if r.sideband.any fun y => y.code = code && y.source = source then
    { r with sideband := r.sideband.map fun y => if y.code = code && y.source = source then x else y }
  else if r.sideband.length < 64 || code = 0#16 then { r with sideband := r.sideband ++ [x] }
  else
    let packed : Word := ((detail.extractLsb' 0 48).setWidth 64 <<< 16) ||| code.setWidth 64
    if r.sideband.any fun y => y.code = 0#16 then
      { r with sideband := r.sideband.map fun y => if y.code = 0#16 then { y with count := satInc y.count, detail := packed } else y }
    else { r with sideband := r.sideband ++ [{ code := 0#16, source := 0#16, count := 1#32, detail := packed }] }

/-- Raises an identity in the table (R460): the first raise opens and posts it; a repeat updates it, and posts a follow-up
at once when its latest entry is acknowledged. `pack` is the detail as the table keeps it. -/
def State.raiseIdentity (s : State) (code source : BitVec 16) (detail : Word) : State :=
  match s.rep.alarms.find? fun a => a.code = code && a.source = source with
  | none =>
    let a : Alarm :=
      { code := code, source := source, count := 1#32, firstTide := s.tide, lastTide := s.tide, firstDetail := detail,
        lastDetail := detail, seq := 1#32, entrySeq := none, acked := false, pendingRepeat := false }
    (s.updRep fun r => ({ r with alarms := r.alarms ++ [a] }).toSideband code source 1#32 detail).postEvent a.entry
  | some a =>
    let a' : Alarm :=
      { a with count := satInc a.count, lastTide := s.tide, lastDetail := detail,
               seq := if a.acked then a.seq + 1#32 else a.seq,
               acked := false, entrySeq := if a.acked then none else a.entrySeq,
               pendingRepeat := !a.acked && a.entrySeq.isSome }
    let s := s.updRep fun r =>
      let as_ : List Alarm := r.alarms.map fun b => if b.code = code && b.source = source then a' else b
      { r with alarms := as_ }.toSideband code source a'.count detail
    if a.acked then s.postEvent a'.entry else s.noteLoss fun st => { st with coalesced := st.coalesced + 1 }

/-- Raises an alarm (R460, R461), and logs the raise (R464). -/
def State.alarm (s : State) (code source : BitVec 16) (detail : Word) : State :=
  let s := s.log (alarmClass code) code source 0 [detail]
  let opened := s.rep.alarms.any fun a => a.code = code && a.source = source
  let others := (s.rep.alarms.filter fun a => a.code != alarmOverflow).length
  if opened || others < 128 then s.raiseIdentity code source detail
  else
    let packed : Word := ((detail.extractLsb' 0 48).setWidth 64 <<< 16) ||| code.setWidth 64
    (s.raiseIdentity alarmOverflow 0#16 packed).noteLoss fun st => { st with overflowed := st.overflowed + 1 }

/-- Whether sequence number `a` is below `b`, modulo 2^32 with a window of 2^31 (R328). -/
def seqLt (a b : BitVec 32) : Bool := a != b && (b - a).toNat < 2 ^ 31

/-- The host acknowledges every event below `ack` (R330, R460): acknowledged alarms with repeats post follow-ups, then
waiting events are posted. -/
def State.ackEvents (s : State) (ack : BitVec 32) : State :=
  if seqLt s.hb.events.next ack then s
  else
    let s := s.updHb fun h => { h with events := { h.events with unacked := h.events.unacked.filter fun x => !seqLt x.seq ack } }
    let due (a : Alarm) : Bool :=
      match a.entrySeq with
      | some n => !a.acked && seqLt n ack
      | none => false
    let follow := s.rep.alarms.filter fun a => due a && a.pendingRepeat
    let mark (a : Alarm) : Alarm :=
      if due a then
        if a.pendingRepeat then { a with seq := a.seq + 1#32, entrySeq := none, pendingRepeat := false }
        else { a with acked := true }
      else a
    let s := s.updRep fun r => { r with alarms := r.alarms.map mark }
    let s := follow.foldl (fun s a => s.postEvent (mark a).entry) s
    State.drainEvents 1024 s

end Sys2Proof.Machine
end

