-- ==== Sys2Proof/Machine/Launch.lean ====
section
/-! DEFINITION. What fails a launch (R23, R340, R453, R454), what starts a coast-down (R416), and cells that wait for a
side flit (R400). -/

namespace Sys2Proof.Machine

/-- The top level of a launch (R391): 0 device, 1 Sound, 2 Channel, 3 Reach. -/
def topLevel (h : ImageHeader) : Nat :=
  if 1 < h.shapeReach then 3 else if 1 < h.shapeChannel then 2 else if 1 < h.shapeSound then 1 else 0

/-- Table 13.3. -/
def skewBound (lv : Nat) : Nat := if lv = 3 then 4 else if lv = 2 then 2 else if lv = 1 then 1 else 0
def propBound (lv : Nat) : Nat := if lv = 3 then 128 else if lv = 2 then 32 else if lv = 1 then 8 else 0
def drainBound (lv : Nat) : Nat := if lv = 3 then 64 else if lv = 2 then 24 else if lv = 1 then 8 else 0
def voteWindow (lv : Nat) : Nat := if lv = 3 then 512 else if lv = 2 then 64 else if lv = 1 then 16 else 2
def minLead (lv : Nat) : Nat := max 256 (2 * propBound lv + 64)

/-- Ranks of a shape: its members (R401). -/
def shapeRanks (h : ImageHeader) : Nat := max 1 h.shapeSound * max 1 h.shapeChannel * max 1 h.shapeReach

/-- Cell kinds (Table 13.9). -/
def cellStart : BitVec 8 := 1#8
def cellStartAt : BitVec 8 := 2#8
def cellVote : BitVec 8 := 3#8
def cellOutcome : BitVec 8 := 4#8
def cellCoast : BitVec 8 := 5#8
def cellReplay : BitVec 8 := 6#8
def cellRoot : BitVec 8 := 7#8
def cellHarbour : BitVec 8 := 8#8

/-- The image of a launch, held with its graph. -/
def State.image (s : State) (l : Launch) : Option ImageHeader := (s.graph l.slot).map Graph.img

/-- Ports that a launch's runs or its VOTE_PORT use (R400). -/
def launchPorts (h : ImageHeader) : List PortId :=
  (List.finRange 12).filter fun p =>
    h.votePort.toNat == p.val || h.runs.any fun r => r.port.toNat == p.val || (r.kind == 3#4 && r.oport.toNat == p.val)

/-- Puts a cell in a port's queue, in arrival order (R400); its place by priority is taken when a side flit is made. -/
def State.queueCell (s : State) (p : PortId) (x : Cell) : State :=
  s.updPort p fun t => { t with cells := t.cells ++ [x] }

def cellId (x : Cell) : BitVec 8 × BitVec 10 × Word × BitVec 32 := (x.kind, x.origin, x.key, x.tick)

/-- Marks a cell as acted on (R400). -/
def State.sawCell (s : State) (x : Cell) : State :=
  { s with strait := { s.strait with seen := addOnce (cellId x) s.strait.seen } }

/-- Floods a cell on a launch's ports, except the one it came by (R400). -/
def State.flood (s : State) (h : ImageHeader) (except_ : Option PortId) (x : Cell) : State :=
  (launchPorts h).foldl (fun s p => if some p = except_ then s else s.queueCell p x) (s.sawCell x)

def mkCell (kind : BitVec 8) (key : Word) (tick : Word) (origin : Nat) (body : BitVec 128) : Cell :=
  { body := body, key := key, tick := tick.setWidth 32, origin := BitVec.ofNat 10 origin, hops := 0#4, rsv := 0#10,
    kind := kind }

/-- Takes a stop for a launch: the smallest tc received counts (R417). -/
def Launch.takeStop (l : Launch) (x : Stop) : Launch :=
  match l.stop with
  | some y => if x.tc < y.tc then { l with stop := some x } else l
  | none => { l with stop := some x }

/-- Starts a coast-down of launch `k` with a reason of Table 13.9 (R416): tc is this tick plus F. A launch whose top level
is the device holds no Strait slots and does not coast. -/
def State.startCoast (s : State) (k : Nat) (reason : BitVec 8) : State :=
  match s.launch k with
  | none => s
  | some l =>
    match s.image l with
    | none => s
    | some h =>
      if topLevel h = 0 || l.stop.isSome then s
      else
        let tc := s.tide + word (propBound (topLevel h))
        let x := mkCell cellCoast l.key tc h.rank (reason.setWidth 128)
        let y : Stop := { tc := tc, reason := reason, origin := BitVec.ofNat 10 h.rank }
        (s.setLaunch k { l.takeStop y with ownStop := some y }).flood h none x

/-- RESULT1 of a failed launch (R453). -/
def failWord (cls : BitVec 8) (detail : BitVec 56) : Word := (cls.setWidth 64 <<< 56) ||| detail.setWidth 64

/-- Lines of a window (Table 9.6). -/
def Window.lines (w : Window) : Nat := fld w.cfg 17 0

/-- Closes a window with reason ABORTED, discarding what is staged (R265). -/
def Window.abort (w : Window) : Window :=
  { w with opened := false, err := true, reason := 9#8, staged := [], next := [], vals := [], spoiled := false }

/-- `n` free bytes. -/
def freeBytes (free n : Nat) : List Byte := leBytes n (Config.freeNat free)

/-- Leaves the lines of a window undefined (R263, R265). -/
def State.scrambleWindow (s : State) (w : Window) : State :=
  let (k, s) := s.takeFree
  { s with mem := writeBytes s.mem w.dpa (freeBytes k (128 * w.lines)) }

/-- Aborts the open windows that `p` selects: their lines are undefined (R265). -/
def State.abortWhere (s : State) (p : IsleId → Nat → Window → Bool) : State :=
  let open_ := (List.finRange 8).flatMap fun i => (s.isle i).windows.filterMap fun w =>
    if w.2.opened && p i w.1 w.2 then some w.2 else none
  let s := open_.foldl State.scrambleWindow s
  (List.finRange 8).foldl (fun s i => s.updIsle i fun x =>
    { x with windows := x.windows.map fun w => if w.2.opened && p i w.1 w.2 then (w.1, w.2.abort) else w }) s

/-- Aborts every open window that launch `k` armed (R265). -/
def State.abortWindows (s : State) (k : Nat) : State := s.abortWhere fun _ _ w => w.launch = some k

/-- Records a failure of launch `k` (R454): the first one is carried; of failures in one tick the lowest class is. The failure
is logged, the launch's windows are aborted, and a coast-down starts where the launch holds Strait slots (R416). -/
def State.failLaunch (s : State) (k : Nat) (cls : BitVec 8) (detail : BitVec 56) (coast : Bool := true) : State :=
  match s.launch k with
  | none => s
  | some l =>
    let x : Failure := { result := failWord cls detail, tide := s.tide }
    let f :=
      match l.failure with
      | none => x
      | some y => if y.tide = s.tide && cls.toNat < fld y.result 63 56 then x else y
    let s := s.setLaunch k { l with failure := some f }
    let s := s.log 1#8 0x1000#16 (BitVec.ofNat 16 l.queue) l.ctx [l.id, failWord cls detail]
    let s := s.abortWindows k
    if coast then s.startCoast k 1#8 else s

/-- Fails the launch that core `c` works for, if any. -/
def State.failCore (s : State) (c : Nat) (cls : BitVec 8) (detail : BitVec 56) : State :=
  match s.launchOfCore c with
  | some (k, _) => s.failLaunch k cls detail
  | none => s

/-- Failure classes (Table 15.3). -/
def clsCore : BitVec 8 := 1#8
def clsCheck : BitVec 8 := 2#8
def clsMemory : BitVec 8 := 3#8
def clsCross : BitVec 8 := 4#8
def clsTranslation : BitVec 8 := 5#8
def clsTask : BitVec 8 := 6#8
def clsStrait : BitVec 8 := 7#8
def clsPower : BitVec 8 := 8#8
def clsContext : BitVec 8 := 9#8
def clsSetup : BitVec 8 := 10#8
def clsSafety : BitVec 8 := 11#8

/-- Counts `n` residue retries against the launch that core `c` works for (R29, Table 11.3). -/
def State.countRetries (s : State) (c : CoreId) (n : Nat) : State :=
  match s.launchOfCore c.val with
  | some (k, l) => if n = 0 then s else s.setLaunch k { l with timing := { l.timing with retries := l.timing.retries + n } }
  | none => s

/-- A detail word from fields (value, low bit). -/
def detail (xs : List (Nat × Nat)) : BitVec 56 := BitVec.ofNat 56 (xs.foldl (fun a x => a + x.1 * 2 ^ x.2) 0)

end Sys2Proof.Machine
end

