-- ==== Sys2Proof/Machine/Memory.lean ====
section
/-! DEFINITION. Device memory: the map (R291), the table walk (R292-R294), the access checks (R295), frame tags (R297),
uncorrectable blocks (R283), retirement requests (R286), fault records (R304-R309). -/

namespace Sys2Proof.Machine

/-! ### The physical map (Table 10.1) -/

def midBase : Nat := 0x10000000000
def deepBase : Nat := 0x20000000000
def dpaEnd : Nat := 0x40000000000

/-- Tier of a DPA, coded as in the MEMORY class (Table 15.3): 1 Near, 2 Mid, 3 Deep; 0 beyond the map. -/
def tierOf (dpa : Nat) : Nat := if dpa < midBase then 1 else if dpa < deepBase then 2 else if dpa < dpaEnd then 3 else 0

/-- Whether Deep rejects a write of `n` bytes at a DPA: not in whole, aligned 4 KiB units, or Deep takes no writes (R275, R279). -/
def State.deepRejects (s : State) (dpa n : Nat) : Bool := tierOf dpa = 3 && (dpa % 4096 != 0 || n % 4096 != 0 || s.deep.readOnly)

/-- Isle of a Near or Mid DPA: DPA[39:37]. -/
def isleOfDpa (dpa : Nat) : Nat := nbits dpa 37 3

def nearOrMid (dpa : Nat) : Bool := decide (dpa < deepBase)

/-- Frame number of a DPA. -/
def frameOf (dpa : Nat) : Nat := dpa / 65536

/-- The Near stack of a DPA within its isle (R270). -/
def stackOf (dpa : Nat) : Nat := (nbits dpa 8 6 ^^^ nbits dpa 14 6) / 32

/-- The Deep channel that a DPA is reported under (log 20: the manual does not give the interleave). -/
def channelOf (dpa : Nat) : Nat := dpa / 4096 % 48

/-- The memory SOURCE of an alarm (Table 15.5). -/
def memSource (dpa : Nat) : BitVec 16 :=
  let t := tierOf dpa
  BitVec.ofNat 16 (t * 4096 + (if t = 1 then 2 * isleOfDpa dpa + stackOf dpa else if t = 2 then isleOfDpa dpa else channelOf dpa))

/-! ### The walk (R294) -/

/-- The end of the translatable space (R290). -/
def vaTop : Nat := 0x00f0000000000000

/-- Reasons of R304, with their codes of Table 10.6. -/
def rsnNotPresent : Nat := 1
def rsnPermission : Nat := 2
def rsnMalformed : Nat := 3

/-- What a translation gives: the DPA and its leaf; a fault's reason and whether the faulting entry has RP; or the place of a table entry
that cannot be read (R283). -/
inductive Xlate where
  | ok (dpa : Nat) (leaf : Word)
  | fault (reason : Nat) (rp : Bool)
  | bad (dpa : Nat)
deriving DecidableEq, Repr

/-- Low bit and width of the index at level `lv` (Table 10.2). -/
def levelShift (lv : Nat) : Nat := [48, 39, 30, 21, 16].getD lv 16
def levelWidth (lv : Nat) : Nat := [8, 9, 9, 9, 5].getD lv 5
def tableSize (lv : Nat) : Nat := 8 * 2 ^ levelWidth lv
def levelIndex (va lv : Nat) : Nat := nbits va (levelShift lv) (levelWidth lv)

/-- Bytes of a page whose leaf lies at level `lv`. -/
def pageSize (lv : Nat) : Nat := if lv = 2 then 2 ^ 30 else if lv = 3 then 2 ^ 21 else 2 ^ 16

def leafV (x : Word) : Bool := x.getLsbD 0
def leafLeaf (x : Word) : Bool := x.getLsbD 1
def leafR (x : Word) : Bool := x.getLsbD 4
def leafW (x : Word) : Bool := x.getLsbD 5
def leafWlevel (x : Word) : BitVec 2 := x.extractLsb' 6 2
def leafC (x : Word) : Bool := x.getLsbD 8
def leafRp (x : Word) : Bool := x.getLsbD 9
def leafFrame (x : Word) : Nat := fld x 41 16

/-- Reserved bits of a present entry (Tables 10.3, 10.4). Bit 9 of a table entry belongs to NEXT (log 21). -/
def entryReserved (x : Word) : Bool :=
  if leafLeaf x then x &&& 0xfffffc000000fc0c#64 != 0#64 else x &&& 0xfffffc00000000fc#64 != 0#64

/-- Whether some 64-byte block of a range is marked uncorrectable (R283). -/
def State.marked (s : State) (dpa n : Nat) : Bool :=
  s.marks.any fun b => b * 64 < dpa + n && dpa < b * 64 + 64

/-- Marks the 64-byte block of `dpa`. -/
def State.mark (s : State) (dpa : Nat) : State := { s with marks := addOnce (dpa / 64) s.marks }

/-- Whether a DPA lies in the Mid memory of an isle whose link is down (R271). -/
def State.midOffline (s : State) (dpa : Nat) : Bool :=
  tierOf dpa = 2 && (s.isle (Fin.ofNat 8 (isleOfDpa dpa))).mid.lanes = 0#16

/-- Whether a range meets a Deep page that could not be rebuilt (R277, R283). -/
def State.pageLost (s : State) (dpa n : Nat) : Bool :=
  s.deep.lost.any fun p => deepBase + p * 4096 < dpa + n && dpa < deepBase + p * 4096 + 4096

/-- Whether a read of a range meets an uncorrectable error (R271, R277, R283). -/
def State.unreadable (s : State) (dpa n : Nat) : Bool := s.marked dpa n || s.midOffline dpa || s.pageLost dpa n

/-- Whether a frame's tag is not zero: a context's, or retired (R294, R296). -/
def State.tagged (s : State) (dpa : Nat) : Bool :=
  let t := s.frameTag (frameOf dpa)
  t.ctx != 0 || t.retired

/-- Walks from level `lv` with table `t`; `fuel` counts the levels left. -/
def walkFrom (s : State) (va : Nat) : Nat → Nat → Nat → Xlate
  | 0, _, _ => .fault rsnMalformed false
  | fuel + 1, lv, t =>
    let a := t + 8 * levelIndex va lv
    let x := readWord s.mem a
    if s.unreadable a 8 then .bad a
    else if !leafV x then .fault rsnNotPresent (leafRp x)
    else if entryReserved x then .fault rsnMalformed false
    else if leafLeaf x then
      if lv < 2 || leafWlevel x = 3#2 then .fault rsnMalformed false
      else
        let sz := pageSize lv
        if leafFrame x * 65536 % sz != 0 then .fault rsnMalformed false
        else .ok (leafFrame x * 65536 + va % sz) x
    else if lv = 4 then .fault rsnMalformed false
    else
      let t' := fld x 41 8 * 256
      if t' % tableSize (lv + 1) != 0 || !nearOrMid t' || s.tagged t' then .fault rsnMalformed false
      else walkFrom s va fuel (lv + 1) t'

/-- Walks `va` in context `ctx`. A context that is not open has no tables: nothing is present (log 22). A root table in a retired frame is
refused as any table there is (log 201). -/
def State.walk (s : State) (ctx va : Nat) : Xlate :=
  match s.ctx ctx with
  | none => .fault rsnNotPresent false
  | some x =>
    if vaTop ≤ va then .fault rsnNotPresent false
    else if s.tagged (x.poolFirst * 65536) then .fault rsnMalformed false
    else walkFrom s va 5 0 (x.poolFirst * 65536)

/-- Kinds of access (R295). -/
inductive Access where
  | read
  | write
  | amo
deriving DecidableEq, Repr

/-- The checks of R295 on a leaf. `deepWrite` allows a write to Deep (ferries and Harbour, R275). -/
def accessOk (k : Access) (level : BitVec 2) (deepWrite : Bool) (dpa : Nat) (leaf : Word) : Bool :=
  let r := leafR leaf
  let w := leafW leaf && leafWlevel leaf ≤ level && (deepWrite || nearOrMid dpa)
  match k with
  | .read => r
  | .write => w
  | .amo => r && w

/-- Translates an access with the checks of R295. -/
def State.translate (s : State) (ctx va : Nat) (k : Access) (level : BitVec 2) (deepWrite : Bool := false) : Xlate :=
  match s.walk ctx va with
  | .ok dpa leaf => if accessOk k level deepWrite dpa leaf then .ok dpa leaf else .fault rsnPermission false
  | x => x

/-! ### Frame tags and errors -/

/-- Whether an isle belongs to a partition. -/
def State.inPart (s : State) (p i : Nat) : Bool := s.hb.partition.get (Fin.ofNat 8 i) = p

/-- Whether a request of context `ctx` names a cove outside the context's partition (R21): the device rejects it. -/
def State.outsidePart (s : State) (ctx dpa : Nat) : Bool :=
  match s.ctx ctx with
  | some x => nearOrMid dpa && !s.inPart x.part (isleOfDpa dpa)
  | none => false

/-- Whether a request of context `ctx` is performed at `dpa`: the tag of the frame lets it pass (R297), and so does its partition (R21). -/
def State.tagOk (s : State) (ctx dpa : Nat) : Bool :=
  let t := s.frameTag (frameOf dpa)
  !t.retired && (ctx = 0 || t.ctx = ctx) && !s.outsidePart ctx dpa

/-- Detail of a refusal (Table 15.3). -/
def crossDetail (s : State) (ctx dpa : Nat) : BitVec 56 :=
  detail [(ctx % 4096, 44), ((s.frameTag (frameOf dpa)).ctx % 4096, 32), (frameOf dpa % 2 ^ 26, 0)]

/-- Records a refusal of R297: the CROSS_CONTEXT alarm. -/
def State.crossAlarm (s : State) (ctx dpa : Nat) : State :=
  let src : BitVec 16 := if nearOrMid dpa then BitVec.ofNat 16 (isleOfDpa dpa) else 8#16
  s.alarm alarmCross src ((crossDetail s ctx dpa).setWidth 64)

/-- Reasons of a retirement request (R286), numbered as log 23 says. -/
def rrSpares : Nat := 1
def rrUncorrectable : Nat := 2
def rrRebuild : Nat := 3

/-- Makes a retirement request for a frame, once (R286); later errors only count, in the table that the request's count is taken from. -/
def State.requestRetirement (s : State) (dpa reason : Nat) : State :=
  let fr := frameOf dpa
  match mapFind fr s.rep.retirement with
  | some n => s.updRep fun r => { r with retirement := mapSet fr (n + 1) r.retirement }
  | none =>
    (s.updRep fun r => { r with retirement := mapSet fr 0 r.retirement }).postEvent
      (entry [2#64, word fr, (memSource dpa).setWidth 64, word reason, 0#64])

/-- The memory SOURCE of a lagoon, and of a core's L1 and scratch ways (Table 15.5). -/
def lagoonSource (c : CoreId) : BitVec 16 := BitVec.ofNat 16 (5 * 4096 + c.val)
def l1Source (c : CoreId) : BitVec 16 := BitVec.ofNat 16 (6 * 4096 + c.val)

/-- An uncorrectable read of device memory (R283): the alarm and the retirement request. -/
def State.memAlarm (s : State) (dpa : Nat) : State :=
  (s.alarm alarmMemory (memSource dpa) (word dpa)).requestRetirement dpa rrUncorrectable

def memDetail (dpa : Nat) : BitVec 56 := detail [(tierOf dpa, 52), (dpa % 2 ^ 42, 0)]

/-- Whether a DPA range meets an open window. -/
def Window.meets (w : Window) (dpa n : Nat) : Bool := w.opened && w.dpa < dpa + n && dpa < w.dpa + 128 * w.lines

/-- Whether a DPA range meets a line of some open window. -/
def State.inOpenWindow (s : State) (dpa n : Nat) : Bool := s.isles.any fun x => x.windows.any fun w => w.2.meets dpa n

/-- Leaves open windows in a range undefined (R263). -/
def State.spoil (s : State) (dpa n : Nat) : State :=
  { s with isles := s.isles.map fun x =>
      { x with windows := x.windows.map fun w => if w.2.meets dpa n then (w.1, { w.2 with spoiled := true }) else w } }

/-! ### The coves (R247, R253-R256) -/

/-- The home slice of a line within its isle's cove (R254). -/
def coveSlice (dpa : Nat) : Nat := nbits dpa 7 4 ^^^ nbits dpa 11 4 ^^^ nbits dpa 15 4 ^^^ nbits dpa 19 4

/-- The number of a line's set within its cove: 16 slices of 2,048 sets. -/
def coveSetOf (line : Nat) : Nat := coveSlice (128 * line) * 2048 + Config.coveSet line % 2048

/-- touch(w) of R242 with one further level, over 16 ways (R254). -/
def touch16 (t : BitVec 15) (w : Nat) : BitVec 15 :=
  let put (t : BitVec 15) (i : Nat) (b : Bool) : BitVec 15 := if b then t ||| (1#15 <<< i) else t &&& ~~~(1#15 <<< i)
  put (put (put (put t 0 (w < 8)) (1 + w / 8) (w % 8 < 4)) (3 + w / 4) (w % 4 < 2)) (7 + w / 2) (w % 2 = 0)

/-- victim of R242 with one further level, over 16 ways that are all allocatable and hold a line. -/
def victim16 (t : BitVec 15) : Nat :=
  let go (w bit n : Nat) : Nat := if t.getLsbD bit then w + n else w
  let a := go 0 0 8
  let b := go a (1 + a / 8) 4
  let c := go b (3 + b / 4) 2
  go c (7 + c / 2) 1

def State.cove (s : State) (isle : Nat) : Cove := mapGet Cove.empty isle s.coves

/-- The way that a new line takes: of a set that holds two guest lines, a third guest takes one of theirs (R255); otherwise an empty way, or
the tree's victim. -/
def Cove.wayFor (x : Cove) (line : Nat) (guest : Bool) : Nat :=
  let set := coveSetOf line
  let mine := x.lines.filter fun y => coveSetOf y.1 = set
  let guests := mine.filter fun y => y.2.guest.isSome
  let tree := mapGet 0#15 set x.trees
  let first (a : Map CoveLine) (d : Nat) : Nat := ((a.head?.map fun y => y.2.way)).getD d
  if guest && 2 ≤ guests.length then first (guests.drop (Config.guestVictim line tree.toNat % 2)) 0
  else
    match (List.range 16).find? fun w => mine.all fun y => y.2.way != w with
    | some w => w
    | none => victim16 tree

/-- An access to a line in a cove: a hit keeps its way, a miss allocates one, a write makes the line modified (R254). -/
def Cove.touch (x : Cove) (write : Bool) (guest : Option Nat) (line : Nat) : Cove :=
  let set := coveSetOf line
  let old := mapFind line x.lines
  let w := match old with
    | some y => y.way
    | none => x.wayFor line guest.isSome
  let kept := x.lines.filter fun y => y.1 = line || y.2.way != w || coveSetOf y.1 != set
  let y : CoveLine := { way := w, modified := write || (old.map CoveLine.modified).getD false, guest := guest }
  { lines := mapSet line y kept, trees := mapSet set (touch16 (mapGet 0#15 set x.trees) w) x.trees }

/-- The lines that a range meets. -/
def linesOf (dpa n : Nat) : List Nat := (List.range ((dpa + n + 127) / 128 - dpa / 128)).map (dpa / 128 + ·)

/-- A request for a range passes the coves: Near and Mid through the home isle's, a read of Deep through the cove of the isle that requests
it, where there is one (R253, R255). -/
def State.throughCove (s : State) (isle : Option Nat) (dpa n : Nat) (write : Bool) : State :=
  let go (i : Nat) (guest : Option Nat) : State :=
    { s with coves := mapSet i ((linesOf dpa n).foldl (fun x l => x.touch write guest l) (s.cove i)) s.coves }
  if n = 0 then s
  else if nearOrMid dpa then go (isleOfDpa dpa) none
  else match isle with
    | some i => if write then s else go i (some (s.frameTag (frameOf dpa)).ctx)
    | none => s

/-- The coves without the lines of a range: guest copies that a write to Deep invalidates (R255), or lines of a released frame. -/
def State.dropLines (s : State) (dpa n : Nat) : State :=
  { s with coves := s.coves.map fun x =>
      (x.1, { x.2 with lines := x.2.lines.filter fun y => !(dpa < 128 * y.1 + 128 && 128 * y.1 < dpa + n) }) }

/-- The outcome of a read of device memory: bytes, a refusal (R297), an uncorrectable block (R283). -/
inductive DevRead where
  | ok (s : State) (bs : List Byte)
  | refused
  | bad
deriving DecidableEq, Repr

/-- Reads `n` bytes at a DPA for a request of context `ctx` from isle `isle`, if one makes it; the range lies in one frame. Bytes of an open
window are free (R263). -/
def State.devRead (s : State) (ctx dpa n : Nat) (isle : Option Nat := none) : DevRead :=
  if !s.tagOk ctx dpa then .refused
  else if s.unreadable dpa n then .bad
  else if s.inOpenWindow dpa n then
    let (k, s) := s.takeFree
    .ok ((s.spoil dpa n).throughCove isle dpa n false) (freeBytes k n)
  else .ok (s.throughCove isle dpa n false) (readBytes s.mem dpa n)

/-- The outcome of a write of device memory: done, a refusal, a partial write of a marked block (R283). -/
inductive DevWrite where
  | ok (s : State)
  | refused
  | bad
deriving DecidableEq, Repr

/-- Blocks that a range covers whole. -/
def coversBlock (dpa n b : Nat) : Bool := dpa ≤ b * 64 && b * 64 + 64 ≤ dpa + n

/-- Writes bytes at a DPA for a request of context `ctx`; the range lies in one frame. A write of a whole marked block clears
its mark; a write of part of one is discarded. A write to Deep, of whole pages, is counted (Table 9.12), makes them readable and invalidates
every guest copy of its lines first (R255). -/
def State.devWrite (s : State) (ctx dpa : Nat) (bs : List Byte) : DevWrite :=
  let n := bs.length
  if !s.tagOk ctx dpa then .refused
  else if (s.marks.any fun b => b * 64 < dpa + n && dpa < b * 64 + 64 && !coversBlock dpa n b) || s.midOffline dpa then .bad
  else
    let s := if s.inOpenWindow dpa n then s.spoil dpa n else s
    let s := if nearOrMid dpa then s.throughCove none dpa n true else s.dropLines dpa n
    .ok { s with
      mem := writeBytes s.mem dpa bs
      marks := s.marks.filter fun b => !coversBlock dpa n b
      deep := if nearOrMid dpa then s.deep else
        { s.deep with
          hostWritten := s.deep.hostWritten + n
          mediaWritten := s.deep.mediaWritten + n
          lost := s.deep.lost.filter fun p => !(dpa ≤ deepBase + p * 4096 && deepBase + p * 4096 + 4096 ≤ dpa + n) } }

/-! ### Fault records (R306-R309) -/

/-- The class of a launch's Strait accesses as a waiter; Table 10.6 gives them no bit of the mask (log 204). `core` is then the launch's record
number. -/
def clsStraitWaiter : Nat := 4

/-- The waiter mask (Table 10.6): bit 4 × isle + class. -/
def waiterMask (ws : List Waiter) : BitVec 32 :=
  ws.foldl (fun m w => if w.cls = clsStraitWaiter then m else m ||| (1#32 <<< (4 * (w.core / 150) + w.cls))) 0#32

/-- The event entry of a fault record (Tables 10.6, R336). -/
def faultEntry (r : FaultRec) (id state reason : Nat) : Entry :=
  let rd := r.waiters.any Waiter.read
  let wr := r.waiters.any Waiter.write
  let w0 := id + state * 2 ^ 32 + reason * 2 ^ 40 + (if rd then 2 ^ 48 else 0) + (if wr then 2 ^ 49 else 0) + r.ctx % 4096 * 2 ^ 52
  entry [1#64, word w0, ((waiterMask r.waiters).setWidth 64 <<< 32) ||| r.count.setWidth 64, word r.va, r.firstTide]

/-- Lowest record number that no WAITING record holds. -/
def State.freeRecord (s : State) : Option Nat := mapFree 256 s.hb.faults

/-- The FAULT_TIMEOUT of a context (R308, R370). -/
def State.faultTimeout (s : State) (ctx : Nat) : Nat :=
  match s.ctx ctx with
  | some x => x.faultTimeout
  | none => 10000

/-- Opens a WAITING record, with its context's FAULT_TIMEOUT as it stands now (R370), and posts it, or lets it wait for a number (R306). -/
def State.openRecord (s : State) (r : FaultRec) : State :=
  let r := { r with timeout := s.faultTimeout r.ctx }
  match s.freeRecord with
  | some id =>
    (s.updHb fun h => { h with faults := mapSet id r h.faults }).postEvent (faultEntry r id 1 rsnNotPresent)
  | none => s.updHb fun h => { h with faultsWaiting := h.faultsWaiting ++ [(r, false)] }

/-- Joins the record of the context and 64 KiB page, one that waits for a number among them, or opens one (R306). -/
def State.replayFault (s : State) (ctx va : Nat) (w : Waiter) : State :=
  let s := s.trace 5 (BitVec.ofNat 16 ctx) 1#16 (word va) (word w.core)
  let mine (r : FaultRec) : Bool := r.ctx == ctx && r.va / 65536 == va / 65536
  let join (r : FaultRec) : FaultRec := { r with count := satInc r.count, waiters := r.waiters ++ [w] }
  match s.hb.faults.find? fun x => mine x.2 with
  | some (id, r) => s.updHb fun h => { h with faults := mapSet id (join r) h.faults }
  | none =>
    if s.hb.faultsWaiting.any fun x => !x.2 && mine x.1 then
      s.updHb fun h => { h with faultsWaiting := h.faultsWaiting.map fun x => if !x.2 && mine x.1 then (join x.1, false) else x }
    else
      s.openRecord
        { firstTide := s.tide, va := va, ctx := ctx, timeout := s.faultTimeout ctx, count := 1#32, waiters := [w] }

/-- Whether a WAITING record already counts a waiter on a page of a context (R306). -/
def State.waitsOn (s : State) (ctx va : Nat) (w : Waiter) : Bool :=
  let mine (r : FaultRec) : Bool := r.ctx == ctx && r.va / 65536 == va / 65536 && r.waiters.contains w
  (s.hb.faults.any fun r => mine r.2) || s.hb.faultsWaiting.any fun r => !r.2 && mine r.1

/-- Posts a FATAL record (R309); ring 5 traces it (log 40). -/
def State.postFatal (s : State) (ctx va reason : Nat) (ws : List Waiter) : State :=
  let r : FaultRec := { firstTide := s.tide, va := va, ctx := ctx, timeout := reason, count := 1#32, waiters := ws }
  let s := s.trace 5 (BitVec.ofNat 16 ctx) 3#16 (word va) (word reason)
  match s.freeRecord with
  | some id => s.postEvent (faultEntry r id 2 reason)
  | none => s.updHb fun h => { h with faultsWaiting := h.faultsWaiting ++ [(r, true)] }

/-- When numbers are free, posts the fatal records that wait for one and opens the records that wait (R306, R309). -/
def State.drainFaults : Nat → State → State
  | 0, s => s
  | n + 1, s =>
    match s.hb.faultsWaiting, s.freeRecord with
    | (r, fatal) :: t, some id =>
      let s := s.updHb fun h => { h with faultsWaiting := t }
      State.drainFaults n (if fatal then s.postEvent (faultEntry r id 2 r.timeout) else s.openRecord r)
    | _, _ => s

/-- Frees WAITING records that are left without waiters (R308). -/
def State.cleanFaults (s : State) : State :=
  State.drainFaults 256
    (s.updHb fun h => { h with
      faults := h.faults.filter fun x => !x.2.waiters.isEmpty
      faultsWaiting := h.faultsWaiting.filter fun x => x.2 || !x.1.waiters.isEmpty })

/-- A fault record without the waiters that `p` selects. -/
def FaultRec.without (r : FaultRec) (p : Waiter → Bool) : FaultRec :=
  let ws := r.waiters.filter fun w => !p w
  { r with waiters := ws, count := r.count - BitVec.ofNat 32 (r.waiters.length - ws.length) }

/-- Takes the waiters that `p` selects off every record. -/
def State.dropWaitersWhere (s : State) (p : Waiter → Bool) : State :=
  (s.updHb fun h => { h with
    faults := h.faults.map fun x => (x.1, x.2.without p)
    faultsWaiting := h.faultsWaiting.map fun x => if x.2 then x else (x.1.without p, x.2) }).cleanFaults

/-- Detail of a TRANSLATION failure (Table 15.3). -/
def xlateDetail (reason va : Nat) : BitVec 56 := detail [(reason, 48), (va / 65536 % 2 ^ 40, 0)]

/-- Whether a fault replays (R305): NOT_PRESENT with RP, in a launch of non-deterministic timing mode. -/
def replays (reason : Nat) (rp : Bool) (l : Option (Nat × Launch)) : Bool :=
  match l with
  | some (_, x) => reason = rsnNotPresent && rp && !x.deterministic
  | none => false

/-- A walk for `core` that meets an entry it cannot read (R283): no translation comes of it, and the launch fails. -/
def State.walkBad (s : State) (core dpa : Nat) : State := (s.memAlarm dpa).failCore core clsMemory (memDetail dpa)

/-- A fatal fault (R309): the launch of `core` fails and a FATAL record is posted. -/
def State.fatalFault (s : State) (core ctx va reason : Nat) (w : Waiter) : State :=
  (s.failCore core clsTranslation (xlateDetail reason va)).postFatal ctx va reason [w]

/-! ### Pieces of a range -/

/-- Cuts `n` bytes at `va` into pieces that cross no 64 KiB boundary: (address, offset from the start, length). -/
def pieces : Nat → Nat → Nat → Nat → List (Nat × Nat × Nat)
  | 0, _, _, _ => []
  | fuel + 1, va, off, n =>
    if n = 0 then []
    else
      let k := min n (65536 - va % 65536)
      (va, off, k) :: pieces fuel (va + k) (off + k) (n - k)

def rangePieces (va n : Nat) : List (Nat × Nat × Nat) := pieces (n / 65536 + 2) va 0 n

/-- Writes bytes for context `ctx` and core `core`, frame by frame; the first piece that is refused, or cannot be written, stops it and
fails the launch (R275, R283, R297). -/
def State.writeFrames (s : State) (core ctx : Nat) (bs : List Byte) : List (Nat × Nat × Nat) → State
  | [] => s
  | (d, o, n) :: t =>
    match s.devWrite ctx d ((bs.drop o).take n) with
    | .ok s => s.writeFrames core ctx bs t
    | .refused => (s.crossAlarm ctx d).failCore core clsCross (crossDetail s ctx d)
    | .bad => s.failCore core clsMemory (memDetail d)

end Sys2Proof.Machine
end

