-- ==== Sys2Proof/Machine/Issue.lean ====
section
/-! DEFINITION. How a core issues a command's instruction: guards (R149, R150), exceptions (R219-R230), quarantine (R229),
halt (R226), interrupt lines (R231). -/

namespace Sys2Proof.Machine

/-! ### Levels and causes -/

def privTask : BitVec 2 := 0#2
def privRuntime : BitVec 2 := 1#2
def privMonitor : BitVec 2 := 2#2

def opService : BitVec 2 := 0#2
def opStartup : BitVec 2 := 1#2
def opTest : BitVec 2 := 2#2
def opRecovery : BitVec 2 := 3#2

/-- Cause codes (Table 8.1). -/
def excIllegal : BitVec 8 := 0x01#8
def excMisaligned : BitVec 8 := 0x02#8
def excBusError : BitVec 8 := 0x03#8
def excLate : BitVec 8 := 0x04#8
def excTranslation : BitVec 8 := 0x05#8
def excFetch : BitVec 8 := 0x06#8
def excPrivilege : BitVec 8 := 0x07#8
def excPrivReturn : BitVec 8 := 0x08#8
def excControlFlow : BitVec 8 := 0x09#8
def excFpTrap : BitVec 8 := 0x0a#8
def excMatrixInvalid : BitVec 8 := 0x0b#8
def excMatrixConfig : BitVec 8 := 0x0c#8
def excVectorConfig : BitVec 8 := 0x0d#8
def excLengthOver : BitVec 8 := 0x0e#8
def excSoftwareTrap : BitVec 8 := 0x0f#8

/-- An exception: its cause, detail and address (Table 8.1). -/
structure Exc where
  code : BitVec 8
  info : BitVec 8
  eaddr : Word
deriving DecidableEq, Repr

/-- The causes that service mode answers with quarantine (R228). -/
def hardwareFault (code : BitVec 8) : Bool :=
  code = excIllegal || code = excMisaligned || code = excBusError || code = excLate || code = excFetch

/-- The level at which a cause is taken (Table 8.1). -/
def targetLevel (code : BitVec 8) (level : BitVec 2) : BitVec 2 :=
  if code = excControlFlow then privMonitor
  else if code = excSoftwareTrap then privRuntime
  else if level = privTask then privRuntime else privMonitor

/-- Detail of a CORE or CHECK failure (Table 15.3). -/
def coreDetail (kind : Nat) (c : CoreId) (pc : Word) : BitVec 56 :=
  detail [(kind, 48), (c.val, 32), (pc.toNat % 2 ^ 32, 0)]

/-- Ticks of 24 hours. -/
def dayTicks : Nat := 86400 * second

/-- Quarantines a core (R229) with the failure of class `cls` and detail `d`: it stops issuing, its engines commit nothing more; it reports
the cause (the class and the detail's kind), the instruction address and EADDR `ea` to Harbour, whose log keeps them (log 40); Harbour fails
its launch and keeps the time (R456). -/
def State.quarantine (s : State) (c : CoreId) (cls : BitVec 8) (d : BitVec 56) (ea : Word) : State :=
  let s := s.log 1#8 0x1001#16 (BitVec.ofNat 16 c.val) 0
    [(cls ++ d.extractLsb' 48 8).setWidth 64, (s.sc c).pc, ea]
  let day := (s.core c).health.quarantines.filter fun t => s.since t < dayTicks
  let s := s.updCore c fun k => { k with health := { k.health with quarantines := day ++ [s.tide] } }
  (s.updSc c fun x => { x with run := .quarantined }).failCore c.val cls d

/-- Steps of a matrix cycle (q of Table 4.1), by MODE. -/
def modeSteps (md : Nat) : Nat := if md = 4 || md = 5 then 4 else 1

/-- Whether a running MX.SEQ has run some, but not all, steps of its present cycle (R107, R109). -/
def Mx.midCycle (m : Mx) : Bool :=
  match m.seq with
  | some q => q.row.toNat % modeSteps (fld m.mcfg 3 0) != 0
  | none => false

/-- Stops a running MX.SEQ at its step boundary: its position goes to MPROG (R109). -/
def Mx.suspend (m : Mx) : Mx :=
  match m.seq with
  | some q => { m with seq := none, progValid := true, progChunk := q.chunk, progPass := q.pass, progRow := q.row }
  | none => m

/-- Exception entry (R222): the level the exception arose at is the core's own, `resume` is R223's address. -/
def State.enter (s : State) (c : CoreId) (int : Bool) (x : Exc) (resume : Word) (target : BitVec 2) : State :=
  (s.updMx c Mx.suspend).updSc c fun k =>
    { k with
      epc := (resume &&& ~~~3#64) ||| k.priv.setWidth 64
      ecauseInt := int
      ecauseInfo := x.info
      ecauseCode := x.code
      eaddr := x.eaddr
      epriv := target
      priv := target
      pc := if target = privRuntime then k.evecRt else k.evecMon
      hold := true
      shieldOpen := false
      shieldUsed := false
      monitorEntry := k.monitorEntry || target != privRuntime
      runtimeEntry := target = privRuntime
      run := .running }

/-- Halts a core (R226): it keeps its state, reports a core fault and is quarantined. -/
def State.halt (s : State) (c : CoreId) (x : Exc) : State :=
  let pc := (s.sc c).pc
  (s.updSc c fun k => { k with shieldOpen := false }).quarantine c clsCore (coreDetail x.code.toNat c pc) x.eaddr

/-- Takes an exception at `target` level, or halts when that is a double fault (R220). -/
def State.takeAt (s : State) (c : CoreId) (x : Exc) (resume : Word) (target : BitVec 2) : State :=
  if privMonitor ≤ target && (s.sc c).monitorEntry then s.halt c x else s.enter c false x resume target

/-- Raises an exception (R220, R228): in service mode a hardware fault quarantines the core instead. -/
def State.raise (s : State) (c : CoreId) (x : Exc) : State :=
  let k := s.sc c
  if hardwareFault x.code && k.opmode = opService then
    s.quarantine c clsCore (coreDetail x.code.toNat c k.pc) x.eaddr
  else
    let s :=
      if x.code = excControlFlow then
        (s.log 1#8 0x1002#16 (BitVec.ofNat 16 c.val) 0 [x.info.setWidth 64, k.pc, x.eaddr]).failCore c.val clsTask
          (detail [(2, 48), (c.val, 32)])
      else s
    let resume := if x.code = excSoftwareTrap then k.pc + 4#64 else k.pc
    s.takeAt c x resume (targetLevel x.code k.priv)

/-! ### Late bus errors (R230) -/

/-- Instructions retired after a store, saturating (R230). -/
def retiredAfter (x : Scalar) (at_ : Word) : BitVec 32 := BitVec.ofNat 32 (sat 32 (x.retired - at_).toNat)

/-- Records a late bus error and raises it (R230): in service mode the core is quarantined, the record still reported. -/
def State.recordLate (s : State) (c : CoreId) (e : LateError) : State :=
  let s := s.updSc c fun x =>
    { x with lbaddr := e.ea.extractLsb' 0 56, lbValid := true, lbCount := retiredAfter x e.retiredAt }
  s.raise c { code := excLate, info := 0#8, eaddr := (e.ea.extractLsb' 0 56).setWidth 64 }

/-- Puts a late error among those that wait, in retirement order (R230). -/
def insertLate (e : LateError) : List LateError → List LateError
  | [] => [e]
  | y :: t => if e.retiredAt < y.retiredAt then e :: y :: t else y :: insertLate e t

/-- A late bus error waits in retirement order (R230). -/
def State.queueLate (s : State) (c : CoreId) (e : LateError) : State :=
  s.updSc c fun x => { x with late := insertLate e x.late }

/-- An instruction boundary (R230): while LBINFO is not valid, the first late error that waits is recorded and raised. A core that has
stopped takes nothing (R229). -/
def State.settleLate (s : State) (c : CoreId) : State :=
  let x := s.sc c
  if x.run = .quarantined || x.lbValid then s
  else
    match x.late with
    | [] => s
    | e :: t => (s.updSc c fun x => { x with late := t }).recordLate c e

/-! ### Interrupt lines (R183 IRQPEND) -/

/-- The mooring slot of core `c` in lagoon bytes: word `w` of slot `m` (Table 11.7). -/
def mooringAddr (m w : Nat) : Nat := 0xffe00 + 64 * m + 8 * w

/-- The end of the mooring area (R347). -/
def mooringEnd : Nat := 0x100000

def Scalar.mooringWord (x : Scalar) (m w : Nat) : Word := readWord x.lagoon (mooringAddr m w)

/-- STATE of a mooring slot (Table 11.8). -/
def Scalar.mooringState (x : Scalar) (m : Nat) : BitVec 8 := byteAt x.lagoon (mooringAddr m 0)

def mEmpty : BitVec 8 := 0#8
def mBind : BitVec 8 := 1#8
def mIdle : BitVec 8 := 2#8
def mPosted : BitVec 8 := 3#8
def mTaken : BitVec 8 := 4#8
def mDone : BitVec 8 := 5#8
def mUnbind : BitVec 8 := 6#8

/-- Whether some slot is POSTED and the tide has reached its START_TICK (R350). -/
def mooringLine (s : State) (x : Scalar) : Bool :=
  (List.range 8).any fun m => x.mooringState m = mPosted && x.mooringWord m 4 ≤ s.tide

/-- The seven interrupt lines (Table 6.19 IRQPEND): MOORING, EW, FERRY, TIDE, PEER, HARBOUR, POWER. A core that waits for wake
tokens takes its MOORING interrupt when they arrive (R435). -/
def State.irqPend (s : State) (c : CoreId) : BitVec 7 :=
  let k := s.core c
  let x := k.sc
  let line (i : Nat) (b : Bool) : BitVec 7 := if b then 1#7 <<< i else 0#7
  line 0 (k.pw.want.isNone && mooringLine s x) |||
  line 1 (k.ew.fifo.any Cpl.irq) |||
  line 2 (k.streams.any fun t => t.2.fifo.any Cpl.irq) |||
  line 3 (k.tp.wakeEn && k.tp.wakeTick.setWidth 64 ≤ s.tide) |||
  line 4 x.irqPeer ||| line 5 x.irqHarbour |||
  line 6 (k.pw.evt &&& k.pw.mask != 0#6)

/-- Whether an enabled line is pending (R231, R233). -/
def State.irqEnabled (s : State) (c : CoreId) : Bool := s.irqPend c &&& (s.sc c).irqmask != 0#7

/-- Whether a shield window is open: its count has not reached zero (R232). -/
def Scalar.shielded (x : Scalar) : Bool := x.shieldOpen && x.cycles - x.shieldAt ≤ 4096#64

/-! ### Issue -/

/-- What an instruction's body gives: it completes; it completes and moves the pc; it raises an exception; it holds at its
place without retiring (a replayable fault, a running MX.SEQ). -/
inductive Res where
  | done (s : State)
  | goto (s : State) (pc : Word)
  | exc (s : State) (x : Exc)
  | hold (s : State)
deriving DecidableEq, Repr

/-- Whether a core can issue: its clock runs, and it runs or its WAIT can end (R233). -/
def State.canIssue (s : State) (c : CoreId) : Bool :=
  s.clocked c &&
    match (s.sc c).run with
    | .running => true
    | .waiting => s.irqEnabled c
    | _ => false

/-- Retires an instruction: RETIRED rises, CYCLES advances by a free amount (log 4), the pc moves. -/
def State.retire (s : State) (c : CoreId) (pc : Word) : State :=
  s.updSc c fun x =>
    { x with
      pc := pc
      retired := x.retired + 1#64
      cycles := x.cycles + 1#64 + word (Config.extraCycles c.val x.retired.toNat) }

/-- Ends an instruction as its body says. A late bus error of its own or of an earlier store comes at its end (R230). -/
def State.finish (s0 : State) (c : CoreId) (r : Res) : State :=
  match r with
  | .done s => (s.retire c ((s0.sc c).pc + 4#64)).settleLate c
  | .goto s pc => (s.retire c pc).settleLate c
  | .exc s x => s.raise c x
  | .hold s => s

def illegal (s : State) (c : CoreId) : Exc := { code := excIllegal, info := 0#8, eaddr := (s.sc c).pc }

/-- The never-guard of R150. -/
def neverGuard (g : Guard) : Bool := g.pg = 0#3 && g.pn

/-- Issues an instruction on core `c` (R149, R150): nothing happens on a core that cannot issue (log 9); an illegal encoding
raises ILLEGAL whatever the guard; a guarded-off instruction only retires; otherwise `body` runs. -/
def State.issue (s : State) (c : CoreId) (g : Guard) (bad : Bool) (body : State → Res) : State :=
  if !s.canIssue c then s
  else
    let s := s.updSc c fun x => { x with run := .running, hold := false }
    if bad || neverGuard g then s.raise c (illegal s c)
    else if (s.sc c).rp g.pg != g.pn then s.finish c (body s)
    else s.finish c (.done s)

/-- The guard that always executes, for rows that are a port access (log 10). -/
def alwaysGuard : Guard := { pg := 0#3, pn := false }

/-- A body that computes on the scalar part alone. -/
def scalarBody (c : CoreId) (f : Scalar → Scalar) : State → Res := fun s => .done (s.updSc c f)

/-- Runs `body` when the level is at least `lo`, and otherwise raises PRIVILEGE with INFO 0 (R165). -/
def atLevel (lo : BitVec 2) (c : CoreId) (body : State → Res) : State → Res := fun s =>
  if lo ≤ (s.sc c).priv then body s else .exc s { code := excPrivilege, info := 0#8, eaddr := 0#64 }

end Sys2Proof.Machine
end

