-- ==== Sys2Proof/Machine/Operands.lean ====
section
/-! DEFINITION. Operand forms of the scalar instructions: ALU functions (Table 6.5), conditions (Tables 6.7, 6.11), the
multiply and divide functions (Table 6.9), effective addresses (R169). -/

namespace Sys2Proof.Machine

/-- Number of zero bits above the highest set bit. -/
def leadingZeros (x : Word) : Nat := 64 - bitlen x.toNat

/-- Number of zero bits below the lowest set bit; 64 for zero. -/
def trailingZeros (x : Word) : Nat := ((List.range 64).find? fun i => x.getLsbD i).getD 64

def popCount (x : Word) : Nat := (List.range 64).countP fun i => x.getLsbD i

/-- The 64 bits in reverse order. -/
def bitReverse (x : Word) : Word := word ((List.range 64).foldl (fun a i => 2 * a + (if x.getLsbD i then 1 else 0)) 0)

/-- The 8 bytes in reverse order. -/
def byteSwap (x : Word) : Word := word (leNat (leBytes 8 x.toNat).reverse)

/-- ALU functions (Table 6.5): the result, or `none` for a reserved FUNC. -/
def aluOp (func : BitVec 7) (a b : Word) : Option Word :=
  let n := (b &&& 63#64).toNat
  match func with
  | 0x00#7 => some (a + b)
  | 0x01#7 => some (a - b)
  | 0x02#7 => some (a &&& b)
  | 0x03#7 => some (a ||| b)
  | 0x04#7 => some (a ^^^ b)
  | 0x05#7 => some (a &&& ~~~b)
  | 0x06#7 => some (a <<< n)
  | 0x07#7 => some (a >>> n)
  | 0x08#7 => some (a.sshiftRight n)
  | 0x09#7 => some (a.rotateRight n)
  | 0x0a#7 => some (if a.slt b then a else b)
  | 0x0b#7 => some (if a.slt b then b else a)
  | 0x0c#7 => some (if a.ult b then a else b)
  | 0x0d#7 => some (if a.ult b then b else a)
  | 0x0e#7 => some (word (leadingZeros a))
  | 0x0f#7 => some (word (trailingZeros a))
  | 0x10#7 => some (word (popCount a))
  | 0x11#7 => some (bitReverse a)
  | 0x12#7 => some (byteSwap a)
  | _ => none

/-- The unary ALU functions, whose rb field is reserved (R155). -/
def aluUnary (func : BitVec 7) : Bool := 0x0e#7 ≤ func && func ≤ 0x12#7

/-- Shifts by kind (SHI, Table 6.6). -/
def shiftOp (kind : BitVec 2) (a : Word) (n : Nat) : Word :=
  match kind with
  | 0#2 => a <<< n
  | 1#2 => a >>> n
  | 2#2 => a.sshiftRight n
  | _ => a.rotateRight n

/-- Integer conditions (Table 6.7), coded 0-6; `none` for a reserved code. -/
def intCond (cond : Nat) (a b : Word) : Option Bool :=
  match cond with
  | 0 => some (a == b)
  | 1 => some (a != b)
  | 2 => some (a.slt b)
  | 3 => some (!a.slt b)
  | 4 => some (a.ult b)
  | 5 => some (!a.ult b)
  | 6 => some (a &&& b != 0#64)
  | _ => none

/-- MULDIV functions (Table 6.9). -/
def mulDivOp (func : BitVec 7) (a b : Word) : Option Word :=
  match func with
  | 0x00#7 => some (a * b)
  | 0x01#7 => some (BitVec.ofInt 64 ((a.toInt * b.toInt) / 2 ^ 64))
  | 0x02#7 => some (word (a.toNat * b.toNat / 2 ^ 64))
  | 0x03#7 => some (if b = 0#64 then BitVec.allOnes 64 else a.sdiv b)
  | 0x04#7 => some (if b = 0#64 then BitVec.allOnes 64 else a / b)
  | 0x05#7 => some (if b = 0#64 then a else a.srem b)
  | 0x06#7 => some (if b = 0#64 then a else a % b)
  | _ => none

/-! ### Effective addresses (R169) -/

/-- What an addressing mode forms: an address with the base register's update, or a failed circular-buffer check. -/
inductive Ea where
  | ok (ea : Word) (upd : Option Word)
  | badBuffer
deriving DecidableEq, Repr

/-- Reverses the low `k` bits of `i`. -/
def reverseLow (k i : Nat) : Nat := (List.range k).foldl (fun r j => 2 * r + i / 2 ^ j % 2) 0

/-- The effective address of layout M (R169): base register rb, mode AM, field AMF, 2^sz bytes. -/
def effAddr (x : Scalar) (rb : BitVec 5) (size : BitVec 2) (am : BitVec 3) (amf : BitVec 7) : Ea :=
  let s := size.toNat
  let n := 2 ^ s
  let b := x.rg rb
  match am with
  | 0#3 => .ok (b + (amf.signExtend 64 <<< s)) none
  | 1#3 => .ok (b + (x.rg (amf.extractLsb' 2 5) <<< s)) none
  | 2#3 => .ok b (some (b + (amf.signExtend 64 <<< s)))
  | 3#3 =>
    let cr := x.c.get (amf.extractLsb' 5 2).toFin
    let cb := cr.base.setWidth 64
    let len := cr.len.toNat
    if len < n || len % n != 0 || cb.toNat % n != 0 then .badBuffer
    else
      let m := (b - cb).toInt % (len : Int)
      let k := m + ((amf.extractLsb' 0 5).signExtend 64).toInt * (n : Int)
      .ok (cb + BitVec.ofInt 64 m) (some (cb + BitVec.ofInt 64 (k % (len : Int))))
  | _ =>
    let k := (x.c.get (amf.extractLsb' 0 2).toFin).bits.toNat
    let i := (x.rg (amf.extractLsb' 2 5)).toNat % 2 ^ k
    .ok (b + (word (reverseLow k i) <<< s)) none

/-- Reserved modes and reserved AMF bits (Table 6.14). -/
def amReserved (am : BitVec 3) (amf : BitVec 7) : Bool := 4#3 < am || (am = 1#3 && amf.extractLsb' 0 2 != 0#2)

/-! ### Scalar floating point (R160-R163) -/

/-- The layout of FPU FMT codes (R161). -/
def fpuFmt (fmt : BitVec 2) : Option FlFmt :=
  match fmt with
  | 0#2 => some binary64
  | 1#2 => some binary32
  | 2#2 => some binary16
  | _ => none

/-- The encoding in a g register's low bits (R160). -/
def fpArg (f : FlFmt) (v : Word) : Nat := v.toNat % 2 ^ (f.eb + f.mb + 1)

/-- nextUp of an encoding (IEEE 754-2019). -/
def nextUp (f : FlFmt) (x : Nat) : Nat :=
  let mag := nbits x 0 (f.eb + f.mb)
  if x.testBit (f.eb + f.mb) then (if mag = 0 then 1 else x - 1)
  else if mag = f.infMag then x else x + 1

/-- nextDown(x) = -nextUp(-x). -/
def nextDown (f : FlFmt) (x : Nat) : Nat :=
  let neg (y : Nat) : Nat := if y.testBit (f.eb + f.mb) then y - f.signBit else y + f.signBit
  neg (nextUp f (neg x))

/-- The class bit of FCLASS. -/
def classBit (f : FlFmt) (x : Nat) : Nat :=
  let s := x.testBit (f.eb + f.mb)
  match decodeFl f x with
  | .nan _ q _ _ => if q then 9 else 8
  | .inf _ => if s then 0 else 7
  | .fin _ m _ => if m = 0 then (if s then 3 else 4) else if m < 2 ^ f.mb then (if s then 2 else 5) else (if s then 1 else 6)

/-- The exponent of logB. -/
def logB (v : FVal) : Option Int :=
  match v with
  | .fin _ m e => if m = 0 then none else some (e + bitlen m - 1)
  | _ => none

/-- A result of the FPU: the value written to rd and the flags raised. -/
abbrev FpRes := Word × Flags

def fpOut (f : FlFmt) (r : Rnd) (x : FRes) : FpRes :=
  let c := encodeFl f r false x.1
  (word c.bits, c.flags ||| x.2)

/-- FPU operations (Table 6.10); `none` for a reserved code. `d` is rd's old value. -/
def fpuOp (op : BitVec 5) (f : FlFmt) (rm : BitVec 3) (ra rb d : Word) : Option FpRes :=
  let r := Rnd.mode rm
  let ea := fpArg f ra
  let eb := fpArg f rb
  let a := decodeFl f ea
  let b := decodeFl f eb
  let c := decodeFl f (fpArg f d)
  let out (x : FRes) : Option FpRes := some (fpOut f r x)
  let bits (n : Nat) : Option FpRes := some (word n, Flags.none)
  match op with
  | 0x00#5 => out (fAdd r a b)
  | 0x01#5 => out (fSub r a b)
  | 0x02#5 => out (fMul a b)
  | 0x03#5 => out (fDiv a b)
  | 0x04#5 => out (fSqrt a)
  | 0x05#5 => out (fFma r a b c)
  | 0x06#5 => out (withNaN [a, b, c] (fFma r a b c.negate))
  | 0x07#5 => out (withNaN [a, b, c] (fFma r a.negate b c))
  | 0x08#5 => out (fMinimum a b)
  | 0x09#5 => out (fMaximum a b)
  | 0x0a#5 => out (numOp fMinimum a b)
  | 0x0b#5 => out (numOp fMaximum a b)
  | 0x0c#5 => out (magOp true fMinimum a b)
  | 0x0d#5 => out (magOp false fMaximum a b)
  | 0x0e#5 => out (numOp (magOp true fMinimum) a b)
  | 0x0f#5 => out (numOp (magOp false fMaximum) a b)
  | 0x10#5 => bits (ea % f.signBit)
  | 0x11#5 => bits (if ea < f.signBit then ea + f.signBit else ea - f.signBit)
  | 0x12#5 => bits (ea % f.signBit + (if eb < f.signBit then 0 else f.signBit))
  | 0x13#5 => bits (2 ^ classBit f ea)
  | 0x14#5 => out ((roundIntegral r a).1, Flags.none)
  | 0x15#5 => let x := roundIntegral r a; out (x.1, Flags.when x.2 Flags.inexact)
  | 0x16#5 => out (fRem a b)
  | 0x17#5 => out (fScaleB a rb.toInt)
  | 0x18#5 =>
    match logB a with
    | some e => some (BitVec.ofInt 64 e, Flags.none)
    | none => some (if a.isZero then 0x8000000000000000#64 else 0x7fffffffffffffff#64, Flags.invalid)
  | 0x19#5 => if a.isNaN then out (withNaN [a] (a, Flags.none)) else bits (nextUp f ea)
  | 0x1a#5 => if a.isNaN then out (withNaN [a] (a, Flags.none)) else bits (nextDown f ea)
  | _ => none

/-- Operations that take no rb (R161). -/
def fpuUnary (op : BitVec 5) : Bool :=
  op = 0x04#5 || op = 0x10#5 || op = 0x11#5 || (0x13#5 ≤ op && op ≤ 0x15#5) || (0x18#5 ≤ op && op ≤ 0x1a#5)

/-- Floating-point conditions (Table 6.11): the predicate and the flags; `none` for a reserved code. -/
def fcmpOp (cond : BitVec 4) (f : FlFmt) (ra rb : Word) : Option (Bool × Flags) :=
  let ea := fpArg f ra
  let eb := fpArg f rb
  let a := decodeFl f ea
  let b := decodeFl f eb
  let un := a.isNaN || b.isNaN
  let quiet := snanFlags [a, b]
  let sig := Flags.when un Flags.invalid
  let lt := !un && valCompare a b = .lt
  let eq := !un && valCompare a b = .eq
  match cond with
  | 0x0#4 => some (eq, quiet)
  | 0x1#4 => some (!eq, quiet)
  | 0x2#4 => some (lt, sig)
  | 0x3#4 => some (lt || eq, sig)
  | 0x4#4 => some (lt, quiet)
  | 0x5#4 => some (lt || eq, quiet)
  | 0x6#4 => some (un, quiet)
  | 0x7#4 => some (totalOrder f ea eb, Flags.none)
  | _ => none

/-- Pairs that FCVT allows (R163). -/
def fcvtLegal (s d : FmtCode) : Bool :=
  legalPair s d && s != d && s != Fmt.k4 && d != Fmt.k4 && s != Fmt.s8 && d != Fmt.s8 && s != Fmt.u8 && d != Fmt.u8

/-- FCVT of the value in `v` (R163): the word written, the flags, whether the source was poisoned. -/
def fcvtOp (s d : FmtCode) (rm : BitVec 3) (om : Bool) (v : Word) : Word × Flags × Bool :=
  let poisoned := s.isShort && v.getLsbD 63
  let x := decodeFmt s poisoned (v.toNat % 2 ^ s.bits)
  let c := convertFmt d (.mode rm) om poisoned x
  let w : Word := word c.bits
  let w := if d = Fmt.s32 then (w.setWidth 32).signExtend 64 else w
  (if d.isShort && c.exc then w ||| 0x8000000000000000#64 else w, c.flags, poisoned)

end Sys2Proof.Machine
end

