-- ==== Sys2Proof/Machine/CoreMem.lean ====
section
/-! DEFINITION. A core's memory side: the D-space windows (R166-R168), moorings as its own stores meet them (R347, R348),
the L1 data cache (R240-R246), the store buffer (R241), loads and stores of device memory. -/

namespace Sys2Proof.Machine

/-! ### Moorings (R347-R350) -/

/-- Transitions that the runtime may write (Table 11.8). -/
def runtimeMay (old new : BitVec 8) : Bool :=
  (old = mBind && new = mIdle) || (old = mUnbind && new = mEmpty) || (old = mPosted && new = mTaken) || (old = mTaken && new = mDone)

/-- Harbour's own write of STATE in slot `m` (R348). -/
def State.harbourMooring (s : State) (c : CoreId) (m : Nat) (st : BitVec 8) : State :=
  s.updSc c fun x => { x with lagoon := setByte x.lagoon (mooringAddr m 0) st }

def State.mooring (s : State) (c : CoreId) (m : Nat) : Mooring :=
  mapGet { graph := none, lastPost := 0#64, since := 0#64 } (8 * c.val + m) s.hb.moorings

def State.setMooring (s : State) (c : CoreId) (m : Nat) (x : Mooring) : State :=
  s.updHb fun h => { h with moorings := mapSet (8 * c.val + m) x h.moorings }

/-- Slots of a core in a state. -/
def Scalar.slotsIn (x : Scalar) (st : BitVec 8) : List Nat := (List.range 8).filter fun m => x.mooringState m = st

/-- Harbour writes UNBIND to an IDLE slot and waits for EMPTY (R348, R349). -/
def State.unbind (s : State) (c : CoreId) (m : Nat) : State :=
  if (s.sc c).mooringState m = mIdle then
    (s.harbourMooring c m mUnbind).setMooring c m { s.mooring c m with since := s.tide }
  else s

/-- A failed launch's core set is free once none of its cores has its fill to come (R340). -/
def State.settleSets (s : State) : State := s.updHb fun h => { h with freeing := h.freeing.filter fun set => set.any h.unclean.contains }

/-- Zero-fills a core's lagoon and scratch ways (R252); nothing is bound in a filled lagoon. -/
def State.fillLagoon (s : State) (c : CoreId) : State :=
  let s := s.updSc c fun x => { x with lagoon := [], lagoonBad := [], scratch := [], scratchBad := [] }
  (s.updHb fun h =>
    { h with moorings := h.moorings.filter fun x => x.1 / 8 != c.val, unclean := h.unclean.filter (· != c.val) }).settleSets

/-- Goes on with the fill of a core whose launch failed: its IDLE slots are unbound, and once every slot is EMPTY lagoon and scratch ways are
filled (R252, R340, R351; log 74). -/
def State.cleanCore (s : State) (c : CoreId) : State :=
  if !s.hb.unclean.contains c.val then s
  else if ((s.sc c).slotsIn mEmpty).length = 8 then s.fillLagoon c
  else ((s.sc c).slotsIn mIdle).foldl (fun s m => s.unbind c m) s

/-- Harbour learns of the core's write to word 0 of slot `m` (R347, R348, R350): a write the table does not allow fails the
launch; EMPTY unbinds; DONE is answered with IDLE, and a RESULT other than zero fails the launch. -/
def State.checkMooring (s : State) (c : CoreId) (m : Nat) (old : BitVec 8) : State :=
  let x := s.sc c
  let new := x.mooringState m
  if !runtimeMay old new then s.failCore c.val clsTask (detail [(3, 48), (c.val, 32)])
  else if new = mEmpty then s.setMooring c m { s.mooring c m with graph := none }
  else if new = mDone then
    let r := x.mooringWord m 6
    let s := s.harbourMooring c m mIdle
    if fld r 7 0 != 0 then s.failCore c.val clsTask (detail [(1, 48), (c.val, 32), (fld r 39 8, 0)])
    else
      match s.launchOfCore c.val with
      | some (k, l) => s.setLaunch k { l with done := addOnce c.val l.done }
      | none => s
  else s

/-- The report of a write to word 0 of slot `m`; a core that is to be filled is then unbound further. -/
def State.mooringReport (s : State) (c : CoreId) (m : Nat) (old : BitVec 8) : State := (s.checkMooring c m old).cleanCore c

/-- Reports every slot whose word 0 a write of `n` lagoon bytes at `o` touched. -/
def State.reportMoorings (s : State) (before : Scalar) (c : CoreId) (o n : Nat) : State :=
  (List.range 8).foldl (fun s m =>
    if o < mooringAddr m 0 + 8 && mooringAddr m 0 < o + n then s.mooringReport c m (before.mooringState m) else s) s

/-- Whether software must not write lagoon byte `a` (R347): no agent writes the mooring area, but for STATE and RESULT, which the core's own
runtime writes. -/
def stray (own : Bool) (a : Nat) : Bool :=
  mooringAddr 0 0 ≤ a && a < mooringEnd && !(own && (a % 64 = 0 || (48 ≤ a % 64 && a % 64 < 56)))

/-- Writes bytes to lagoon `d`, by its own core or by another agent. What a byte of the mooring area becomes when software breaks R347 by
changing it is undefined (R2): a free value (log 84). -/
def State.writeLagoon (s : State) (own : Bool) (d : CoreId) (o : Nat) (bs : List Byte) : State :=
  let bad (i : Nat) (b : Byte) : Bool := stray own (o + i) && b != byteAt (s.sc d).lagoon (o + i)
  if bs.zipIdx.any fun b => bad b.2 b.1 then
    let (n, s) := s.takeFree
    s.updSc d fun x => x.putLagoon o ((bs.zip (freeBytes n bs.length)).zipIdx.map fun b => if bad b.2 b.1.1 then b.1.2 else b.1.1)
  else s.updSc d fun x => x.putLagoon o bs

/-- The core's own write of bytes to its lagoon. -/
def State.storeLagoon (s : State) (c : CoreId) (o : Nat) (bs : List Byte) : State :=
  let before := s.sc c
  (s.writeLagoon true c o bs).reportMoorings before c o bs.length

/-- A write of bytes to lagoon `d` by another agent than its core: a peer's store, LCOPY or ZFILL, a ferry. Harbour sees no mooring
transition in it. -/
def State.foreignWrite (s : State) (d : CoreId) (o : Nat) (bs : List Byte) : State := s.writeLagoon false d o bs

/-! ### Windows (Table 6.13) -/

def ownBase : Nat := 0x00f0000000000000
def scratchBase : Nat := 0x00f0000000100000
def peerBase : Nat := 0x00f1000000000000
def lagoonSize : Nat := 0x100000

/-- Where a D-space range lies: device virtual space; the own lagoon; the scratch ways; a peer's lagoon; or a window fault with
INFO bits [1:0] (R167, R168). -/
inductive Place where
  | dev
  | own (o : Nat)
  | scratch (o : Nat)
  | peer (c : CoreId) (o : Nat)
  | cross (c : CoreId)
  | none (scratch : Bool)
deriving DecidableEq, Repr

/-- A core of the same isle, by core index. -/
def peerCore (c : CoreId) (i : Nat) : CoreId := coreOf (150 * (isleOf c).val + i)

/-- Places a range of `n` bytes at `ea` that must lie wholly in one window. -/
def State.locate (s : State) (c : CoreId) (ea n : Nat) : Place :=
  let x := s.sc c
  if ea < vaTop then .dev
  else if ea + n ≤ ownBase + lagoonSize then .own (ea - ownBase)
  else if scratchBase ≤ ea && ea < scratchBase + 0x8000 then
    if ea + n ≤ scratchBase + x.scratchW * 8192 then .scratch (ea - scratchBase) else .none true
  else if peerBase ≤ ea && ea < peerBase + 150 * lagoonSize then
    let i := (ea - peerBase) / lagoonSize
    let o := (ea - peerBase) % lagoonSize
    if lagoonSize < o + n then .none false
    else if i = coreIndex c then .own o
    else
      let d := peerCore c i
      if privMonitor ≤ x.priv || (s.sc d).ctxid = x.ctxid then .peer d o else .cross d
  else .none false

/-- INFO of a TRANSLATION or MISALIGNED exception: bit 2 for a store or an AMO. -/
def storeBit (store : Bool) : BitVec 8 := if store then 4#8 else 0#8

/-! ### Lagoon bytes that the matrix engine still reads or writes (R96) -/

/-- Whether two ranges of the lagoon meet; the engine's wraps modulo 1 MiB (R89). -/
def lagoonMeets (o n base len : Nat) : Bool :=
  (o < base + len && base < o + n) || (base + len > lagoonSize && o < base + len - lagoonSize)

/-- The lagoon ranges of weight loads, accumulator restores and image drains in progress: offset and length. -/
def Mx.busyRanges (m : Mx) : List (Nat × Nat) :=
  let w (r : WReg) : List (Nat × Nat) :=
    if r.st = 1#2 then r.offs.map fun o => (o, segBytes r.fmt (if r.t then r.n else r.k)) else []
  w m.wr0 ++ w m.wr1 ++
  (m.restores.toList.filterMap fun r => r.map fun r => (r.base.toNat, 65536)) ++
  (m.drains.toList.filterMap fun d =>
    match d with
    | some d => if d.kind = .img then some (d.base.toNat, 65536) else none
    | none => none)

/-- Whether the core's own access of `n` lagoon bytes at `o` must wait for its matrix engine (R96). -/
def State.engineHolds (s : State) (c : CoreId) (o n : Nat) : Bool :=
  (s.mx c).busyRanges.any fun r => lagoonMeets o n r.1 r.2

/-- A window fault (R167). -/
def windowFault (ea : Nat) (store scratch : Bool) : Exc :=
  { code := excTranslation, info := storeBit store ||| (if scratch then 1#8 else 0#8), eaddr := word ea }

/-- A cross-context peer attempt (R168): recorded, the launch fails, TRANSLATION with INFO[1]. -/
def State.peerAttempt (s : State) (c d : CoreId) : State :=
  let x := (s.sc c).ctxid.toNat
  let y := (s.sc d).ctxid.toNat
  let dt := detail [(x, 44), (y, 32)]
  (s.alarm alarmCross (BitVec.ofNat 16 (isleOf c).val) (dt.setWidth 64)).failCore c.val clsCross dt

def peerFault (ea : Nat) (store : Bool) : Exc :=
  { code := excTranslation, info := storeBit store ||| 2#8, eaddr := word ea }

/-! ### The L1 data cache -/

/-- touch(w) of R242. -/
def touch (t : BitVec 7) (w : Nat) : BitVec 7 :=
  let put (t : BitVec 7) (i : Nat) (b : Bool) : BitVec 7 := if b then t ||| (1#7 <<< i) else t &&& ~~~(1#7 <<< i)
  let t := put t 0 (w < 4)
  let t := if w < 4 then put t 1 (w < 2) else put t 2 (w < 6)
  put t (3 + w / 2) (w % 2 = 0)

/-- pick(b, lo, n) of R242 over allocatable ways `a`. -/
def pickSide (a : Nat) (b : Bool) (lo n : Nat) : Nat :=
  let v := if b then 1 else 0
  if nbits a (lo + v * n) n = 0 then 1 - v else v

/-- victim(a) of R242. -/
def victim (x : L1Set) (a : Nat) : Nat :=
  match (List.range 8).find? fun w => a.testBit w && (x.ways.get (Fin.ofNat 8 w)).isNone with
  | some w => w
  | none =>
    let l1 := 4 * pickSide a (x.tree.getLsbD 0) 0 4
    let l2 := l1 + 2 * pickSide a (x.tree.getLsbD (1 + l1 / 4)) l1 2
    l2 + pickSide a (x.tree.getLsbD (3 + l2 / 2)) l2 1

def Scalar.l1Set (x : Scalar) (i : Nat) : L1Set := mapGet L1Set.empty i x.l1

/-- Ways that victim() may choose: those not converted to scratch (R246). -/
def Scalar.allocatable (x : Scalar) : Nat := 2 ^ (8 - x.scratchW) - 1

/-- The way of set ea[12:6] that holds the line at `dpa` for context `ctx`. The manual gives the set and no tag; the model tags a line by its
context and its frame address, which share bits [12:6] with the address, so that one frame has one copy whatever address names it
(log 192). -/
def Scalar.l1Way (x : Scalar) (ctx dpa : Nat) : Option Nat :=
  let t := x.l1Set (dpa / 64 % 128)
  (List.range 8).find? fun w =>
    match t.ways.get (Fin.ofNat 8 w) with
    | some y => y.ctx == ctx && y.dpaLine == dpa / 64
    | none => false

/-- What way `w` of the set of `line` holds. -/
def Scalar.l1Line (x : Scalar) (line w : Nat) : Option L1Line := (x.l1Set (line % 128)).ways.get (Fin.ofNat 8 w)

/-- Replaces way `w` of the set of `line`; `touched` updates the tree bits. -/
def Scalar.setL1 (x : Scalar) (line w : Nat) (y : Option L1Line) (touched : Bool) : Scalar :=
  let t := x.l1Set (line % 128)
  let t' : L1Set := { ways := t.ways.set (Fin.ofNat 8 w) y, tree := if touched then touch t.tree w else t.tree }
  { x with l1 := mapSet (line % 128) t' x.l1 }

/-- Performs a write that nothing waits for: a refused one changes nothing and fails the launch with CROSS_CONTEXT (R297); a
part of a marked block is discarded and fails it with MEMORY (R283). -/
def State.performWrite (s : State) (core ctx dpa : Nat) (bs : List Byte) : State :=
  match s.devWrite ctx dpa bs with
  | .ok s' => s'
  | .refused => (s.crossAlarm ctx dpa).failCore core clsCross (crossDetail s ctx dpa)
  | .bad => s.failCore core clsMemory (memDetail dpa)

/-! ### The store buffer -/

/-- Takes entry `k` out of the store buffer. -/
def State.takeStore (s : State) (c : CoreId) (k : Nat) : Option (BufferedStore × State) :=
  match (s.sc c).stores[k]? with
  | some b => some (b, s.updSc c fun x => { x with stores := x.stores.eraseIdx k })
  | none => none

/-- A buffered store reaches memory: one that the device rejects as outside its context's partition (R21) ends in a late bus error, a
choice of the model (log 193), which the next instruction boundary records. -/
def State.performStore (s : State) (c : CoreId) (b : BufferedStore) : State :=
  if s.outsidePart b.ctx b.dpa then s.queueLate c { ea := b.ea, retiredAt := b.retiredAt }
  else s.performWrite c.val b.ctx b.dpa b.data

/-- Whether a buffered store writes bytes of `n` at `dpa`. -/
def BufferedStore.meets (b : BufferedStore) (dpa n : Nat) : Bool := b.dpa < dpa + n && dpa < b.dpa + b.data.length

/-- Drains the buffered stores that write bytes of `n` at `dpa`, oldest first; `fuel` bounds them. -/
def State.drainOver (c : CoreId) (dpa n : Nat) : Nat → State → State
  | 0, s => s
  | fuel + 1, s =>
    match (s.sc c).stores.findIdx? fun b => b.meets dpa n with
    | none => s
    | some k =>
      match s.takeStore c k with
      | some (b, s) => State.drainOver c dpa n fuel (s.performStore c b)
      | none => s

/-- Writes back a line if it is modified, behind the buffered stores of its bytes, which precede the DZL (R243). The bytes of a bad one are
lost: its block is marked (R245, log 194). -/
def State.writeBack (s : State) (c : CoreId) (y : L1Line) : State :=
  if !y.modified then s
  else
    let s := s.drainOver c (y.dpaLine * 64) 64 16
    if y.bad then s.mark (y.dpaLine * 64) else s.performWrite c.val y.ctx (y.dpaLine * 64) y.data

/-- Allocates a line from victim(), writing a modified victim back (R241). -/
def State.allocate (s : State) (c : CoreId) (y : L1Line) : State :=
  let x := s.sc c
  let w := victim (x.l1Set (y.line % 128)) x.allocatable
  let s := match x.l1Line y.line w with
    | some old => s.writeBack c old
    | none => s
  s.updSc c fun x => x.setL1 y.line w (some y) true

/-- Overlays the buffered stores on bytes read at `dpa` (R174: a load returns the core's own earlier stores). -/
def overlay (stores : List BufferedStore) (dpa : Nat) (bs : List Byte) : List Byte :=
  bs.zipIdx.map fun (b, i) =>
    stores.foldl (fun b t => if t.dpa ≤ dpa + i && dpa + i < t.dpa + t.data.length then t.data.getD (dpa + i - t.dpa) b else b) b

/-- Replaces `bs.length` bytes of a line at offset `o`. -/
def spliceBytes (line : List Byte) (o : Nat) (bs : List Byte) : List Byte :=
  line.take o ++ bs ++ line.drop (o + bs.length)

/-! ### Loads and stores of device memory -/

/-- What an access gives: a value; no data, its launch having failed (R283); an exception; a wait (R220). -/
inductive MemRes (α : Type) where
  | ok (s : State) (a : α)
  | noData (s : State)
  | exc (s : State) (x : Exc)
  | hold (s : State)

/-- A translation fault of a core access: it waits on a record when it replays, and otherwise is fatal and raises TRANSLATION
(R305-R309). -/
def State.coreFault {α : Type} (s : State) (c : CoreId) (va reason : Nat) (rp store rd : Bool) : MemRes α :=
  let ctx := (s.sc c).ctxid.toNat
  let w : Waiter := { cls := 0, core := c.val, stream := 0, write := store, read := rd }
  if replays reason rp (s.launchOfCore c.val) then
    .hold ((s.replayFault ctx va w).updSc c fun x => { x with run := .faultWait })
  else
    .exc (s.fatalFault c.val ctx va reason w) { code := excTranslation, info := storeBit store, eaddr := word va }

/-- A refused core load or AMO (R297). -/
def State.coreRefused {α : Type} (s : State) (c : CoreId) (va dpa : Nat) (store : Bool) : MemRes α :=
  let ctx := (s.sc c).ctxid.toNat
  .exc ((s.crossAlarm ctx dpa).failCore c.val clsCross (crossDetail s ctx dpa))
    { code := excTranslation, info := storeBit store ||| 8#8, eaddr := word va }

/-- An uncorrectable read by a core (R283): no data, the launch fails. -/
def State.coreBad {α : Type} (s : State) (c : CoreId) (dpa : Nat) : MemRes α :=
  .noData ((s.memAlarm dpa).failCore c.val clsMemory (memDetail dpa))

/-- log2 of an access size in ECAUSE.INFO; 16 bytes read as 8 (log 31). -/
def sizeInfo (n : Nat) : BitVec 8 := if n = 1 then 0#8 else if n = 2 then 1#8 else if n = 4 then 2#8 else 3#8

/-- The synchronous bus error of an access of `n` bytes (Table 8.1): one outside the context's partition (R21, log 193). -/
def busError (store : Bool) (ea n : Nat) : Exc :=
  { code := excBusError, info := storeBit store ||| sizeInfo n, eaddr := word ea }

/-- Reads `n` bytes of the frame at `dpa` as a core's request of `acc` bytes at `va`, its own buffered stores included. -/
def State.fetch (s : State) (c : CoreId) (va acc dpa n : Nat) : MemRes (List Byte) :=
  if s.outsidePart (s.sc c).ctxid.toNat dpa then .exc s (busError false va acc)
  else match s.devRead (s.sc c).ctxid.toNat dpa n (some (isleOf c).val) with
  | .ok s bs => .ok s (overlay (s.sc c).stores dpa bs)
  | .refused => s.coreRefused c va dpa false
  | .bad => s.coreBad c dpa

/-- Reads `n` bytes at offset `o` of a line that L1 holds: the hit touches its way (R242); a bad line delivers nothing, and the launch fails
(R245). -/
def State.hit (s : State) (c : CoreId) (line w o n : Nat) : MemRes (List Byte) :=
  match (s.sc c).l1Line line w with
  | some y =>
    if y.bad then
      .noData ((s.alarm alarmMemory (l1Source c) (word (y.dpaLine * 64))).failCore c.val clsMemory (detail [(6, 52), (y.dpaLine * 64, 0)]))
    else .ok (s.updSc c fun x => x.setL1 line w (some y) true) ((y.data.drop o).take n)
  | none => .noData s

/-- Loads `n` bytes at `ea`, within one line, at an access level (R240, R241, R244). A miss takes the one slot; a second miss waits
for the first fill, which is then complete. -/
def State.loadDev (s : State) (c : CoreId) (ea n : Nat) (level : BitVec 2) : MemRes (List Byte) :=
  let x := s.sc c
  let ctx := x.ctxid.toNat
  match s.translate ctx ea .read level with
  | .fault reason rp => s.coreFault c ea reason rp false true
  | .bad d => .noData (s.walkBad c.val d)
  | .ok dpa leaf =>
    if !leafC leaf then
      match s.fetch c ea n dpa n with
      | .ok s bs => .ok (s.updSc c fun x => { x with miss := .bypass }) bs
      | r => r
    else
      let line := ea / 64
      match x.l1Way ctx dpa with
      | some w => s.hit c line w (ea % 64) n
      | none =>
        match s.fetch c ea n (dpa - ea % 64) 64 with
        | .ok s bs =>
          let y : L1Line := { ctx := ctx, line := line, dpaLine := dpa / 64, data := bs, modified := false, bad := false }
          let s := (s.allocate c y).updSc c fun x => { x with miss := .fill ctx line }
          .ok s ((bs.drop (ea % 64)).take n)
        | r => r

/-- Drains the oldest buffered store. -/
def State.drainOldest (s : State) (c : CoreId) : State :=
  match (s.sc c).stores with
  | [] => s
  | b :: t => (s.updSc c fun x => { x with stores := t }).performStore c b

/-- Drains every buffered store, oldest first. -/
def State.drainAll (s : State) (c : CoreId) : State :=
  (s.sc c).stores.foldl (fun s _ => s.drainOldest c) s

/-- Puts a translated store in the store buffer; a hit updates the line as well, a full buffer first drains its oldest entry
(R240, R241; log 11). -/
def State.bufferStore (s : State) (c : CoreId) (ea dpa : Nat) (bs : List Byte) : State :=
  let s := if 16 ≤ (s.sc c).stores.length then s.drainOldest c else s
  s.updSc c fun x =>
    let ctx := x.ctxid.toNat
    let line := ea / 64
    let x := match x.l1Way ctx dpa with
      | some w =>
        match x.l1Line line w with
        | some y => x.setL1 line w (some { y with data := spliceBytes y.data (ea % 64) bs }) true
        | none => x
      | none => x
    let ep := match s.ctx ctx with
      | some k => k.epoch
      | none => 0#16
    { x with stores := x.stores ++
        [{ ea := word ea, dpa := dpa, ctx := ctx, epoch := ep, data := bs, retiredAt := x.retired + 1#64 }] }

/-- Stores bytes at `ea`, within one line, at an access level. -/
def State.storeDev (s : State) (c : CoreId) (ea : Nat) (bs : List Byte) (level : BitVec 2) : MemRes Unit :=
  match s.translate (s.sc c).ctxid.toNat ea .write level with
  | .fault reason rp => s.coreFault c ea reason rp true false
  | .bad d => .noData (s.walkBad c.val d)
  | .ok dpa _ => .ok (s.bufferStore c ea dpa bs) ()

/-- Writes back every modified L1 line of a core and marks it clean (R243 FENCE). -/
def State.cleanAll (s : State) (c : CoreId) : State :=
  let dirty := (s.sc c).l1.flatMap fun t => t.2.ways.toList.filterMap fun y =>
    match y with
    | some y => if y.modified then some y else none
    | none => none
  let s := dirty.foldl (fun s y => s.writeBack c y) s
  s.updSc c fun x =>
    { x with l1 := x.l1.map fun t => (t.1, { t.2 with ways := t.2.ways.map fun y => y.map fun y => { y with modified := false } }) }

/-- An uncorrectable word of a lagoon or a scratch way, `what` its tier in the MEMORY detail (R245, R246, R251, R283): nothing is delivered,
and the launch of the core that reads it fails. -/
def State.localBad (s : State) (c : CoreId) (source : BitVec 16) (what o : Nat) : State :=
  (s.alarm alarmMemory source (word o)).failCore c.val clsMemory (detail [(what, 52), (o, 0)])

/-- Reads bytes of lagoon `d` for core `c`. -/
def State.readLagoon (s : State) (c d : CoreId) (o n : Nat) : MemRes (List Byte) :=
  match badIn (s.sc d).lagoonBad o n with
  | some b => .noData (s.localBad c (lagoonSource d) 5 b)
  | none => .ok s (readBytes (s.sc d).lagoon o n)

/-- Reads bytes of the core's own scratch ways. -/
def State.readScratch (s : State) (c : CoreId) (o n : Nat) : MemRes (List Byte) :=
  match badIn (s.sc c).scratchBad o n with
  | some b => .noData (s.localBad c (l1Source c) 6 b)
  | none => .ok s (readBytes (s.sc c).scratch o n)

/-- A load of `n` bytes at D-space address `ea` by the core's instruction, at its level; the range lies in one line. -/
def State.coreLoad (s : State) (c : CoreId) (ea n : Nat) : MemRes (List Byte) :=
  match s.locate c ea n with
  | .dev => s.loadDev c ea n (s.sc c).priv
  | .own o => if s.engineHolds c o n then .hold s else s.readLagoon c c o n
  | .scratch o => s.readScratch c o n
  | .peer d o => s.readLagoon c d o n
  | .cross d => .exc (s.peerAttempt c d) (peerFault ea false)
  | .none sc => .exc s (windowFault ea false sc)

/-- A store of bytes at D-space address `ea` by the core's instruction. -/
def State.coreStore (s : State) (c : CoreId) (ea : Nat) (bs : List Byte) : MemRes Unit :=
  match s.locate c ea bs.length with
  | .dev => s.storeDev c ea bs (s.sc c).priv
  | .own o => if s.engineHolds c o bs.length then .hold s else .ok (s.storeLagoon c o bs) ()
  | .scratch o => .ok (s.updSc c fun x => x.putScratch o bs) ()
  | .peer d o => .ok (s.foreignWrite d o bs) ()
  | .cross d => .exc (s.peerAttempt c d) (peerFault ea true)
  | .none sc => .exc s (windowFault ea true sc)

/-- Turns an access into an instruction's result: `k` uses the value, and an access without data ends as `k0` says. -/
def MemRes.toRes {α : Type} (r : MemRes α) (k : State → α → Res) (k0 : State → Res) : Res :=
  match r with
  | .ok s a => k s a
  | .noData s => k0 s
  | .exc s x => .exc s x
  | .hold s => .hold s

end Sys2Proof.Machine
end

