-- ==== Sys2Proof/Machine/Scalar.lean ====
section
/-! DEFINITION. Meanings of the integer, predicate and floating-point instructions (R155-R163, R224). -/

namespace Sys2Proof.Machine

/-- The outcome of every meaning that only moves the state. -/
abbrev Out := Host.Outcome State Fault Refusal

/-! ### Integer and predicate instructions -/

/-- Encodings of ALU that are illegal: a reserved FUNC, or rb in a unary operation (R150, R155). -/
def aluBad (f : FmtA) : Bool := (aluOp f.func 0#64 0#64).isNone || (aluUnary f.func && f.rb != 0#5)

/-- ALU (R155). -/
def execAlu (c : CoreId) (g : Guard) (f : FmtA) (s : State) : Out :=
  .next (s.issue c g (aluBad f) (scalarBody c fun x => x.wg f.rd ((aluOp f.func (x.rg f.ra) (x.rg f.rb)).getD 0#64)))

/-- An instruction of layout I12 that combines ra and sext(imm12) (R156). -/
def immBody (c : CoreId) (f : FmtI12) (op : Word → Word → Word) : State → Res :=
  scalarBody c fun x => x.wg f.rd (op (x.rg f.ra) (f.imm.signExtend 64))

/-- ADDI (R156). -/
def execAddi (c : CoreId) (g : Guard) (f : FmtI12) (s : State) : Out := .next (s.issue c g false (immBody c f (· + ·)))

/-- ANDI (R156). -/
def execAndi (c : CoreId) (g : Guard) (f : FmtI12) (s : State) : Out := .next (s.issue c g false (immBody c f (· &&& ·)))

/-- ORI (R156). -/
def execOri (c : CoreId) (g : Guard) (f : FmtI12) (s : State) : Out := .next (s.issue c g false (immBody c f (· ||| ·)))

/-- XORI (R156). -/
def execXori (c : CoreId) (g : Guard) (f : FmtI12) (s : State) : Out := .next (s.issue c g false (immBody c f (· ^^^ ·)))

/-- SHI (R156): kind imm12[7:6], amount imm12[5:0], imm12[11:8] reserved. -/
def execShi (c : CoreId) (g : Guard) (f : FmtI12) (s : State) : Out :=
  .next (s.issue c g (f.imm.extractLsb' 8 4 != 0#4) (scalarBody c fun x =>
    x.wg f.rd (shiftOp (f.imm.extractLsb' 6 2) (x.rg f.ra) (f.imm.extractLsb' 0 6).toNat)))

/-- MOVI (R156). -/
def execMovi (c : CoreId) (g : Guard) (f : FmtI17) (s : State) : Out :=
  .next (s.issue c g false (scalarBody c fun x => x.wg f.rd (f.imm.signExtend 64)))

/-- MOVSH (R156). -/
def execMovsh (c : CoreId) (g : Guard) (f : FmtI17) (s : State) : Out :=
  .next (s.issue c g false (scalarBody c fun x => x.wg f.rd ((x.rg f.rd <<< 17) ||| f.imm.setWidth 64)))

/-- CMP (R157): FMT and the reserved field zero. -/
def execCmp (c : CoreId) (g : Guard) (f : FmtAC) (s : State) : Out :=
  .next (s.issue c g (f.fmt != 0#2 || f.rsv != 0#3 || 7#4 ≤ f.cond) (scalarBody c fun x =>
    x.wp f.pd ((intCond f.cond.toNat (x.rg f.ra) (x.rg f.rb)).getD false)))

/-- CMPI (R157). -/
def execCmpi (c : CoreId) (g : Guard) (f : FmtIC) (s : State) : Out :=
  .next (s.issue c g (f.cond = 7#3) (scalarBody c fun x =>
    x.wp f.pd ((intCond f.cond.toNat (x.rg f.ra) (f.imm.signExtend 64)).getD false)))

/-- Whether a register field names a predicate: its upper two bits are zero (R158). -/
def predField (r : BitVec 5) : Bool := r.extractLsb' 3 2 = 0#2

/-- The predicate that a field names. -/
def predOf (r : BitVec 5) : BitVec 3 := r.extractLsb' 0 3

/-- Illegal PRED encodings (R158). -/
def predBad (f : FmtA) : Bool :=
  if f.func ≤ 3#7 then !(predField f.rd && predField f.ra && predField f.rb)
  else if f.func = 4#7 then !(predField f.rd && predField f.ra && f.rb = 0#5)
  else if f.func = 8#7 then f.ra != 0#5 || f.rb != 0#5
  else if f.func = 9#7 then f.rd != 0#5 || f.rb != 0#5
  else true

/-- PRED functions (Table 6.8). -/
def predOp (f : FmtA) (x : Scalar) : Scalar :=
  let a := x.rp (predOf f.ra)
  let b := x.rp (predOf f.rb)
  match f.func with
  | 0#7 => x.wp (predOf f.rd) (a && b)
  | 1#7 => x.wp (predOf f.rd) (a || b)
  | 2#7 => x.wp (predOf f.rd) (a != b)
  | 3#7 => x.wp (predOf f.rd) (a && !b)
  | 4#7 => x.wp (predOf f.rd) (!a)
  | 8#7 => x.wg f.rd x.preds
  | _ => { x with p := ((x.rg f.ra).setWidth 8 &&& 0xfe#8) ||| 1#8 }

/-- PRED (R158). -/
def execPred (c : CoreId) (g : Guard) (f : FmtA) (s : State) : Out :=
  .next (s.issue c g (predBad f) (scalarBody c (predOp f)))

/-- MULDIV (R159): no exception and no flag. -/
def execMuldiv (c : CoreId) (g : Guard) (f : FmtA) (s : State) : Out :=
  .next (s.issue c g (mulDivOp f.func 0#64 0#64).isNone (scalarBody c fun x =>
    x.wg f.rd ((mulDivOp f.func (x.rg f.ra) (x.rg f.rb)).getD 0#64)))

/-! ### Scalar floating point -/

/-- Ends a floating-point instruction (R160, R224): flags accumulate in FSTAT; a raised flag whose trap is enabled raises
FP_TRAP and nothing is written. -/
def fpFinish (c : CoreId) (s : State) (fl : Flags) (write : Scalar → Scalar) : Res :=
  let s := s.updSc c fun x => { x with fflags := x.fflags ||| fl.extractLsb' 0 6 }
  let en := (s.sc c).trapEn
  if fl.traps en then .exc s { code := excFpTrap, info := (fl.ieee &&& en).setWidth 8, eaddr := 0#64 }
  else .done (s.updSc c write)

/-- Format and operation of an FPU FUNC (R161). -/
def fpuFmtOf (f : FmtA) : BitVec 2 := f.func.extractLsb' 5 2
def fpuOpOf (f : FmtA) : BitVec 5 := f.func.extractLsb' 0 5

def fpuBad (f : FmtA) : Bool := fpuFmtOf f = 3#2 || 0x1b#5 ≤ fpuOpOf f || (fpuUnary (fpuOpOf f) && f.rb != 0#5)

/-- The result of an FPU instruction on the core's registers. -/
def fpuResult (f : FmtA) (x : Scalar) : FpRes :=
  match fpuFmt (fpuFmtOf f) with
  | some fl => (fpuOp (fpuOpOf f) fl x.fround (x.rg f.ra) (x.rg f.rb) (x.rg f.rd)).getD (0#64, Flags.none)
  | none => (0#64, Flags.none)

/-- FPU (R161). -/
def execFpu (c : CoreId) (g : Guard) (f : FmtA) (s : State) : Out :=
  .next (s.issue c g (fpuBad f) fun s =>
    let r := fpuResult f (s.sc c)
    fpFinish c s r.2 fun x => x.wg f.rd r.1)

/-- The result of FCMP on the core's registers. -/
def fcmpResult (f : FmtAC) (x : Scalar) : Bool × Flags :=
  match fpuFmt f.fmt with
  | some fl => (fcmpOp f.cond fl (x.rg f.ra) (x.rg f.rb)).getD (false, Flags.none)
  | none => (false, Flags.none)

/-- FCMP (R162). -/
def execFcmp (c : CoreId) (g : Guard) (f : FmtAC) (s : State) : Out :=
  .next (s.issue c g (f.fmt = 3#2 || f.rsv != 0#3 || 8#4 ≤ f.cond) fun s =>
    let r := fcmpResult f (s.sc c)
    fpFinish c s r.2 fun x => x.wp f.pd r.1)

/-- FCVT (R163): RM SR and the reserved mode are illegal; DYN takes FROUND. A poisoned source sets POISON_IN. -/
def execFcvt (c : CoreId) (g : Guard) (f : FmtIV) (s : State) : Out :=
  .next (s.issue c g (!fcvtLegal f.sfmt f.dfmt || f.rm = 5#3 || f.rm = 6#3) fun s =>
    let x := s.sc c
    let rm := if f.rm = rmDYN then x.fround else f.rm
    let r := fcvtOp f.sfmt f.dfmt rm f.om (x.rg f.ra)
    fpFinish c s (r.2.1 ||| Flags.when r.2.2 Flags.poisonIn) fun x => x.wg f.rd r.1)

end Sys2Proof.Machine
end

