-- ==== Sys2Proof/Machine/Control.lean ====
section
/-! DEFINITION. Meanings of control transfers, the shadow stack (R235-R238) and the SYS instructions but the port accesses
(R164, R165, R174, R219-R226, R231-R233). -/

namespace Sys2Proof.Machine

/-- Whether every field of a SYS instruction outside `keep` (rd, ra, rb) is zero (R165). -/
def sysBad (f : FmtSys) (rd ra rb : Bool) : Bool :=
  (!rd && f.rd != 0#5) || (!ra && f.ra != 0#5) || (!rb && f.rb != 0#5)

/-! ### The shadow stack -/

/-- Whether the control-flow check is live (R228). -/
def State.checkLive (s : State) (c : CoreId) : Bool := (s.sc c).opmode = opService

def controlFlow (info : BitVec 8) (ea : Word) : Exc := { code := excControlFlow, info := info, eaddr := ea }

/-- The address of spill `n` (R236). -/
def spillAddr (x : Scalar) (n : BitVec 32) : Word := x.ssbase + (n.setWidth 64 <<< 3)

/-- A spill or reload that fails raises CONTROL_FLOW (R236), whatever its access has reported before; one that waits on a fault record goes
on waiting (R305, R307). -/
def MemRes.shadow {α : Type} (ea : Word) : MemRes α → MemRes α
  | .exc s _ => .exc s (controlFlow 3#8 ea)
  | .noData s => .exc s (controlFlow 3#8 ea)
  | r => r

/-- Writes a spilled entry with monitor-level access (R236, R295). A frame tag that refuses it is met at once, while the push can still
fail; an address that is no multiple of 8 fails (log 202). -/
def State.spill (s : State) (c : CoreId) (ea v : Word) : MemRes Unit :=
  let ctx := (s.sc c).ctxid.toNat
  MemRes.shadow ea <|
    if ea.toNat % 8 != 0 then .exc s (controlFlow 3#8 ea)
    else
      match s.translate ctx ea.toNat .write privMonitor with
      | .fault reason rp => s.coreFault c ea.toNat reason rp true false
      | .bad d => .noData (s.walkBad c.val d)
      | .ok dpa _ =>
        if s.outsidePart ctx dpa then .exc s (busError true ea.toNat 8)
        else if s.tagOk ctx dpa then .ok (s.bufferStore c ea.toNat dpa (leBytes 8 v.toNat)) ()
        else s.coreRefused c ea.toNat dpa true

/-- Reads back a spilled entry with monitor-level access, as a load does. -/
def State.unspill (s : State) (c : CoreId) (ea : Word) : MemRes Word :=
  MemRes.shadow ea <|
    if ea.toNat % 8 != 0 then .exc s (controlFlow 3#8 ea)
    else
      match s.loadDev c ea.toNat 8 privMonitor with
      | .ok s bs => .ok s (word (leNat bs))
      | .noData s => .noData s
      | .exc s x => .exc s x
      | .hold s => .hold s

/-- Pushes a return address (R235, R236): the new state, the CONTROL_FLOW exception of its spill, or the spill's wait. -/
def State.shadowPush (s : State) (c : CoreId) (ret : Word) : MemRes Unit :=
  let x := s.sc c
  if x.ss.length < 64 then .ok (s.updSc c fun x => { x with ss := x.ss ++ [ret] }) ()
  else
    let ea := spillAddr x x.ssSpilled
    if x.sslimit.toNat < 8 * x.ssSpilled.toNat + 8 then .exc s (controlFlow 1#8 ea)
    else
      match s.spill c ea (x.ss.headD 0#64) with
      | .ok s _ => .ok (s.updSc c fun x => { x with ss := x.ss.tail ++ [ret], ssSpilled := x.ssSpilled + 1#32 }) ()
      | r => r

/-- Pops the top entry, reloading a spilled one first when the core's own are empty (R235, R236). -/
def State.shadowPop (s : State) (c : CoreId) : MemRes Word :=
  let x := s.sc c
  match x.ss.getLast? with
  | some v => .ok (s.updSc c fun x => { x with ss := x.ss.dropLast }) v
  | none =>
    if x.ssSpilled = 0#32 then .exc s (controlFlow 2#8 (x.rg 31#5))
    else
      let ea := spillAddr x (x.ssSpilled - 1#32)
      match s.unspill c ea with
      | .ok s v => .ok (s.updSc c fun x => { x with ssSpilled := x.ssSpilled - 1#32 }) v
      | r => r

/-! ### Branches and calls -/

/-- The target of BR and CALL (R164). -/
def branchTarget (pc : Word) (off : BitVec 22) : Word := pc + (off.signExtend 64 <<< 2)

/-- A misaligned branch target (R165, Table 8.1): INFO[3], and INFO[1:0] for the 4 bytes of an instruction (DEDUCED, log 62). -/
def badTarget (t : Word) : Exc := { code := excMisaligned, info := 0x0a#8, eaddr := t }

def misTarget (t : Word) : Bool := t &&& 3#64 != 0#64

/-- Pushes the return address when the check is live, links g31 and jumps (R164, R165, R235). -/
def callTo (c : CoreId) (s : State) (t : Word) : Res :=
  let ret := (s.sc c).pc + 4#64
  let link (s : State) : Res := .goto (s.updSc c fun x => x.wg 31#5 ret) t
  if s.checkLive c then
    (s.shadowPush c ret).toRes (fun s _ => link s) .done
  else link s

/-- BR (R164). -/
def execBr (c : CoreId) (g : Guard) (off : BitVec 22) (s : State) : Out :=
  .next (s.issue c g false fun s => .goto s (branchTarget (s.sc c).pc off))

/-- CALL (R164). -/
def execCall (c : CoreId) (g : Guard) (off : BitVec 22) (s : State) : Out :=
  .next (s.issue c g false fun s => callTo c s (branchTarget (s.sc c).pc off))

/-- NOP (Table 6.12). -/
def execNop (c : CoreId) (g : Guard) (f : FmtSys) (s : State) : Out :=
  .next (s.issue c g (sysBad f false false false) .done)

/-- JR (R165). -/
def execJr (c : CoreId) (g : Guard) (f : FmtSys) (s : State) : Out :=
  .next (s.issue c g (sysBad f false true false) fun s =>
    let t := (s.sc c).rg f.ra
    if misTarget t then .exc s (badTarget t) else .goto s t)

/-- CALLR (R165): reads ra before it writes g31. -/
def execCallr (c : CoreId) (g : Guard) (f : FmtSys) (s : State) : Out :=
  .next (s.issue c g (sysBad f false true false) fun s =>
    let t := (s.sc c).rg f.ra
    if misTarget t then .exc s (badTarget t) else callTo c s t)

/-- RET (R165, R235): while the check is live the popped entry must equal g31. -/
def execRet (c : CoreId) (g : Guard) (f : FmtSys) (s : State) : Out :=
  .next (s.issue c g (sysBad f false false false) fun s =>
    let t := (s.sc c).rg 31#5
    if misTarget t then .exc s (badTarget t)
    else if s.checkLive c then
      match s.shadowPop c with
      | .ok s' v => if v = t then .goto s' t else .exc s (controlFlow 0#8 t)
      | .exc s' x => .exc s' x
      | .noData s' => .done s'
      | .hold s' => .hold s'
    else .goto s t)

/-! ### Return from a handler (R225, R226) -/

/-- PRIV_RETURN (R225, R226, Table 8.1): with EPRIV at monitor level, or from monitor level, the core halts; it is taken at monitor
level otherwise. -/
def State.privReturn (s : State) (c : CoreId) : State :=
  let x := s.sc c
  let e : Exc := { code := excPrivReturn, info := (x.epc.extractLsb' 0 2).setWidth 8, eaddr := x.pc }
  if privMonitor ≤ x.epriv || privMonitor ≤ x.priv then s.halt c e else s.takeAt c e x.pc privMonitor

/-- A successful ERET. -/
def State.eret (s : State) (c : CoreId) : State :=
  let s := s.retire c ((s.sc c).epc &&& ~~~3#64)
  s.updSc c fun x =>
    { x with
      priv := x.epc.extractLsb' 0 2
      epriv := x.epc.extractLsb' 0 2
      shieldOpen := false
      shieldUsed := false
      monitorEntry := false
      runtimeEntry := false }

/-- ERET (R225). No core ever runs at level 0b11 (R219): that target always ranks above EPRIV (log 12). -/
def execEret (c : CoreId) (g : Guard) (f : FmtSys) (s : State) : Out :=
  .next (s.issue c g (sysBad f false false false) (atLevel privRuntime c fun s =>
    let x := s.sc c
    let t := x.epc.extractLsb' 0 2
    if x.epriv < t || t = 3#2 then .hold (s.privReturn c) else .hold (s.eret c)))

/-- SHIELD (R232). -/
def execShield (c : CoreId) (g : Guard) (f : FmtSys) (s : State) : Out :=
  .next (s.issue c g (sysBad f false false false) (atLevel privRuntime c (scalarBody c fun x =>
    if x.priv = privMonitor || x.shieldUsed then x
    else { x with shieldOpen := true, shieldAt := x.cycles, shieldUsed := true })))

/-- TRAP (Table 6.12): the service number is the rb field; at monitor level it raises PRIVILEGE with INFO 0x01. -/
def execTrap (c : CoreId) (g : Guard) (f : FmtSys) (s : State) : Out :=
  .next (s.issue c g (sysBad f false false true) fun s =>
    if privMonitor ≤ (s.sc c).priv then .exc s { code := excPrivilege, info := 1#8, eaddr := 0#64 }
    else .exc s { code := excSoftwareTrap, info := f.rb.setWidth 8, eaddr := 0#64 })

/-- What FENCE does (R174, R243): modified lines written back, stores visible, the outstanding load returned. -/
def State.fence (s : State) (c : CoreId) : State :=
  ((s.drainAll c).cleanAll c).updSc c fun x => { x with miss := .none }

/-- FENCE (R174, R230): it makes every store visible, and completes when no late error of one is yet to be recorded. -/
def execFence (c : CoreId) (g : Guard) (f : FmtSys) (s : State) : Out :=
  .next (s.issue c g (sysBad f false false false) fun s =>
    let t := s.fence c
    if (t.sc c).late = [] then .done t else .hold (t.settleLate c))

/-- WAIT (R233): at monitor level PRIVILEGE with INFO 0x03. -/
def execWait (c : CoreId) (g : Guard) (f : FmtSys) (s : State) : Out :=
  .next (s.issue c g (sysBad f false false false) (atLevel privRuntime c fun s =>
    if privMonitor ≤ (s.sc c).priv then .exc s { code := excPrivilege, info := 3#8, eaddr := 0#64 }
    else if s.irqEnabled c then .done s
    else .done (s.updSc c fun x => { x with run := .waiting })))

/-- The half and number of a c-register selector: [4:3] reserved, [2] HALF, [1:0] the number (R165). -/
def selBad (r : BitVec 5) : Bool := r.extractLsb' 3 2 != 0#2
def selHalf (r : BitVec 5) : Bool := r.getLsbD 2
def selNum (r : BitVec 5) : BitVec 2 := r.extractLsb' 0 2

/-- MFC (Table 6.12). -/
def execMfc (c : CoreId) (g : Guard) (f : FmtSys) (s : State) : Out :=
  .next (s.issue c g (sysBad f true true false || selBad f.ra) (scalarBody c fun x =>
    x.wg f.rd (x.rc (selHalf f.ra) (selNum f.ra))))

/-- MTC (Table 6.12). -/
def execMtc (c : CoreId) (g : Guard) (f : FmtSys) (s : State) : Out :=
  .next (s.issue c g (sysBad f true true false || selBad f.rd) (scalarBody c fun x =>
    x.wc (selHalf f.rd) (selNum f.rd) (x.rg f.ra)))

/-- RDPC (Table 6.12). -/
def execRdpc (c : CoreId) (g : Guard) (f : FmtSys) (s : State) : Out :=
  .next (s.issue c g (sysBad f true false false) (scalarBody c fun x => x.wg f.rd x.pc))

/-! ### Interrupts -/

/-- Whether an enabled, pending line may be taken now (R231): a running MX.SEQ first ends the cycle whose steps it has begun (R109). -/
def State.irqTakeable (s : State) (c : CoreId) : Bool :=
  let x := s.sc c
  s.clocked c && s.irqEnabled c && !(s.mx c).midCycle &&
    (x.priv = privTask || (x.priv = privRuntime && !x.shielded && !x.hold)) &&
    (x.run = .running || x.run = .waiting || x.run = .faultWait || x.run = .matrix)

/-- The lowest-numbered line pending and enabled (R221). -/
def State.irqLine (s : State) (c : CoreId) : Nat :=
  let p := s.irqPend c &&& (s.sc c).irqmask
  ((List.range 7).find? fun i => p.getLsbD i).getD 0

/-- Takes a core's own waiters off every fault record, and off the faults that wait for a number, of which one left without a waiter is
dropped (log 13). -/
def State.dropCoreWaiter (s : State) (c : CoreId) : State :=
  let own (w : Waiter) : Bool := w.cls = 0 && w.core = c.val
  s.updHb fun h =>
    { h with
      faults := h.faults.map fun x => (x.1, x.2.without own)
      faultsWaiting := (h.faultsWaiting.map fun x => if x.2 then x else (x.1.without own, false)).filter fun x =>
        x.2 || !x.1.waiters.isEmpty }

/-- INTERRUPT (R220, R221, R231): taken at runtime level; an instruction that waits on a replayable fault is abandoned and its
waiter leaves the record (R234), and a running MX.SEQ records its position (R109). Without a line that may be taken nothing happens. -/
def execInterrupt (c : CoreId) (s : State) : Out :=
  .next (
    if s.irqTakeable c then
      let x : Exc := { code := BitVec.ofNat 8 (s.irqLine c), info := 0#8, eaddr := 0#64 }
      let s := if (s.sc c).run = .faultWait then s.dropCoreWaiter c else s
      s.enter c true x (s.sc c).pc privRuntime
    else s)

/-- SHIELD_WINDOW_END (R232): the window's count reaches zero, which takes CYCLES past its end. -/
def execShieldWindowEnd (c : CoreId) (s : State) : Out :=
  .next (s.updSc c fun x =>
    if x.shieldOpen then
      { x with shieldOpen := false, cycles := if x.cycles - x.shieldAt ≤ 4096#64 then x.shieldAt + 4097#64 else x.cycles }
    else x)

end Sys2Proof.Machine
end

