-- ==== Sys2Proof/Machine/LoadStore.lean ====
section
/-! DEFINITION. Meanings of the loads and stores, the CACHE operations, the atomics, the long copies and the events of the
store buffer and the miss slot (R169-R179, R230, R241-R243, R257, R258). -/

namespace Sys2Proof.Machine

/-! ### LD, LDU, ST -/

def misaligned (store : Bool) (size : BitVec 2) (ea : Word) : Exc :=
  { code := excMisaligned, info := storeBit store ||| size.setWidth 8, eaddr := ea }

/-- Forms the effective address, checks it, and runs `k` on it (R169, R171). -/
def withEa (c : CoreId) (f : FmtM) (store : Bool) (k : State → Nat → Option Word → Res) : State → Res := fun s =>
  let x := s.sc c
  match effAddr x f.rb f.size f.am f.amf with
  | .badBuffer => .exc s (misaligned store f.size (x.rg f.rb))
  | .ok ea upd =>
    if ea.toNat % 2 ^ f.size.toNat != 0 then .exc s (misaligned store f.size ea) else k s ea.toNat upd

/-- Writes back the base register, if the mode updates it (R169, R172). -/
def baseUpdate (rb : BitVec 5) (upd : Option Word) (x : Scalar) : Scalar :=
  match upd with
  | some v => x.wg rb v
  | none => x

/-- Extends loaded bytes (R173). -/
def extendLoad (signed : Bool) (n : Nat) (bs : List Byte) : Word :=
  let v := leNat bs
  if signed && v.testBit (8 * n - 1) then BitVec.ofInt 64 ((v : Int) - 2 ^ (8 * n)) else word v

/-- Illegal load encodings (R150, R172). -/
def loadBad (f : FmtM) : Bool := amReserved f.am f.amf || ((f.am = 2#3 || f.am = 3#3) && f.rt = f.rb)

def loadBody (c : CoreId) (f : FmtM) (signed : Bool) : State → Res :=
  withEa c f false fun s ea upd =>
    let n := 2 ^ f.size.toNat
    (s.coreLoad c ea n).toRes
      (fun s bs => .done (s.updSc c fun x => baseUpdate f.rb upd (x.wg f.rt (extendLoad signed n bs))))
      (fun s => .done (s.updSc c (baseUpdate f.rb upd)))

/-- LD (R169, R173): sign-extends. -/
def execLd (c : CoreId) (g : Guard) (f : FmtM) (s : State) : Out := .next (s.issue c g (loadBad f) (loadBody c f true))

/-- LDU (R169, R173): zero-extends. -/
def execLdu (c : CoreId) (g : Guard) (f : FmtM) (s : State) : Out := .next (s.issue c g (loadBad f) (loadBody c f false))

/-- ST (R169, R172, R173): reads rt before any base-register update. -/
def execSt (c : CoreId) (g : Guard) (f : FmtM) (s : State) : Out :=
  .next (s.issue c g (amReserved f.am f.amf) (withEa c f true fun s ea upd =>
    (s.coreStore c ea (leBytes (2 ^ f.size.toNat) ((s.sc c).rg f.rt).toNat)).toRes
      (fun s _ => .done (s.updSc c (baseUpdate f.rb upd)))
      (fun s => .done (s.updSc c (baseUpdate f.rb upd)))))

/-! ### CACHE operations (R175, R243) -/

/-- SIZE other than 0b11 or AM other than OFF is illegal. -/
def cacheBad (f : FmtCache) : Bool := f.size != 3#2 || f.am != 0#3

/-- The line that a CACHE operation names: ea with its low six bits ignored. -/
def cacheEa (x : Scalar) (f : FmtCache) : Nat :=
  ((x.rg f.rb + (f.amf.signExtend 64 <<< 3)) &&& ~~~63#64).toNat

/-- Runs a CACHE operation other than PREF and DZL: no effect on a core-local window, whichever context its core serves; a window fault
elsewhere outside the device space; and `k` on the translated line (R175). -/
def cacheOn (c : CoreId) (f : FmtCache) (k : State → Nat → Res) : State → Res := fun s =>
  let ea := cacheEa (s.sc c) f
  match s.locate c ea 64 with
  | .dev =>
    match s.walk (s.sc c).ctxid.toNat ea with
    | .ok dpa _ => k s dpa
    | .fault reason rp => (s.coreFault (α := Unit) c ea reason rp false true).toRes (fun s _ => .done s) .done
    | .bad d => .done (s.walkBad c.val d)
  | .own _ => .done s
  | .scratch _ => .done s
  | .peer _ _ => .done s
  | .cross _ => .done s
  | .none sc => .exc s (windowFault ea false sc)

/-- Applies `k` to the core's own copy of the line at `dpa`, if it holds one. -/
def State.onLine (s : State) (c : CoreId) (dpa : Nat) (k : State → Nat → L1Line → State) : State :=
  let x := s.sc c
  match x.l1Way x.ctxid.toNat dpa with
  | some w =>
    match x.l1Line (dpa / 64) w with
    | some y => k s w y
    | none => s
  | none => s

/-- Writes a line back if modified, then keeps it clean or drops it. -/
def State.cleanLine (s : State) (c : CoreId) (dpa : Nat) (drop : Bool) : State :=
  s.onLine c dpa fun s w y =>
    (s.writeBack c y).updSc c fun x => x.setL1 y.line w (if drop then none else some { y with modified := false, bad := false }) false

/-- Drops a line without writing it back. -/
def State.dropLine (s : State) (c : CoreId) (dpa : Nat) : State :=
  s.onLine c dpa fun s w y => s.updSc c fun x => x.setL1 y.line w none false

/-- Zeroes the line at `ea` in L1 and marks it modified, allocating it if it is absent (R243). -/
def State.zeroLine (s : State) (c : CoreId) (ea dpa : Nat) : State :=
  let x := s.sc c
  let ctx := x.ctxid.toNat
  let y : L1Line :=
    { ctx := ctx, line := ea / 64, dpaLine := dpa / 64, data := List.replicate 64 0#8, modified := true, bad := false }
  match x.l1Way ctx dpa with
  | some w => s.updSc c fun x => x.setL1 y.line w (some y) true
  | none => s.allocate c y

/-- DZL (R175, R243). -/
def execDzl (c : CoreId) (g : Guard) (f : FmtCache) (s : State) : Out :=
  .next (s.issue c g (cacheBad f) fun s =>
    let ea := cacheEa (s.sc c) f
    let zeros := List.replicate 64 0#8
    match s.locate c ea 64 with
    | .dev =>
      match s.translate (s.sc c).ctxid.toNat ea .write (s.sc c).priv with
      | .fault reason rp => (s.coreFault (α := Unit) c ea reason rp true false).toRes (fun s _ => .done s) .done
      | .bad d => .done (s.walkBad c.val d)
      | .ok dpa leaf => if leafC leaf then .done (s.zeroLine c ea dpa) else .done (s.bufferStore c ea dpa zeros)
    | _ => (s.coreStore c ea zeros).toRes (fun s _ => .done s) .done)

/-- PREF (R175, R241): starts the fill when no miss is outstanding; an untranslatable address makes it do nothing. -/
def execPref (c : CoreId) (g : Guard) (f : FmtCache) (s : State) : Out :=
  .next (s.issue c g (cacheBad f) fun s =>
    let x := s.sc c
    let ea := cacheEa x f
    let ctx := x.ctxid.toNat
    match s.locate c ea 64 with
    | .dev =>
      match s.translate ctx ea .read x.priv with
      | .fault _ _ => .done s
      | .bad _ => .done s
      | .ok dpa leaf =>
        if !leafC leaf then .done s
        else
          match x.l1Way ctx dpa with
          | some w =>
            match x.l1Line (ea / 64) w with
            | some y => .done (s.updSc c fun x => x.setL1 (ea / 64) w (some y) true)
            | none => .done s
          | none =>
            if x.miss != .none then .done s
            else
              match s.devRead ctx dpa 64 (some (isleOf c).val) with
              | .ok s bs =>
                let y : L1Line :=
                  { ctx := ctx, line := ea / 64, dpaLine := dpa / 64, data := overlay x.stores dpa bs, modified := false, bad := false }
                .done ((s.allocate c y).updSc c fun x => { x with miss := .fill ctx (ea / 64) })
              | _ => .done s
    | _ => .done s)

/-- CLEAN (R243). -/
def execClean (c : CoreId) (g : Guard) (f : FmtCache) (s : State) : Out :=
  .next (s.issue c g (cacheBad f) (cacheOn c f fun s dpa => .done (s.cleanLine c dpa false)))

/-- FLUSH (R243). -/
def execFlush (c : CoreId) (g : Guard) (f : FmtCache) (s : State) : Out :=
  .next (s.issue c g (cacheBad f) (cacheOn c f fun s dpa => .done (s.cleanLine c dpa true)))

/-- INVAL (R243), from runtime level. -/
def execInval (c : CoreId) (g : Guard) (f : FmtCache) (s : State) : Out :=
  .next (s.issue c g (cacheBad f) (atLevel privRuntime c (cacheOn c f fun s dpa => .done (s.dropLine c dpa))))

/-- L1_FILL (R241): the outstanding fill or bypassing load completes, and the slot is free. -/
def execL1Fill (c : CoreId) (s : State) : Out := .next (s.updSc c fun x => { x with miss := .none })

/-- STORE_BUFFER_DRAIN (R174, R241): entry `k` becomes visible; stores may drain in any order. Entries that write some of the
same bytes as an older one drain after it, so that a later store is not lost (log 11). -/
def execStoreBufferDrain (c : CoreId) (k : BitVec 4) (s : State) : Out :=
  .next (
    let xs := (s.sc c).stores
    let blocked := match xs[k.toNat]? with
      | some b => (xs.take k.toNat).any fun t => t.meets b.dpa b.data.length
      | none => false
    if blocked then s
    else
      match s.takeStore c k.toNat with
      | some (b, s) => (s.performStore c b).settleLate c
      | none => s)

/-- LATE_BUS_ERROR (R230): buffered store `k` ends in a bus error. -/
def execLateBusError (c : CoreId) (k : BitVec 4) (s : State) : Out :=
  .next (
    match s.takeStore c k.toNat with
    | none => s
    | some (b, s) => (s.queueLate c { ea := b.ea, retiredAt := b.retiredAt }).settleLate c)

/-- LBINFO as its port reads (Table 6.19). -/
def Scalar.lbinfo (x : Scalar) : Word := (if x.lbValid then 1#64 <<< 63 else 0#64) ||| x.lbCount.setWidth 64

/-- Reads LBINFO into a register as an IN does, which clears VALID (R14): the next late error that waits comes as it retires (R230). -/
def lbinfoIn (s : State) (c : CoreId) (g : Guard) (rd : BitVec 5) : State :=
  s.issue c g false (scalarBody c fun x => { x.wg rd x.lbinfo with lbValid := false })

/-- LBINFO_READ (R14, R230): an IN of LBINFO into `rd`. -/
def execLbinfoRead (c : CoreId) (rd : BitVec 5) (s : State) : Out := .next (lbinfoIn s c alwaysGuard rd)

/-! ### Atomics (R257, R258) -/

/-- Integer and floating-point atomic operations (Table 9.3) on `w` bits: the new value; `none` for a reserved FUNC. -/
def amoOp (func : BitVec 7) (old rb rd : Nat) : Option Nat :=
  let w := if func.getLsbD 0 then 32 else 64
  let b := rb % 2 ^ w
  let so := (intVal w true old)
  let sb := (intVal w true b)
  let f := if func.getLsbD 0 then binary32 else binary64
  let fp (op : FVal → FVal → FRes) : Nat := (encodeFl f Rnd.rne false (op (decodeFl f old) (decodeFl f b)).1).bits
  match func.toNat / 2 with
  | 0 => some b
  | 1 => some (if old = rd % 2 ^ w then b else old)
  | 2 => some ((old + b) % 2 ^ w)
  | 3 => some (old &&& b)
  | 4 => some (old ||| b)
  | 5 => some (old ^^^ b)
  | 6 => some (if valCompare so sb = .lt then old else b)
  | 7 => some (if valCompare so sb = .lt then b else old)
  | 8 => some (min old b)
  | 9 => some (max old b)
  | 10 => some (fp (fAdd Rnd.rne))
  | 11 => some (fp fMinimum)
  | 12 => some (fp fMaximum)
  | _ => none

/-- The old value as rd receives it (R257). -/
def amoOld (func : BitVec 7) (old : Nat) : Word :=
  if func.getLsbD 0 && func.toNat / 2 < 10 then ((word old).setWidth 32).signExtend 64 else word old

/-- AMO (R176, R243, R257, R258). -/
def execAmo (c : CoreId) (g : Guard) (f : FmtA) (s : State) : Out :=
  .next (s.issue c g (amoOp f.func 0 0 0).isNone fun s =>
    let x := s.sc c
    let ea := (x.rg f.ra).toNat
    let n := if f.func.getLsbD 0 then 4 else 8
    if ea % n != 0 then .exc s (misaligned true (if n = 4 then 2#2 else 3#2) (word ea))
    else
      match s.locate c ea n with
      | .dev =>
        let ctx := x.ctxid.toNat
        match s.translate ctx ea .amo x.priv with
        | .fault reason rp => (s.coreFault (α := Unit) c ea reason rp true true).toRes (fun s _ => .done s) .done
        | .bad d => .done (s.walkBad c.val d)
        | .ok dpa _ =>
          let s := (s.cleanLine c dpa true).drainAll c
          if s.outsidePart ctx dpa then .exc s (busError true ea n)
          else match s.devRead ctx dpa n (some (isleOf c).val) with
          | .refused => (s.coreRefused (α := Unit) c ea dpa true).toRes (fun s _ => .done s) .done
          | .bad => (s.coreBad (α := Unit) c dpa).toRes (fun s _ => .done s) .done
          | .ok s bs =>
            let old := leNat bs
            let new := (amoOp f.func old (x.rg f.rb).toNat (x.rg f.rd).toNat).getD old
            .done ((s.performWrite c.val ctx dpa (leBytes n new)).updSc c fun x => x.wg f.rd (amoOld f.func old))
      | .cross d => .exc (s.peerAttempt c d) (peerFault ea true)
      | .none sc => .exc s (windowFault ea true sc)
      | .scratch _ => .exc s (windowFault ea true true)
      | _ => .exc s (windowFault ea true false))

/-! ### LCOPY and ZFILL (R177-R179) -/

/-- Reads bytes of a range in a core-local window. -/
def State.readPlace (s : State) (c : CoreId) (p : Place) (n : Nat) : MemRes (List Byte) :=
  match p with
  | .own o => s.readLagoon c c o n
  | .scratch o => s.readScratch c o n
  | .peer d o => s.readLagoon c d o n
  | _ => .ok s []

/-- Writes bytes to a range in a core-local window. -/
def State.writePlace (s : State) (c : CoreId) (p : Place) (bs : List Byte) : State :=
  match p with
  | .own o => s.storeLagoon c o bs
  | .scratch o => s.updSc c fun x => x.putScratch o bs
  | .peer d o => s.foreignWrite d o bs
  | _ => s

/-- Checks that a range lies in one core-local window (R177 step 3) and runs `k` on it. -/
def inWindow (s : State) (c : CoreId) (ea n : Nat) (store : Bool) (k : Place → Res) : Res :=
  match s.locate c ea n with
  | .dev => .exc s (windowFault ea store false)
  | .none sc => .exc s (windowFault ea store sc)
  | .cross d => .exc (s.peerAttempt c d) (peerFault ea store)
  | .own o => if s.engineHolds c o n then .hold s else k (.own o)
  | p => k p

/-- LPROG after a long operation that has done `done` bytes and is pending, or not (Table 6.17). -/
def Scalar.setLprog (x : Scalar) (valid kind dir : Bool) (done : Nat) : Scalar :=
  { x with lprogValid := valid, lprogKind := kind, lprogDir := dir, lprogDone := BitVec.ofNat 21 done }

/-- The end of a long operation: g[rb] zero, LPROG zero (R177 step 5). -/
def longEnd (c : CoreId) (rb : BitVec 5) (s : State) : Res :=
  .done (s.updSc c fun x => (x.wg rb 0#64).setLprog false false false 0)

/-- Bytes of the `n` that remain which a long operation moves now: all, or, where an interrupt arrives meanwhile, a free number of whole
64-byte steps (R178; log 153). -/
def State.longSteps (s : State) (c : CoreId) (n : Nat) : Nat × State :=
  if s.irqTakeable c then
    let (k, s) := s.takeFree
    (min n (Config.freeNat k % ((n + 63) / 64 + 1) * 64), s)
  else (n, s)

/-- Moves bytes of a long operation (R177 step 5, R178): `done` are moved already, `n` remain, `dir` is its direction. `move` writes `m`
bytes that start at offset `o` of the ranges; a source with an uncorrectable word delivers nothing (R283). With all moved the operation
ends; otherwise g[rb] falls, LPROG says how far it got, and the instruction stays at its place for the interrupt. -/
def longMove (c : CoreId) (kind dir : Bool) (rb : BitVec 5) (done n : Nat) (move : State → Nat → Nat → MemRes Unit) (s : State) : Res :=
  let (m, s) := s.longSteps c n
  (move s (if dir then n - m else done) m).toRes
    (fun s _ =>
      if m = n then longEnd c rb s
      else .hold (s.updSc c fun x => (x.wg rb (word (n - m))).setLprog true kind dir (done + m)))
    (longEnd c rb)

/-- Runs a long operation (R177, R178): `kind` is LPROG.KIND. A matching pending operation resumes at DONE in direction DIR; a
fresh one, of direction `dir`, checks its count and then its ranges, source first. -/
def longOp (c : CoreId) (kind : Bool) (rb : BitVec 5) (dir : Nat → Bool) (start : State → Nat → (State → Res) → Res)
    (move : State → Nat → Nat → MemRes Unit) : State → Res := fun s =>
  let x := s.sc c
  let n := (x.rg rb).toNat
  if x.lprogValid && x.lprogKind = kind then longMove c kind x.lprogDir rb x.lprogDone.toNat n move s
  else if n = 0 then longEnd c rb s
  else if 1048576 < n then .exc s { code := excLengthOver, info := 0#8, eaddr := 0#64 }
  else start s n (longMove c kind (dir n) rb 0 n move)

/-- Whether a copy of `n` bytes runs downward: its destination starts above its source, in the same window, and the ranges overlap. -/
def copiesDown (src dst : Place) (n : Nat) : Bool :=
  match src, dst with
  | .own a, .own b => a < b && b < a + n
  | .scratch a, .scratch b => a < b && b < a + n
  | .peer c a, .peer d b => c = d && a < b && b < a + n
  | _, _ => false

/-- LCOPY (R177): overlapping ranges give the destination the source's bytes as they were: it runs downward when the destination starts
above the source and the ranges overlap, and upward otherwise. -/
def execLcopy (c : CoreId) (g : Guard) (f : FmtSys) (s : State) : Out :=
  .next (s.issue c g false fun s =>
    let x := s.sc c
    let src := (x.rg f.ra).toNat
    let dst := (x.rg f.rd).toNat
    longOp c false f.rb (fun n => copiesDown (s.locate c src n) (s.locate c dst n) n)
      (fun s n k => inWindow s c src n false fun _ => inWindow s c dst n true fun _ => k s)
      (fun s o n =>
        match s.readPlace c (s.locate c (src + o) n) n with
        | .ok s bs => .ok (s.writePlace c (s.locate c (dst + o) n) bs) ()
        | .noData s => .noData s
        | .exc s x => .exc s x
        | .hold s => .hold s) s)

/-- ZFILL (R177): its ra field is reserved. -/
def execZfill (c : CoreId) (g : Guard) (f : FmtSys) (s : State) : Out :=
  .next (s.issue c g (f.ra != 0#5) fun s =>
    let dst := ((s.sc c).rg f.rd).toNat
    longOp c true f.rb (fun _ => false)
      (fun s n k => inWindow s c dst n true fun _ => k s)
      (fun s o n => .ok (s.writePlace c (s.locate c (dst + o) n) (List.replicate n 0#8)) ()) s)

end Sys2Proof.Machine
end

