-- ==== Sys2Proof/Machine/Vector.lean ====
section
/-! DEFINITION. Register operations of the vector unit: element layout, groups, masks, Tables 7.5 and 7.6, conversions,
reductions (R187-R207, R217, R218). -/

namespace Sys2Proof.Machine

/-! ### Elements and groups -/

/-- Bits of one storage word in a register, or of one element in a format without words. -/
def wordBits (f : FmtCode) : Nat := 8 * f.wordBytes

/-- Elements per register (Table 7.1). -/
def epr (f : FmtCode) : Nat := 1024 / wordBits f * f.perWord

/-- The group size (R188). -/
def Vec.group (x : Vec) : Nat := 2 ^ x.grp.toNat

/-- VLMAX (R188). -/
def Vec.vlmax (x : Vec) : Nat := x.group * epr x.efmt

/-- The smallest power of two that is at least `n`, for the sizes of groups: at most 128 registers, of 2,048 64-bit elements. -/
def pow2Up (n : Nat) : Nat := ([1, 2, 4, 8, 16, 32, 64].find? fun k => n ≤ k).getD 128

/-- A register by number; a group that passed R188 never leaves v0-v63. -/
def Vec.reg (x : Vec) (n : Nat) : BitVec 1024 := x.v.get (Fin.ofNat 64 n)

def Vec.setReg (x : Vec) (n : Nat) (b : BitVec 1024) : Vec := { x with v := x.v.set (Fin.ofNat 64 n) b }

/-- First bit of element `i` within its register. -/
def elemBit (f : FmtCode) (i : Nat) : Nat :=
  let j := i % epr f
  j / f.perWord * wordBits f + j % f.perWord * f.bits

/-- The poison bit of the word that holds element `i`. -/
def Vec.poisonAt (x : Vec) (f : FmtCode) (base i : Nat) : Bool :=
  match f.poisonBit? with
  | some p => (x.reg (base + i / epr f)).getLsbD (i % epr f / f.perWord * wordBits f + p)
  | none => false

/-- Element `i` of the group at `base`. -/
def Vec.elem (x : Vec) (f : FmtCode) (base i : Nat) : Elem :=
  { bits := nbits (x.reg (base + i / epr f)).toNat (elemBit f i) f.bits, poisoned := x.poisonAt f base i }

/-- Replaces `w` bits at `lo`. -/
def putBits (r : BitVec 1024) (lo w v : Nat) : BitVec 1024 :=
  let m : BitVec 1024 := BitVec.ofNat 1024 ((2 ^ w - 1) * 2 ^ lo)
  (r &&& ~~~m) ||| BitVec.ofNat 1024 (v % 2 ^ w * 2 ^ lo)

/-- One written element: its index, its code, whether it is exceptional (R196). -/
structure Put where
  i : Nat
  bits : Nat
  exc : Bool
deriving DecidableEq, Repr

def Vec.putElem (x : Vec) (f : FmtCode) (base : Nat) (p : Put) : Vec :=
  let n := base + p.i / epr f
  x.setReg n (putBits (x.reg n) (elemBit f p.i) f.bits p.bits)

/-- The poison bit of word `wd` of a group after the puts (R196); bit 127 of a K18 word is written zero (R47). -/
def Vec.putPoison (x : Vec) (f : FmtCode) (base : Nat) (ps : List Put) (wd : Nat) : Vec :=
  match f.poisonBit? with
  | none => x
  | some p =>
    let mine := ps.filter fun q => q.i / f.perWord == wd
    let exc := mine.any Put.exc
    let i := wd * f.perWord
    let b := if mine.length = f.perWord then exc else x.poisonAt f base i || exc
    let n := base + i / epr f
    let at_ := i % epr f / f.perWord * wordBits f
    let r := putBits (x.reg n) (at_ + p) 1 (if b then 1 else 0)
    x.setReg n (if f = Fmt.k18 then putBits r (at_ + 127) 1 0 else r)

/-- Writes elements of a group with the poison rule of R196. -/
def Vec.puts (x : Vec) (f : FmtCode) (base : Nat) (ps : List Put) : Vec :=
  let wds := (ps.map fun q => q.i / f.perWord).eraseDups
  let y := ps.foldl (fun y p => y.putElem f base p) x
  if f.poisonBit?.isNone then y else wds.foldl (fun y wd => y.putPoison f base ps wd) y

/-! ### Masks (R194, R195) -/

/-- Whether body element `i` is active under a selector. -/
def Vec.active (x : Vec) (msel : BitVec 3) (i : Nat) : Bool :=
  msel = 0#3 || (x.k.get (Fin.ofNat 8 msel.toNat)).getLsbD i

/-- The body, and its active and inactive elements. -/
def Vec.body (x : Vec) : List Nat := List.range x.vl.toNat
def Vec.actives (x : Vec) (msel : BitVec 3) : List Nat := x.body.filter (x.active msel)
def Vec.inactives (x : Vec) (msel : BitVec 3) : List Nat := x.body.filter fun i => !x.active msel i

/-- Zeros written to inactive elements under mask policy 1. -/
def Vec.policyPuts (x : Vec) (msel : BitVec 3) (pol : Bool) : List Put :=
  if pol then (x.inactives msel).map fun i => ⟨i, 0, false⟩ else []

/-! ### Configuration checks (R188, R190, R217) -/

def rsnFormat : BitVec 8 := 1#8
def rsnAlign : BitVec 8 := 2#8
def rsnOverlap : BitVec 8 := 3#8
def rsnPair : BitVec 8 := 4#8
def rsnGroup : BitVec 8 := 5#8
def rsnK4Block : BitVec 8 := 6#8

/-- A group of registers: its base and size. -/
structure VGroup where
  base : Nat
  size : Nat
deriving DecidableEq, Repr

/-- R188: base a multiple of the size, no register past v63. -/
def VGroup.aligned (g : VGroup) : Bool := g.base % g.size = 0 && g.base + g.size ≤ 64

/-- R190: identical or disjoint. -/
def VGroup.compatible (a b : VGroup) : Bool :=
  a == b || a.base + a.size ≤ b.base || b.base + b.size ≤ a.base

def VGroup.disjoint (a b : VGroup) : Bool := a.base + a.size ≤ b.base || b.base + b.size ≤ a.base

/-- The first failing check of a list of (holds, reason), reasons rising. -/
def firstFailing (cs : List (Bool × BitVec 8)) : Option (BitVec 8) :=
  (cs.find? fun c => !c.1).map Prod.snd

/-- R188 and R190 on every group an instruction names. -/
def groupsAligned (gs : List VGroup) : Bool := gs.all VGroup.aligned
def groupsCompatible (gs : List VGroup) : Bool := gs.all fun a => gs.all fun b => a.compatible b

/-- The group of the current configuration at a register. -/
def Vec.grpAt (x : Vec) (n : BitVec 6) : VGroup := ⟨n.toNat, x.group⟩

/-- Formats of Table 7.5. -/
def arithFmt (f : FmtCode) : Bool := f.isLong || f = Fmt.k18 || f = Fmt.k9f || f = Fmt.k9i || wraps f
def floatFmt (f : FmtCode) : Bool := f.isLong || f = Fmt.k18 || f = Fmt.k9f
def bitFmt (f : FmtCode) : Bool := wraps f || f = Fmt.k9i

/-! ### Running an instruction -/

/-- What an operation does: the vector unit and the scalar registers it leaves, and the flags it raises, POISON_IN among them. -/
structure VOut where
  vec : Vec
  sc : Scalar
  flags : Flags
deriving DecidableEq, Repr

/-- Raises the vector-configuration exception with its reason recorded (R217). -/
def vecConfig (c : CoreId) (s : State) (r : BitVec 8) : Res :=
  .exc (s.updVec c fun x => { x with reason := r }) { code := excVectorConfig, info := r, eaddr := 0#64 }

/-- Records `n` retried passes (R218). -/
def State.vecRetries (s : State) (c : CoreId) (n : Nat) : State :=
  (s.updVec c fun x => { x with checkRetried := true, retry := BitVec.ofNat 32 (sat 32 (x.retry.toNat + n)) }).countRetries c n

/-- Residue mismatches in the vector unit (R218): every retried pass is recorded; a second mismatch in one pass, recorded as retried as
well, quarantines the core. -/
def vecChecked (c : CoreId) (k : Check) (s : State) (run : State → Res) : Res :=
  match k with
  | .pass => run s
  | .retried n => run (s.vecRetries c (n.toNat + 1))
  | .failed n => .hold ((s.vecRetries c (n.toNat + 1)).quarantine c clsCheck (detail [(3, 48), (c.val, 32)]) 0#64)

/-- Accumulates flags; a trapped flag abandons the instruction (R218), and otherwise its results are written. -/
def vecFinish (c : CoreId) (s : State) (o : VOut) : Res :=
  let fl := o.flags
  let s' := s.updVec c fun x => { x with flags := x.flags ||| fl.extractLsb' 0 6 }
  let en := (s.vec c).trapEn
  if fl.traps en then .exc s' { code := excFpTrap, info := 0x80#8 ||| (fl.ieee &&& en).setWidth 8, eaddr := 0#64 }
  else .done ((s.setVec c { o.vec with flags := (s.vec c).flags ||| fl.extractLsb' 0 6 }).setSc c o.sc)

/-- Runs a vector instruction that is not a memory access: configuration checks, residue, then the operation; with VL = 0 it
does nothing more unless `always` (R189). -/
def vecBody (c : CoreId) (k : Check) (check : Vec → Option (BitVec 8)) (always : Bool) (op : Vec → Scalar → VOut) : State → Res :=
  fun s =>
    match check (s.vec c) with
    | some r => vecConfig c s r
    | none =>
      if (s.vec c).vl = 0#12 && !always then .done s
      else vecChecked c k s fun s => vecFinish c s (op (s.vec c) (s.sc c))

/-- The rounding of vector operations. -/
def Vec.rnd (x : Vec) : Rnd := .mode x.round

/-- Elementwise results: each active element's code, with flags and POISON_IN of the elements it read. -/
def Vec.mapActive (x : Vec) (f : FmtCode) (msel : BitVec 3) (pol : Bool) (vd : Nat) (reads : List Nat)
    (op : Nat → Coded) : Vec × Flags :=
  let act := x.actives msel
  let rs := act.map fun i => (i, op i)
  let fl := rs.foldl (fun a r => a ||| r.2.flags) Flags.none
  let poison := act.any fun i => reads.any fun b => x.poisonAt f b i
  (x.puts f vd (rs.map (fun r => ⟨r.1, r.2.bits, r.2.exc⟩) ++ x.policyPuts msel pol), fl ||| Flags.when poison Flags.poisonIn)

/-- Checks of an operation whose groups all have the group size. -/
def plainCheck (ok : FmtCode → Bool) (regs : List (BitVec 6)) (x : Vec) : Option (BitVec 8) :=
  firstFailing [(ok x.efmt, rsnFormat), (groupsAligned (regs.map x.grpAt), rsnAlign),
    (groupsCompatible (regs.map x.grpAt), rsnOverlap)]

/-- A V.R operation of Table 7.5 (R198, R199). -/
def vrBody (c : CoreId) (op : ElemOp) (ok : FmtCode → Bool) (f : FmtVR) (k : Check) : State → Res :=
  vecBody c k (plainCheck ok [f.vd, f.va, f.vb]) false fun x sc =>
    let e := x.efmt
    let reads := [f.va.toNat, f.vb.toNat] ++ (if op = .fma || op = .fnma then [f.vd.toNat] else [])
    let r := x.mapActive e f.msel f.pol f.vd.toNat reads fun i =>
      elemOp op e x.rnd x.om (x.elem e f.va.toNat i) (x.elem e f.vb.toNat i) (x.elem e f.vd.toNat i)
    { vec := r.1, sc := sc, flags := r.2 }

/-- VADD (R198). -/
def execVadd (c : CoreId) (g : Guard) (f : FmtVR) (k : Check) (s : State) : Out := .next (s.issue c g false (vrBody c .add arithFmt f k))

/-- VSUB (R198). -/
def execVsub (c : CoreId) (g : Guard) (f : FmtVR) (k : Check) (s : State) : Out := .next (s.issue c g false (vrBody c .sub arithFmt f k))

/-- VMUL (R198). -/
def execVmul (c : CoreId) (g : Guard) (f : FmtVR) (k : Check) (s : State) : Out := .next (s.issue c g false (vrBody c .mul arithFmt f k))

/-- VFMA (R198). -/
def execVfma (c : CoreId) (g : Guard) (f : FmtVR) (k : Check) (s : State) : Out := .next (s.issue c g false (vrBody c .fma arithFmt f k))

/-- VFNMA (R198). -/
def execVfnma (c : CoreId) (g : Guard) (f : FmtVR) (k : Check) (s : State) : Out := .next (s.issue c g false (vrBody c .fnma arithFmt f k))

/-- VMIN (R198). -/
def execVmin (c : CoreId) (g : Guard) (f : FmtVR) (k : Check) (s : State) : Out := .next (s.issue c g false (vrBody c .min arithFmt f k))

/-- VMAX (R198). -/
def execVmax (c : CoreId) (g : Guard) (f : FmtVR) (k : Check) (s : State) : Out := .next (s.issue c g false (vrBody c .max arithFmt f k))

/-- VDIV (R198). -/
def execVdiv (c : CoreId) (g : Guard) (f : FmtVR) (k : Check) (s : State) : Out := .next (s.issue c g false (vrBody c .div floatFmt f k))

/-- VAND (R198). -/
def execVand (c : CoreId) (g : Guard) (f : FmtVR) (s : State) : Out := .next (s.issue c g false (vrBody c .and bitFmt f .pass))

/-- VOR (R198). -/
def execVor (c : CoreId) (g : Guard) (f : FmtVR) (s : State) : Out := .next (s.issue c g false (vrBody c .or bitFmt f .pass))

/-- VXOR (R198). -/
def execVxor (c : CoreId) (g : Guard) (f : FmtVR) (s : State) : Out := .next (s.issue c g false (vrBody c .xor bitFmt f .pass))

/-- Replaces bit `i` of a mask. -/
def setMaskBit (m : BitVec 2048) (i : Nat) (b : Bool) : BitVec 2048 :=
  let one : BitVec 2048 := 1#2048 <<< i
  if b then m ||| one else m &&& ~~~one

def Vec.mask (x : Vec) (n : BitVec 3) : BitVec 2048 := x.k.get (Fin.ofNat 8 n.toNat)

def Vec.setMask (x : Vec) (n : BitVec 3) (m : BitVec 2048) : Vec := { x with k := x.k.set (Fin.ofNat 8 n.toNat) m }

/-- Conditions of Table 7.7: the bit and the flags. -/
def vcmpOp (cond : BitVec 3) (a b : FVal) : Bool × Flags :=
  let un := a.isNaN || b.isNaN
  let lt := !un && valCompare a b = .lt
  let eq := !un && valCompare a b = .eq
  let gt := !un && valCompare a b = .gt
  let quiet := snanFlags [a, b]
  let sig := Flags.when un Flags.invalid
  match cond with
  | 0#3 => (eq, quiet)
  | 1#3 => (!eq, quiet)
  | 2#3 => (lt, sig)
  | 3#3 => (lt || eq, sig)
  | 4#3 => (gt, sig)
  | 5#3 => (gt || eq, sig)
  | _ => (un, quiet)

/-- VCMP (R200): kd in vd[5:3], COND in vd[2:0]. UN refuses the integer formats of Table 2.1; K9I is a short one, whose poisoned elements are
unordered. -/
def execVcmp (c : CoreId) (g : Guard) (f : FmtVR) (k : Check) (s : State) : Out :=
  let cond := f.vd.extractLsb' 0 3
  let kd := f.vd.extractLsb' 3 3
  .next (s.issue c g (cond = 7#3) (vecBody c k
    (plainCheck (fun e => arithFmt e && !(cond = 6#3 && wraps e)) [f.va, f.vb]) false fun x sc =>
      let e := x.efmt
      let act := x.actives f.msel
      let rs := act.map fun i => (i, vcmpOp cond ((x.elem e f.va.toNat i).val e) ((x.elem e f.vb.toNat i).val e))
      let fl := rs.foldl (fun a r => a ||| r.2.2) Flags.none
      let poison := act.any fun i => x.poisonAt e f.va.toNat i || x.poisonAt e f.vb.toNat i
      let m := rs.foldl (fun m r => setMaskBit m r.1 r.2.1) (x.mask kd)
      let m := if f.pol then (x.inactives f.msel).foldl (fun m i => setMaskBit m i false) m else m
      { vec := x.setMask kd m, sc := sc, flags := fl ||| Flags.when poison Flags.poisonIn }))

/-! ### V.U operations (Table 7.6) -/

def allFmt (_ : FmtCode) : Bool := true
def notK4 (f : FmtCode) : Bool := f != Fmt.k4

/-- An operation that copies elements as data (R197): `src` gives each active element. -/
def copyBody (c : CoreId) (ok : FmtCode → Bool) (regs : List (BitVec 6)) (f : FmtVU) (src : Vec → Scalar → Nat → Elem) : State → Res :=
  vecBody c .pass (plainCheck ok regs) false fun x sc =>
    let ps := (x.actives f.msel).map fun i => let e := src x sc i; (⟨i, e.bits, e.poisoned⟩ : Put)
    { vec := x.puts x.efmt f.vd.toNat (ps ++ x.policyPuts f.msel f.pol), sc := sc, flags := Flags.none }

/-- VMOV (Table 7.6). -/
def execVmov (c : CoreId) (g : Guard) (f : FmtVU) (s : State) : Out :=
  .next (s.issue c g false (copyBody c allFmt [f.vd, f.va] f fun x _ i => x.elem x.efmt f.va.toNat i))

/-- A value placed in a g register (R160, R163, R202). -/
def elemOfReg (f : FmtCode) (v : Word) : Elem :=
  { bits := v.toNat % 2 ^ f.bits, poisoned := f.poisonBit?.isSome && v.getLsbD 63 }

/-- An element placed in a g register: s8 and s32 sign-extended, the poison bit in bit 63 (R202). -/
def regOfElem (f : FmtCode) (e : Elem) : Word :=
  if f = Fmt.s8 then ((word e.bits).setWidth 8).signExtend 64
  else if f = Fmt.s32 then ((word e.bits).setWidth 32).signExtend 64
  else if f.poisonBit?.isSome && e.poisoned then word e.bits ||| 0x8000000000000000#64
  else word e.bits

/-- The g register that the low five bits of a vector field name. -/
def gField (r : BitVec 6) : BitVec 5 := r.extractLsb' 0 5

/-- Whether a vector field's top bit, reserved where it names a g register, is set. -/
def topBit (r : BitVec 6) : Bool := r.getLsbD 5

/-- VSPLAT (R202). -/
def execVsplat (c : CoreId) (g : Guard) (f : FmtVU) (s : State) : Out :=
  .next (s.issue c g (topBit f.va) (copyBody c notK4 [f.vd] f fun x sc _ => elemOfReg x.efmt (sc.rg (gField f.va))))

/-- VGET (R202). -/
def execVget (c : CoreId) (g : Guard) (f : FmtVU) (s : State) : Out :=
  .next (s.issue c g (topBit f.vd || f.msel != 0#3 || f.pol) (vecBody c .pass (plainCheck notK4 [f.va]) false fun x sc =>
    { vec := x, sc := sc.wg (gField f.vd) (regOfElem x.efmt (x.elem x.efmt f.va.toNat 0)), flags := Flags.none }))

/-- A unary operation of Table 7.6 on active elements. -/
def unaryBody (c : CoreId) (op : ElemOp) (ok : FmtCode → Bool) (f : FmtVU) (k : Check) : State → Res :=
  vecBody c k (plainCheck ok [f.vd, f.va]) false fun x sc =>
    let e := x.efmt
    let r := x.mapActive e f.msel f.pol f.vd.toNat [f.va.toNat] fun i =>
      let a := x.elem e f.va.toNat i
      elemOp op e x.rnd x.om a a a
    { vec := r.1, sc := sc, flags := r.2 }

/-- VABS (Table 7.6, R202). -/
def execVabs (c : CoreId) (g : Guard) (f : FmtVU) (k : Check) (s : State) : Out := .next (s.issue c g false (unaryBody c .abs arithFmt f k))

/-- VNEG (Table 7.6, R202). -/
def execVneg (c : CoreId) (g : Guard) (f : FmtVU) (k : Check) (s : State) : Out := .next (s.issue c g false (unaryBody c .neg arithFmt f k))

/-- VSQRT (Table 7.6). -/
def execVsqrt (c : CoreId) (g : Guard) (f : FmtVU) (k : Check) (s : State) : Out := .next (s.issue c g false (unaryBody c .sqrt floatFmt f k))

/-- VRINT (Table 7.6): without INEXACT. -/
def execVrint (c : CoreId) (g : Guard) (f : FmtVU) (k : Check) (s : State) : Out := .next (s.issue c g false (unaryBody c .rint floatFmt f k))

/-- VIOTA (Table 7.6): element i takes i. -/
def execViota (c : CoreId) (g : Guard) (f : FmtVU) (s : State) : Out :=
  .next (s.issue c g (f.va != 0#6) (copyBody c wraps [f.vd] f fun _ _ i => ⟨i, false⟩))

/-- VCOMPRESS (R190, R202): source and destination disjoint. -/
def execVcompress (c : CoreId) (g : Guard) (f : FmtVU) (s : State) : Out :=
  .next (s.issue c g f.pol (vecBody c .pass
    (fun x => firstFailing [(notK4 x.efmt, rsnFormat), (groupsAligned [x.grpAt f.vd, x.grpAt f.va], rsnAlign),
      ((x.grpAt f.vd).disjoint (x.grpAt f.va), rsnOverlap)]) false fun x sc =>
      let ps := (x.actives f.msel).zipIdx.map fun p =>
        let e := x.elem x.efmt f.va.toNat p.1
        (⟨p.2, e.bits, e.poisoned⟩ : Put)
      { vec := x.puts x.efmt f.vd.toNat ps, sc := sc, flags := Flags.none }))

/-! ### Mask operations -/

/-- Reserved fields of a mask operation: kd or g in vd, ka in va, kb in the selector (R201). For KPOP and KFIRST Table 7.6 names
g[vd[4:0]] where the rule reserves bits [21:19] of every mask operation: the model reserves bit [21] alone, a choice (log 196). -/
def maskBad (f : FmtVU) (toG kaUsed kbUsed : Bool) : Bool :=
  f.pol || (if toG then topBit f.vd else f.vd.extractLsb' 3 3 != 0#3) ||
    (if kaUsed then f.va.extractLsb' 3 3 != 0#3 else f.va != 0#6) || (!kbUsed && f.msel != 0#3)

/-- A mask operation on positions below VL. -/
def maskBody (c : CoreId) (f : FmtVU) (op : Bool → Bool → Bool) : State → Res :=
  vecBody c .pass (fun _ => none) false fun x sc =>
    let a := x.mask (f.va.extractLsb' 0 3)
    let b := x.mask f.msel
    let kd := f.vd.extractLsb' 0 3
    let m := x.body.foldl (fun m i => setMaskBit m i (op (a.getLsbD i) (b.getLsbD i))) (x.mask kd)
    { vec := x.setMask kd m, sc := sc, flags := Flags.none }

/-- KAND. -/
def execKand (c : CoreId) (g : Guard) (f : FmtVU) (s : State) : Out := .next (s.issue c g (maskBad f false true true) (maskBody c f fun a b => a && b))

/-- KOR. -/
def execKor (c : CoreId) (g : Guard) (f : FmtVU) (s : State) : Out := .next (s.issue c g (maskBad f false true true) (maskBody c f fun a b => a || b))

/-- KXOR. -/
def execKxor (c : CoreId) (g : Guard) (f : FmtVU) (s : State) : Out := .next (s.issue c g (maskBad f false true true) (maskBody c f fun a b => a != b))

/-- KANDN. -/
def execKandn (c : CoreId) (g : Guard) (f : FmtVU) (s : State) : Out := .next (s.issue c g (maskBad f false true true) (maskBody c f fun a b => a && !b))

/-- KNOT. -/
def execKnot (c : CoreId) (g : Guard) (f : FmtVU) (s : State) : Out := .next (s.issue c g (maskBad f false true false) (maskBody c f fun a _ => !a))

/-- KSET. -/
def execKset (c : CoreId) (g : Guard) (f : FmtVU) (s : State) : Out := .next (s.issue c g (maskBad f false false false) (maskBody c f fun _ _ => true))

/-- A mask operation that writes a g register. -/
def maskToG (c : CoreId) (f : FmtVU) (op : Vec → BitVec 2048 → Word) : State → Res :=
  vecBody c .pass (fun _ => none) false fun x sc =>
    { vec := x, sc := sc.wg (gField f.vd) (op x (x.mask (f.va.extractLsb' 0 3))), flags := Flags.none }

/-- KPOP. -/
def execKpop (c : CoreId) (g : Guard) (f : FmtVU) (s : State) : Out :=
  .next (s.issue c g (maskBad f true true false) (maskToG c f fun x m => word (x.body.countP fun i => m.getLsbD i)))

/-- KFIRST. -/
def execKfirst (c : CoreId) (g : Guard) (f : FmtVU) (s : State) : Out :=
  .next (s.issue c g (maskBad f true true false) (maskToG c f fun x m =>
    match x.body.find? fun i => m.getLsbD i with
    | some i => word i
    | none => BitVec.allOnes 64))

/-- VSETVL (Table 7.6, R193): sets VL whatever it was (log 30). -/
def execVsetvl (c : CoreId) (g : Guard) (f : FmtVU) (s : State) : Out :=
  .next (s.issue c g (topBit f.va || topBit f.vd || f.msel != 0#3 || f.pol) (vecBody c .pass (fun _ => none) true fun x sc =>
    let n := min (sc.rg (gField f.va)).toNat x.vlmax
    { vec := { x with vl := BitVec.ofNat 12 n }, sc := sc.wg (gField f.vd) (word n), flags := Flags.none }))

/-! ### Conversions (R203, R204) -/

/-- Size of the destination group of VCVT (R203). -/
def Vec.destGroup (x : Vec) : Nat := pow2Up ((x.vlmax + epr x.cfmt - 1) / epr x.cfmt)

/-- The groups VCVT names, companions of K4 groups included (R204). -/
def Vec.cvtGroups (x : Vec) (f : FmtVU) : List VGroup :=
  let src : VGroup := ⟨f.va.toNat, x.group⟩
  let dst : VGroup := ⟨f.vd.toNat, x.destGroup⟩
  [src, dst] ++ (if x.efmt = Fmt.k4 then [⟨src.base + src.size, 1⟩] else []) ++
    (if x.cfmt = Fmt.k4 then [⟨dst.base + dst.size, 1⟩] else [])

def cvtCheck (f : FmtVU) (x : Vec) : Option (BitVec 8) :=
  let k4 := x.efmt = Fmt.k4 || x.cfmt = Fmt.k4
  firstFailing [
    (groupsAligned (x.cvtGroups f), rsnAlign),
    (groupsCompatible (x.cvtGroups f), rsnOverlap),
    (x.efmt != x.cfmt && (legalPair x.efmt x.cfmt || (x.efmt = Fmt.k18 && x.cfmt = Fmt.k4)), rsnPair),
    (decide (x.destGroup ≤ 8), rsnGroup),
    (!k4 || x.vl.toNat % 32 = 0, rsnK4Block)]

/-- The scale of block `b` in a companion register (R49, R204); a poisoned word poisons its blocks. -/
def Vec.scale (x : Vec) (comp b : Nat) : Nat :=
  let w := nbits (x.reg comp).toNat (b / 7 * 64) 64
  if w.testBit 63 then k9ePoison else nbits w (b % 7 * 9) 9

/-- Writes scales (block, code) into a companion register (R204, R517). `total` blocks end the tensor: the padding of the last
word is written as zero; a word written whole gets POISON 0, and otherwise keeps it. -/
def Vec.putScales (x : Vec) (comp total : Nat) (ss : List (Nat × Nat)) : Vec :=
  let wds := (ss.map fun p => p.1 / 7).eraseDups
  let step (r : BitVec 1024) (wd : Nat) : BitVec 1024 :=
    let mine := ss.filter fun p => p.1 / 7 == wd
    let r := mine.foldl (fun r p => putBits r (wd * 64 + p.1 % 7 * 9) 9 p.2) r
    let used := min 7 (total - wd * 7)
    let r := (List.range 7).foldl (fun r j => if used ≤ j then putBits r (wd * 64 + j * 9) 9 0 else r) r
    if mine.length = used then putBits r (wd * 64 + 63) 1 0 else r
  x.setReg comp (wds.foldl step (x.reg comp))

/-- The source elements of VCVT as values, with whether they are poisoned. -/
def Vec.cvtSource (x : Vec) (va i : Nat) : FVal × Bool :=
  let e := x.elem x.efmt va i
  if x.efmt = Fmt.k4 then
    let sc := x.scale (va + x.group) (i / 32)
    (k4Val e.bits sc, sc = k9ePoison)
  else (e.val x.efmt, e.poisoned)

/-- Quantises block `b` (R204): every element takes part in the scale under policy 0, only the active ones under policy 1. In POISON mode a
block whose scale overflows raises OVERFLOW and INEXACT even where an inactive element alone makes it overflow: a choice of the model, as
R195 lets inactive elements raise no flag and R204 lets them take part in the scale (log 197). -/
def Vec.cvtBlock (x : Vec) (f : FmtVU) (b : Nat) : K4Block :=
  let ix := (List.range 32).map fun j => b * 32 + j
  let elem (i : Nat) : K4Elem :=
    if x.active f.msel i || !f.pol then some ((x.cvtSource f.va.toNat i).1, x.rnd) else none
  let clean (i : Nat) : K4Elem :=
    let v := x.cvtSource f.va.toNat i
    if x.active f.msel i && !v.2 then some (v.1, x.rnd) else none
  let q := k4Quantise x.om (ix.map elem)
  let fl :=
    if (ix.map elem).any K4Elem.special then k4SpecialFlags (ix.map clean)
    else if q.scale = k9ePoison then Flags.overflow ||| Flags.inexact
    else (k4Codes (k9eExp q.scale) (ix.map clean)).2
  { q with flags := fl }

/-- VCVT to K4. -/
def cvtToK4 (f : FmtVU) (x : Vec) (sc : Scalar) : VOut :=
  let blocks := (List.range (x.vl.toNat / 32)).filter fun b => (List.range 32).any fun j => x.active f.msel (b * 32 + j)
  let qs := blocks.map fun b => (b, x.cvtBlock f b)
  let ps := qs.flatMap fun q => (q.2.codes.zipIdx.filter fun p => x.active f.msel (q.1 * 32 + p.2)).map fun p =>
    (⟨q.1 * 32 + p.2, p.1, false⟩ : Put)
  let y := x.puts Fmt.k4 f.vd.toNat (ps ++ x.policyPuts f.msel f.pol)
  let y := y.putScales (f.vd.toNat + x.destGroup) (x.vl.toNat / 32) (qs.map fun q => (q.1, q.2.scale))
  let poison := (x.actives f.msel).any fun i => (x.cvtSource f.va.toNat i).2
  { vec := y, sc := sc, flags := qs.foldl (fun a q => a ||| q.2.flags) Flags.none ||| Flags.when poison Flags.poisonIn }

/-- VCVT to any other format. -/
def cvtPlain (f : FmtVU) (x : Vec) (sc : Scalar) : VOut :=
  let act := x.actives f.msel
  let rs := act.map fun i => let v := x.cvtSource f.va.toNat i; (i, convertFmt x.cfmt x.rnd x.om v.2 v.1)
  let fl := rs.foldl (fun a r => a ||| r.2.flags) Flags.none
  let poison := act.any fun i => (x.cvtSource f.va.toNat i).2
  { vec := x.puts x.cfmt f.vd.toNat (rs.map (fun r => ⟨r.1, r.2.bits, r.2.exc⟩) ++ x.policyPuts f.msel f.pol), sc := sc,
    flags := fl ||| Flags.when poison Flags.poisonIn }

/-- VCVT (R203, R204). -/
def execVcvt (c : CoreId) (g : Guard) (f : FmtVU) (k : Check) (s : State) : Out :=
  .next (s.issue c g false (vecBody c k (cvtCheck f) false fun x sc =>
    if x.cfmt = Fmt.k4 then cvtToK4 f x sc else cvtPlain f x sc))

/-! ### Reductions (R205-R207) -/

/-- Formats that a reduction accepts (R205). -/
def redFmt (code : Nat) (f : FmtCode) : Bool := if 7 ≤ code then bitFmt f else arithFmt f

/-- VECTOR_REDUCTION (R205): FUNC6 0x01-0x09; bit [0] is reserved; argmax and argmin name a g register. vd names one register, any of
v0-v63, and no group, so R190 does not bind it (log 65). R205 places the result of sum, product, max and min and reserves bit [0]; the model
does the same for and, or and xor, whose result is element 0 of vd, and reserves bit [0] of argmax and argmin too, a choice (log 198). -/
def execVectorReduction (c : CoreId) (g : Guard) (func : BitVec 6) (f : FmtVU) (k : Check) (s : State) : Out :=
  let code := func.toNat
  let arg := code = 5 || code = 6
  .next (s.issue c g (code = 0 || 9 < code || f.pol || (arg && topBit f.vd))
    (vecBody c k
      (fun x => firstFailing [(redFmt code x.efmt, rsnFormat), ((x.grpAt f.va).aligned, rsnAlign)])
      true fun x sc =>
        let e := x.efmt
        let es := x.body.map fun i => if x.active f.msel i then some (x.elem e f.va.toNat i) else none
        let poison := es.any fun y => y.any Elem.poisoned
        let pf := Flags.when poison Flags.poisonIn
        match reduceElems code e x.rnd x.om es with
        | none =>
          if arg then { vec := { x with empty := true }, sc := sc.wg (gField f.vd) (BitVec.allOnes 64), flags := pf }
          else
            let d := redIdentity code e x.om
            { vec := { x.puts e f.vd.toNat [⟨0, d.bits, d.exc⟩] with empty := true }, sc := sc, flags := pf ||| d.flags }
        | some p =>
          if arg then { vec := x, sc := sc.wg (gField f.vd) (word p.idx), flags := pf ||| p.flags }
          else
            let lone := es.countP Option.isSome = 1
            let d := if lone && p.e.poisoned then encodeFmt e x.rnd x.om .dnan else ⟨p.e.bits, p.e.poisoned, Flags.none⟩
            { vec := x.puts e f.vd.toNat [⟨0, d.bits, d.exc⟩], sc := sc, flags := pf ||| p.flags ||| d.flags }))

end Sys2Proof.Machine
end

