-- ==== Sys2Proof/Machine/VectorMem.lean ====
section
/-! DEFINITION. Vector loads and stores (R208-R213) and the accepted writes of VCFG and VLEN (R192, R193). -/

namespace Sys2Proof.Machine

/-! ### Accesses of one storage word (R211) -/

/-- Reads bytes of device memory without allocating in L1, observing a copy that L1 holds (R211). `probe` is a first-fault
load, whose faults never replay (R305). -/
def State.vloadDev (s : State) (c : CoreId) (ea n : Nat) (probe : Bool) : MemRes (List Byte) :=
  let x := s.sc c
  let ctx := x.ctxid.toNat
  match s.translate ctx ea .read x.priv with
  | .fault reason rp => s.coreFault c ea reason (rp && !probe) false true
  | .bad d => .noData (s.walkBad c.val d)
  | .ok dpa leaf =>
    match (if leafC leaf then x.l1Way ctx dpa else none) with
    | some w => s.hit c (ea / 64) w (ea % 64) n
    | none => s.fetch c ea n dpa n

/-- Reads bytes at a D-space address for a vector load. -/
def State.vload (s : State) (c : CoreId) (ea n : Nat) (probe : Bool) : MemRes (List Byte) :=
  match s.locate c ea n with
  | .dev => s.vloadDev c ea n probe
  | _ => s.coreLoad c ea n

/-- Whether an access of `n` bytes at `ea` meets no translation fault of R167 (R213); a cross-context peer access is none of them (R168). -/
def State.probe (s : State) (c : CoreId) (ea n : Nat) : Bool :=
  match s.locate c ea n with
  | .dev =>
    match s.translate (s.sc c).ctxid.toNat ea .read (s.sc c).priv with
    | .fault _ _ => false
    | _ => true
  | .none _ => false
  | _ => true

/-- Checks the translation of a store without performing it (R211). -/
def State.storeCheck (s : State) (c : CoreId) (ea n : Nat) : MemRes Unit :=
  match s.locate c ea n with
  | .dev =>
    match s.translate (s.sc c).ctxid.toNat ea .write (s.sc c).priv with
    | .fault reason rp => s.coreFault c ea reason rp true false
    | .bad d => .noData (s.walkBad c.val d)
    | .ok _ _ => .ok s ()
  | .cross d => .exc (s.peerAttempt c d) (peerFault ea true)
  | .none sc => .exc s (windowFault ea true sc)
  | .own o => if s.engineHolds c o n then .hold s else .ok s ()
  | _ => .ok s ()

/-- Bytes under a store that replaces some slots of a word: read without a permission check, from the copy that the core's own L1 holds or
else from memory and the store buffer (R53, R211). Where the old word is refused or uncorrectable the store is merged over zeros without a
report of its own, a choice of the model: the store then meets the same refusal, or the same marked block, when it drains (log 195). -/
def State.underStore (s : State) (c : CoreId) (ea n : Nat) : List Byte :=
  let x := s.sc c
  let ctx := x.ctxid.toNat
  match s.locate c ea n with
  | .dev =>
    match s.walk ctx ea with
    | .ok dpa leaf =>
      match (if leafC leaf then (x.l1Way ctx dpa).bind (x.l1Line (ea / 64)) else none) with
      | some y => (y.data.drop (ea % 64)).take n
      | none =>
        match s.devRead ctx dpa n with
        | .ok _ bs => overlay x.stores dpa bs
        | _ => List.replicate n 0#8
    | _ => List.replicate n 0#8
  | p =>
    match s.readPlace c p n with
    | .ok _ bs => bs
    | _ => List.replicate n 0#8

/-! ### Element positions (R208, R209) -/

/-- Field f of element i at position p (R208). -/
structure Place1 where
  field : Nat
  i : Nat
  pos : Int
deriving DecidableEq, Repr

/-- The word address and slot of a position (R209). -/
def posWord (f : FmtCode) (b : Word) (p : Int) : Nat × Nat :=
  let q := p / (f.perWord : Int)
  ((b + BitVec.ofInt 64 (q * (f.wordBytes : Int))).toNat, (p - q * (f.perWord : Int)).toNat)

def modeUnit : BitVec 3 := 0#3
def modeStride : BitVec 3 := 1#3
def modeIndex : BitVec 3 := 2#3
def modeFF : BitVec 3 := 3#3
def modeStruct : BitVec 3 := 4#3
def modeK4inl : BitVec 3 := 5#3

/-- Fields of a structure access (Table 7.8). -/
def fieldsOf (mode : BitVec 3) (param : BitVec 4) : Nat := if mode = modeStruct then (param.extractLsb' 0 2).toNat + 2 else 1

/-- Illegal encodings of VMF (Table 7.8, R150). -/
def vmfBad (mode : BitVec 3) (param : BitVec 4) (store : Bool) : Bool :=
  if mode = modeStride || mode = modeIndex then false
  else if mode = modeStruct then param.extractLsb' 2 2 != 0#2 || param.extractLsb' 0 2 = 3#2
  else if mode = modeFF then store || param != 0#4
  else if mode = modeUnit || mode = modeK4inl then param != 0#4
  else true

/-- Formats a mode accepts (Table 7.8). -/
def modeFmt (mode : BitVec 3) (f : FmtCode) : Bool :=
  if mode = modeStride || mode = modeIndex then notK4 f
  else if mode = modeStruct then f.perWord = 1
  else if mode = modeK4inl then f = Fmt.k4
  else true

/-- The index format of an INDEX access (Table 7.8). -/
def indexFmt (param : BitVec 4) : FmtCode := if param.getLsbD 0 then Fmt.s64 else Fmt.s32

/-- The index group (R210). -/
def Vec.indexGroup (x : Vec) (param : BitVec 4) : VGroup :=
  ⟨8 * (param.extractLsb' 1 3).toNat, pow2Up ((x.vlmax * (indexFmt param).bits + 1023) / 1024)⟩

/-- The data groups of an access: one for each field, and the companion of K4INL (R204, R210). -/
def Vec.dataGroups (x : Vec) (vt : BitVec 6) (mode : BitVec 3) (param : BitVec 4) : List VGroup :=
  ((List.range (fieldsOf mode param)).map fun f => (⟨vt.toNat + f * x.group, x.group⟩ : VGroup)) ++
    (if mode = modeK4inl then [⟨vt.toNat + x.group, 1⟩] else [])

/-- Configuration checks of a memory instruction (R190, R208, R210, R212, R217). -/
def vmCheck (f : FmtVM) (store : Bool) (x : Vec) : Option (BitVec 8) :=
  let data := x.dataGroups f.vt f.mode f.param
  let ix := if f.mode = modeIndex then [x.indexGroup f.param] else []
  let overlaps :=
    if store then groupsCompatible (data ++ ix) else ix.all fun a => data.all fun d => a.disjoint d
  firstFailing [(modeFmt f.mode x.efmt, rsnFormat), (groupsAligned (data ++ ix), rsnAlign), (overlaps, rsnOverlap),
    (f.mode != modeK4inl || x.vl.toNat % 32 = 0, rsnK4Block)]

/-- Positions of the active elements, field by field within each element. -/
def vmPlaces (f : FmtVM) (x : Vec) (sc : Scalar) : List Place1 :=
  (x.actives f.msel).flatMap fun (i : Nat) =>
    (List.range (fieldsOf f.mode f.param)).map fun (fl : Nat) =>
      let pos : Int :=
        if f.mode = modeStride then (i : Int) * (sc.rg (0#1 ++ f.param)).toInt
        else if f.mode = modeIndex then
          signedOf (indexFmt f.param).bits (x.elem (indexFmt f.param) (x.indexGroup f.param).base i).bits
        else if f.mode = modeStruct then ((i * fieldsOf f.mode f.param + fl : Nat) : Int)
        else (i : Int)
      ⟨fl, i, pos⟩

/-- A misaligned base (R209): INFO gives the word's size, 0b11 at most (log 31). -/
def vmMisaligned (f : FmtCode) (b : Word) (store : Bool) : Exc :=
  misaligned store (if f.wordBytes = 1 then 0#2 else if f.wordBytes = 2 then 1#2 else if f.wordBytes = 4 then 2#2 else 3#2) b

/-! ### Loads -/

/-- Loads each place in turn: the elements read, or where the access ends otherwise. -/
def loadPlaces (c : CoreId) (f : FmtCode) (b : Word) (probe : Bool) :
    List Place1 → State → List (Place1 × Elem) → MemRes (List (Place1 × Elem))
  | [], s, acc => .ok s acc
  | p :: t, s, acc =>
    let (ea, slot) := posWord f b p.pos
    match s.vload c ea f.wordBytes probe with
    | .ok s bs =>
      let w := leNat bs
      let e : Elem := if f.perWord = 1 then ⟨w % 2 ^ f.bits, false⟩ else ⟨wordSlot f w slot, wordPoison f w⟩
      loadPlaces c f b probe t s (acc ++ [(p, e)])
    | .noData s => .noData s
    | .exc s x => .exc s x
    | .hold s => .hold s

/-- Writes loaded elements into their groups, and with them what the mask policy writes (R195, R196, R211). -/
def Vec.putLoaded (x : Vec) (f : FmtVM) (es : List (Place1 × Elem)) (others : List Put) : Vec :=
  (List.range (fieldsOf f.mode f.param)).foldl (fun y fl =>
    let ps := (es.filter fun p => p.1.field == fl).map fun p => (⟨p.1.i, p.2.bits, p.2.poisoned⟩ : Put)
    y.puts x.efmt (f.vt.toNat + fl * x.group) (ps ++ others)) x

/-- Whether a vector access of device memory or a peer lagoon is abandoned for an interrupt that can be taken, with the free value that says
which of its parts have happened (R216): the model has no cycles, so both the abandonment and the parts are free. -/
def State.abandoned (s : State) (c : CoreId) (n : Nat) (eas : List Nat) : Option Nat × State :=
  let slow (ea : Nat) : Bool := match s.locate c ea n with
    | .dev => true
    | .peer _ _ => true
    | _ => false
  if s.irqTakeable c && eas.any slow then
    let (k, s) := s.takeFree
    (if (Config.freeNat k).testBit 0 then some (Config.freeNat k / 2) else none, s)
  else (none, s)

/-- The parts of an access that happen: all of them, or those that the free value of an abandoned one names. -/
def happening {α : Type} (gone : Option Nat) (xs : List α) : List α :=
  match gone with
  | none => xs
  | some k => (xs.zipIdx.filter fun x => k.testBit x.2).map Prod.fst

/-- A load in mode UNIT, STRIDE, INDEX, FF or STRUCT. -/
def vloadBody (c : CoreId) (f : FmtVM) : State → Res := fun s =>
  let x := s.vec c
  let sc := s.sc c
  let b := sc.rg f.gb
  match vmCheck f false x with
  | some r => vecConfig c s r
  | none =>
    if b.toNat % (FmtCode.wordBytes x.efmt) != 0 then .exc s (vmMisaligned x.efmt b false)
    else
      let ps := vmPlaces f x sc
      let ff := f.mode = modeFF
      -- first-fault: the places before the lowest faulting element other than the first
      let cut := if ff then
          (ps.drop 1).find? fun p => !s.probe c (posWord x.efmt b p.pos).1 (FmtCode.wordBytes x.efmt)
        else none
      let ps := match cut with
        | some q => ps.filter fun p => p.i < q.i
        | none => ps
      let n := FmtCode.wordBytes x.efmt
      let (gone, s) := s.abandoned c n (ps.map fun p => (posWord x.efmt b p.pos).1)
      match loadPlaces c x.efmt b ff (happening gone ps) s [] with
      | .ok s es =>
        let y := s.vec c
        if gone.isSome then .hold (s.setVec c (y.putLoaded f es []))
        else
          .done (match cut with
            | some q =>
              let z := { y with vl := BitVec.ofNat 12 q.i, ffTrunc := true }
              s.setVec c (z.putLoaded f es (z.policyPuts f.msel f.pol))
            | none => s.setVec c (y.putLoaded f es (y.policyPuts f.msel f.pol)))
      | .noData s => .done s
      | .exc s e => .exc s e
      | .hold s => .hold s

/-! ### Stores -/

/-- Checks every word of a store before any byte moves (R211). -/
def checkWords (c : CoreId) (n : Nat) : List Nat → State → MemRes Unit
  | [], s => .ok s ()
  | ea :: t, s =>
    match s.storeCheck c ea n with
    | .ok s _ => checkWords c n t s
    | r => r

/-- The bytes of a word after a store's slots are merged into it (R53, R211). -/
def mergeWord (f : FmtCode) (old : Nat) (ws : List (Nat × Elem)) : Nat :=
  let w := ws.foldl (fun w p => setSlot f w p.1 p.2.bits) old
  let slots := (ws.map Prod.fst).eraseDups.length
  match f.poisonBit? with
  | none => w
  | some _ =>
    let last (j : Nat) : Bool := ((ws.filter fun p => p.1 == j).getLast?.map fun p => p.2.poisoned).getD false
    let exc := (ws.map Prod.fst).any last
    if slots = f.perWord then setPoison f w exc else setPoison f w (wordPoison f old || exc)

/-- Stores the merged words in turn; every translation has been checked. -/
def storeWords (c : CoreId) (f : FmtCode) (ws : List (Nat × Nat × Elem)) : List Nat → State → MemRes Unit
  | [], s => .ok s ()
  | ea :: t, s =>
    let mine := (ws.filter fun w => w.1 == ea).map Prod.snd
    let full := (mine.map Prod.fst).eraseDups.length = f.perWord
    let old := if full then 0 else leNat (s.underStore c ea f.wordBytes)
    match s.coreStore c ea (leBytes f.wordBytes (mergeWord f old mine)) with
    | .ok s _ => storeWords c f ws t s
    | r => r

/-- A store in mode UNIT, STRIDE, INDEX or STRUCT. -/
def vstoreBody (c : CoreId) (f : FmtVM) : State → Res := fun s =>
  let x := s.vec c
  let sc := s.sc c
  let b := sc.rg f.gb
  match vmCheck f true x with
  | some r => vecConfig c s r
  | none =>
    if b.toNat % (FmtCode.wordBytes x.efmt) != 0 then .exc s (vmMisaligned x.efmt b true)
    else
      let ws := (vmPlaces f x sc).map fun p =>
        let q := posWord x.efmt b p.pos
        (q.1, q.2, x.elem x.efmt (f.vt.toNat + p.field * x.group) p.i)
      let eas := (ws.map Prod.fst).eraseDups
      match checkWords c (FmtCode.wordBytes x.efmt) eas s with
      | .ok s _ =>
        let (gone, s) := s.abandoned c (FmtCode.wordBytes x.efmt) eas
        (storeWords c x.efmt ws (happening gone eas) s).toRes (fun s _ => if gone.isSome then .hold s else .done s) .done
      | .noData s => .done s
      | .exc s e => .exc s e
      | .hold s => .hold s

/-! ### K4INL (R212) -/

/-- Blocks that K4INL moves: those with an active element. -/
def Vec.k4Blocks (x : Vec) (msel : BitVec 3) : List Nat :=
  (List.range (x.vl.toNat / 32)).filter fun b => (List.range 32).any fun j => x.active msel (b * 32 + j)

/-- Loads the blocks in turn: 24 bytes each. -/
def loadBlocks (c : CoreId) (b : Word) : List Nat → State → List (Nat × List Byte) → MemRes (List (Nat × List Byte))
  | [], s, acc => .ok s acc
  | k :: t, s, acc =>
    let a := (b + word (24 * k)).toNat
    match s.vload c a 8 false with
    | .ok s b0 =>
      match s.vload c (a + 8) 8 false with
      | .ok s b1 =>
        match s.vload c (a + 16) 8 false with
        | .ok s b2 => loadBlocks c b t s (acc ++ [(k, b0 ++ b1 ++ b2)])
        | .noData s => .noData s
        | .exc s x => .exc s x
        | .hold s => .hold s
      | .noData s => .noData s
      | .exc s x => .exc s x
      | .hold s => .hold s
    | .noData s => .noData s
    | .exc s x => .exc s x
    | .hold s => .hold s

/-- The inline scale of a block's nonet word: 0x100 when its POISON bit is set. -/
def inlineScale (w : Nat) : Nat := if w.testBit 63 then k9ePoison else nbits w 0 9

/-- The nonet word that holds a block's scale inline (R212, R517). -/
def inlineWord (scale : Nat) : Nat := scale % 512 + (if scale % 512 = k9ePoison then 2 ^ 63 else 0)

/-- A K4INL load: a block with an active element is loaded whole; the inactive elements of other blocks follow the mask policy (R195). -/
def k4inlLoad (c : CoreId) (f : FmtVM) : State → Res := fun s =>
  let x := s.vec c
  let b := (s.sc c).rg f.gb
  match vmCheck f false x with
  | some r => vecConfig c s r
  | none =>
    if b.toNat % 8 != 0 then .exc s (vmMisaligned Fmt.k4 b false)
    else
      let bks := x.k4Blocks f.msel
      let (gone, s) := s.abandoned c 8 (bks.map fun k => (b + word (24 * k)).toNat)
      match loadBlocks c b (happening gone bks) s [] with
      | .ok s bs =>
        let y := s.vec c
        let ps := bs.flatMap fun p =>
          (List.range 32).map fun j => (⟨p.1 * 32 + j, nbits (leNat (p.2.take 16)) (4 * j) 4, false⟩ : Put)
        let left := if gone.isSome then [] else (x.policyPuts f.msel f.pol).filter fun p => !(bs.any fun b => b.1 == p.i / 32)
        let y := y.puts Fmt.k4 f.vt.toNat (ps ++ left)
        let comp := f.vt.toNat + x.group
        let s := s.setVec c (y.putScales comp (x.vl.toNat / 32) (bs.map fun p => (p.1, inlineScale (leNat (p.2.drop 16)))))
        if gone.isSome then .hold s else .done s
      | .noData s => .done s
      | .exc s e => .exc s e
      | .hold s => .hold s

/-- Stores the three words of each block. -/
def storeBlocks (c : CoreId) : List (Nat × Nat) → State → MemRes Unit
  | [], s => .ok s ()
  | (ea, w) :: t, s =>
    match s.coreStore c ea (leBytes 8 w) with
    | .ok s _ => storeBlocks c t s
    | r => r

def k4inlStore (c : CoreId) (f : FmtVM) : State → Res := fun s =>
  let x := s.vec c
  let b := (s.sc c).rg f.gb
  match vmCheck f true x with
  | some r => vecConfig c s r
  | none =>
    if b.toNat % 8 != 0 then .exc s (vmMisaligned Fmt.k4 b true)
    else
      let comp := f.vt.toNat + x.group
      let ws := (x.k4Blocks f.msel).flatMap fun k =>
        let a := (b + word (24 * k)).toNat
        let code (j : Nat) : Nat := (x.elem Fmt.k4 f.vt.toNat (k * 32 + j)).bits
        let w (h : Nat) : Nat := packWord Fmt.k4 ((List.range 16).map fun j => code (16 * h + j)) false
        [(a, w 0), (a + 8, w 1), (a + 16, inlineWord (x.scale comp k))]
      match checkWords c 8 (ws.map Prod.fst) s with
      | .ok s _ =>
        let (gone, s) := s.abandoned c 8 (ws.map Prod.fst)
        (storeBlocks c (happening gone ws) s).toRes (fun s _ => if gone.isSome then .hold s else .done s) .done
      | .noData s => .done s
      | .exc s e => .exc s e
      | .hold s => .hold s

/-! ### The instructions -/

/-- A vector load in any mode; with VL = 0 only the checks are made (R189). -/
def vectorLoadBody (c : CoreId) (f : FmtVM) : State → Res :=
  if f.mode = modeK4inl then k4inlLoad c f else vloadBody c f

def vectorStoreBody (c : CoreId) (f : FmtVM) : State → Res :=
  if f.mode = modeK4inl then k4inlStore c f else vstoreBody c f

/-- VECTOR_LOAD (R208-R211). -/
def execVectorLoad (c : CoreId) (g : Guard) (f : FmtVM) (s : State) : Out :=
  .next (s.issue c g (vmfBad f.mode f.param false) (vectorLoadBody c f))

/-- VECTOR_STORE (R208-R211). -/
def execVectorStore (c : CoreId) (g : Guard) (f : FmtVM) (s : State) : Out :=
  .next (s.issue c g (vmfBad f.mode f.param true) (vectorStoreBody c f))

/-- The V.M layout with its mode in place. -/
def vmWithMode (f : FmtVMmode) (mode : BitVec 3) : FmtVM :=
  { vt := f.vt, gb := f.gb, mode := mode, param := f.param, msel := f.msel, pol := f.pol }

/-- FIRST_FAULT_LOAD (R213). -/
def execFirstFaultLoad (c : CoreId) (g : Guard) (f : FmtVMmode) (s : State) : Out :=
  .next (s.issue c g (vmfBad modeFF f.param false) (vloadBody c (vmWithMode f modeFF)))

/-- K4INL (R212): a load or a store. -/
def execK4inl (c : CoreId) (g : Guard) (store : Bool) (f : FmtVMmode) (s : State) : Out :=
  .next (s.issue c g (vmfBad modeK4inl f.param store)
    (if store then k4inlStore c (vmWithMode f modeK4inl) else k4inlLoad c (vmWithMode f modeK4inl)))

/-! ### VCFG and VLEN -/

/-- A write of VCFG (R192). -/
def Vec.writeCfg (x : Vec) (v : Word) : Vec :=
  let e := v.extractLsb' 0 4
  let cf := v.extractLsb' 8 4
  if v &&& ~~~0x1f3f#64 != 0#64 || FmtCode.reserved e || FmtCode.reserved cf then { x with cfgRej := true }
  else
    let y := { x with om := v.getLsbD 12, cfmt := cf, grp := v.extractLsb' 4 2, efmt := e }
    { y with vl := if y.vlmax < y.vl.toNat then BitVec.ofNat 12 y.vlmax else y.vl }

/-- A write of VLEN (R193). -/
def Vec.writeVlen (x : Vec) (v : Word) : Vec :=
  if v &&& ~~~0xfff#64 != 0#64 || x.vlmax < v.toNat then { x with cfgRej := true } else { x with vl := v.extractLsb' 0 12 }

/-- VSTAT as it reads (Table 7.4). -/
def Vec.vstat (x : Vec) : Word :=
  let b (i : Nat) (v : Bool) : Word := if v then 1#64 <<< i else 0#64
  (x.reason.setWidth 64 <<< 16) ||| b 14 x.checkRetried ||| b 13 x.cfgRej ||| (x.trapEn.setWidth 64 <<< 8) |||
    b 7 x.ffTrunc ||| b 6 x.empty ||| x.flags.setWidth 64

/-- A write of VSTAT: W1C bits and TRAPEN. -/
def Vec.writeVstat (x : Vec) (v : Word) : Vec :=
  { x with
    checkRetried := x.checkRetried && !v.getLsbD 14
    cfgRej := x.cfgRej && !v.getLsbD 13
    trapEn := v.extractLsb' 8 5
    ffTrunc := x.ffTrunc && !v.getLsbD 7
    empty := x.empty && !v.getLsbD 6
    flags := x.flags &&& ~~~(v.extractLsb' 0 6) }

end Sys2Proof.Machine
end

