-- ==== Sys2Proof/Machine/Matrix.lean ====
section
/-! DEFINITION. Meanings of the matrix engine's commands: weight loads, MX.SEQ and its steps, drains, accumulator restores,
skew windows, the matrix ports (R86-R119). -/

namespace Sys2Proof.Machine

/-! ### Fields of MCFG (Table 4.6) -/

def cfgMode (w : Word) : Nat := fld w 3 0
def cfgA (w : Word) : FmtCode := w.extractLsb' 4 4
def cfgB (w : Word) : FmtCode := w.extractLsb' 8 4
def cfgRows (w : Word) : Nat := fld w 20 14
def cfgBank (w : Word) : Bool := w.getLsbD 21
def cfgTrapInv (w : Word) : Bool := w.getLsbD 22
def cfgAutow (w : Word) : Bool := w.getLsbD 23

/-- Reasons of MSTAT.REASON (Table 4.13). -/
def mxLengthOver : BitVec 8 := 1#8
def mxNoWeights : BitVec 8 := 2#8
def mxBusy : BitVec 8 := 3#8
def mxReserved : BitVec 8 := 4#8
def mxBadImage : BitVec 8 := 5#8
def mxLayout : BitVec 8 := 6#8

def bankIx (b : Bool) : Fin 2 := if b then 1 else 0

/-! ### Helpers -/

/-- The matrix-configuration exception with its reason (Tables 8.1, 4.13). -/
def mxTrap (s : State) (c : CoreId) (reason : BitVec 8) : Res :=
  .exc (s.updMx c fun m => { m with reason := reason }) { code := excMatrixConfig, info := reason, eaddr := 0#64 }

/-- The misaligned-access exception of a lagoon operand (R95). -/
def mxMisaligned (o : Nat) (store : Bool) : Exc :=
  { code := excMisaligned, info := 0x13#8 ||| storeBit store, eaddr := word (ownBase + o) }

/-- Lagoon bytes from an offset that wraps modulo 1 MiB (R89). -/
def readWrap (m : Bytes) (o n : Nat) : List Byte := (List.range n).map fun i => byteAt m ((o + i) % lagoonSize)

/-- Writes lagoon bytes from an offset that wraps modulo 1 MiB. -/
def writeWrap (m : Bytes) (o : Nat) (bs : List Byte) : Bytes :=
  bs.zipIdx.foldl (fun m x => setByte m ((o + x.2) % lagoonSize) x.1) m

/-- Writes lagoon bytes from an offset that wraps; a word written whole is good again. -/
def Scalar.putWrap (x : Scalar) (o : Nat) (bs : List Byte) : Scalar :=
  let at_ := o % lagoonSize
  { x with
    lagoon := writeWrap x.lagoon o bs
    lagoonBad := stillBad (stillBad x.lagoonBad at_ bs.length) 0 (at_ + bs.length - lagoonSize) }

/-- The first bad word that a range meets whose offsets wrap. -/
def badWrap (bad : List Nat) (o n : Nat) : Option Nat :=
  let at_ := o % lagoonSize
  badIn bad at_ n <|> badIn bad 0 (at_ + n - lagoonSize)

/-- The first bad word that ranges meet whose offsets wrap. -/
def badWraps (bad : List Nat) (rs : List (Nat × Nat)) : Option Nat := if bad.isEmpty then none else rs.findSome? fun r => badWrap bad r.1 r.2

/-- Reads of ranges of the own lagoon by the matrix engine: a bad word fails the launch and answers `bad`, and otherwise `k` goes on
(R251, R283). -/
def State.feed {α : Type} (s : State) (c : CoreId) (rs : List (Nat × Nat)) (bad : State → α) (k : Unit → α) : α :=
  match badWraps (s.sc c).lagoonBad rs with
  | some b => bad (s.localBad c (lagoonSource c) 5 b)
  | none => k ()

/-- Values as read while another agent may have written them: each is the old value or the new one, and which is free
(R96). -/
def pickOldNew {α : Type} [DecidableEq α] (free sh : Nat) (old new : List α) : List α :=
  (old.zip new).zipIdx.map fun x =>
    if x.1.1 = x.1.2 then x.1.2 else if (Config.freeNat free).testBit (sh + x.2) then x.1.1 else x.1.2

/-- Weight register `r`. -/
def Mx.wr (m : Mx) (r : Bool) : WReg := if r then m.wr1 else m.wr0

def Mx.setWr (m : Mx) (r : Bool) (w : WReg) : Mx := if r then { m with wr1 := w } else { m with wr0 := w }

def WReg.used (w : WReg) : Bool := w.st != 0#2

/-- The EMPTY register that the next chunk takes: the one MX.SEQ uses next if it is empty (R91). -/
def Mx.freeWr (m : Mx) : Bool := if (m.wr m.wnext).used then !m.wnext else m.wnext

/-- Lagoon offsets of a chunk's segments (R89): n columns, or with T k rows. -/
def Mx.chunkOffs (m : Mx) (base c : Nat) (t : Bool) : List Nat :=
  let md := cfgMode m.mcfg
  (List.range (if t then modeK md else modeN md)).map fun j =>
    (base + j * m.wcol.toNat + c * m.wchunk.toNat) % lagoonSize

/-- The first offset that is not a multiple of `al` (R95). -/
def firstOff (al : Nat) (offs : List Nat) : Option Nat := offs.find? fun o => o % al != 0

/-- Starts a weight load in the background (R105). `lagoon` holds the bytes as they were when the instruction that reads them issued
(R96). -/
def Mx.startLoad (m : Mx) (lagoon : Bytes) (offs : List Nat) (t : Bool) : Mx :=
  let md := cfgMode m.mcfg
  m.setWr m.freeWr
    { st := 1#2, fmt := cfgB m.mcfg, k := modeK md, n := modeN md, t := t, offs := offs, before := lagoon, cols := [] }

/-- The lagoon ranges of a loading chunk's segments. -/
def WReg.ranges (w : WReg) : List (Nat × Nat) := w.offs.map fun o => (o, segBytes w.fmt (if w.t then w.n else w.k))

/-- The columns of a chunk read from lagoon bytes `l` (R94, R105): with T each segment is a row. -/
def WReg.columns (w : WReg) (l : Bytes) : List (List Opd) :=
  let per := if w.t then w.n else w.k
  let segs := w.offs.map fun o => decodeSegment w.fmt per (readWrap l o (segBytes w.fmt per))
  if w.t then (List.range w.n).map fun j => segs.map fun r => r.getD j (Opd.special .poison)
  else segs

/-! ### MX.CFG and MX.LDW -/

/-- MX.CFG (R104). -/
def execMxCfg (c : CoreId) (g : Guard) (f : FmtMxCfg) (s : State) : Out :=
  .next (s.issue c g (f.rsv != 0#13) fun s =>
    let w := (s.sc c).rg f.gs
    let md := cfgMode w
    if !modeFmtOk md (cfgA w) || !modeFmtOk md (cfgB w) then .exc s (illegal s c)
    else if w &&& 0xffffffffff003000#64 != 0#64 then mxTrap s c mxReserved
    else if 64 < cfgRows w then mxTrap s c mxLengthOver
    else if (s.mx c).progValid then mxTrap s c mxBusy
    else .done (s.updMx c fun m => { m with mcfg := w }))

/-- MX.LDW without ACC (R105). -/
def execMxLdw (c : CoreId) (g : Guard) (f : FmtMxLdw) (s : State) : Out :=
  .next (s.issue c g (f.rsv != 0#10) fun s =>
    let m := s.mx c
    let fm := cfgB m.mcfg
    let offs := m.chunkOffs (fld ((s.sc c).rg f.gw) 19 0) 0 f.t
    if m.progValid || (m.wr0.used && m.wr1.used) then mxTrap s c mxBusy
    else if f.t && fm = Fmt.k4 then mxTrap s c mxLayout
    else
      match firstOff (segAlign fm) offs with
      | some o => .exc s (mxMisaligned o false)
      | none => .done (s.updMx c fun m => m.startLoad (s.sc c).lagoon offs f.t))

/-- WEIGHT_LOAD_COMPLETE (R105): the register's columns have arrived, and it is READY; a bad word delivers no chunk (R283). -/
def execWeightLoadComplete (c : CoreId) (r : Bool) (s : State) : Out :=
  .next (
    let w := (s.mx c).wr r
    if w.st != 1#2 || !s.clocked c || (s.sc c).run = .quarantined then s
    else s.feed c w.ranges (fun s => s.updMx c fun m => m.setWr r WReg.empty) fun _ =>
      let (n, s) := s.takeFree
      let old := w.columns w.before
      let new := w.columns (s.sc c).lagoon
      let cols := (old.zip new).zipIdx.map fun x => pickOldNew n (64 * x.2) x.1.1 x.1.2
      s.updMx c fun m => m.setWr r { w with st := 2#2, offs := [], before := [], cols := cols })

/-- The 4,096 images of a bank in lagoon bytes, in the order of R106. -/
def imagesAt (l : Bytes) (base : Nat) : List (BitVec 128) :=
  (List.range 4096).map fun i => BitVec.ofNat 128 (leNat (readWrap l (base + 16 * i) 16))

/-- The reason for which a restore is refused, if any (R106). -/
def imagesReason (xs : List (BitVec 128)) : Option (BitVec 8) :=
  if xs.any imageReserved then some mxReserved
  else if xs.any fun x => !(accOfImage x).sound then some mxBadImage
  else none

/-- Whether a drain or a restore of a bank is in progress. -/
def Mx.bankBusy (m : Mx) (b : Bool) : Bool := (m.drains.get (bankIx b)).isSome || (m.restores.get (bankIx b)).isSome

/-- MX.LDW with ACC (R106): it waits at issue for a drain of its bank, or an earlier restore of it, to end. -/
def execMxLdwAcc (c : CoreId) (g : Guard) (f : FmtMxLdw) (s : State) : Out :=
  .next (s.issue c g (f.rsv != 0#10 || f.t) fun s =>
    let m := s.mx c
    let base : BitVec 20 := ((s.sc c).rg f.gw).extractLsb' 0 20
    if m.progValid then mxTrap s c mxBusy
    else if base.toNat % 16 != 0 then .exc s (mxMisaligned base.toNat false)
    else if m.bankBusy f.bank then .hold s
    else s.feed c [(base.toNat, 65536)] .done fun _ =>
      match imagesReason (imagesAt (s.sc c).lagoon base.toNat) with
      | some r => mxTrap s c r
      | none => .done (s.updMx c fun m =>
          { m with restores := m.restores.set (bankIx f.bank) (some { base := base, before := (s.sc c).lagoon }) }))

/-- An element of a bank; an unlisted one is cleared. -/
def Mx.acc (m : Mx) (b : Bool) (i : Nat) : Acc := mapGet Acc.clear i (m.banks.get (bankIx b))

def setAcc (i : Nat) (e : Acc) (m : Map Acc) : Map Acc := if e = Acc.clear then mapErase i m else mapSet i e m

def Mx.updBank (m : Mx) (b : Bool) (f : Map Acc → Map Acc) : Mx :=
  { m with banks := m.banks.set (bankIx b) (f (m.banks.get (bankIx b))) }

def Mx.clearEvents (m : Mx) (b : Bool) : Mx :=
  { m with events := m.events.set (bankIx b) (Vector.replicate 4 BankEvent.clear) }

/-- Whether a core's engines still commit (R229, R340). -/
def State.recordsRun (s : State) (c : CoreId) : Bool := s.clocked c && (s.sc c).run != .quarantined

def State.enginesRun (s : State) (c : CoreId) : Bool := s.clocked c && (s.sc c).run != .quarantined && s.launchLive c

/-- ACCUMULATOR_RESTORE_END (R106, R115). -/
def execAccumulatorRestoreEnd (c : CoreId) (bank : Bool) (s : State) : Out :=
  .next (
    match (s.mx c).restores.get (bankIx bank) with
    | none => s
    | some r =>
      let drop (m : Mx) : Mx := { m with restores := m.restores.set (bankIx bank) none }
      if !s.enginesRun c then s
      else s.feed c [(r.base.toNat, 65536)] (fun s => s.updMx c drop) fun _ =>
        let (n, s) := s.takeFree
        let xs := pickOldNew n 0 (imagesAt r.before r.base.toNat) (imagesAt (s.sc c).lagoon r.base.toNat)
        let bank' := xs.zipIdx.foldl (fun b x => setAcc x.2 (accOfImage x.1) b) []
        s.updMx c fun m =>
          drop ((m.updBank bank fun _ => bank').clearEvents bank))

/-! ### MX.SEQ and its steps -/

/-- MX.SEQ (R107-R109): it starts its sequence, or resumes a pending one; each STEP then runs one step, and the last retires
it. -/
def execMxSeq (c : CoreId) (g : Guard) (f : FmtMxSeq) (s : State) : Out :=
  .next (s.issue c g (f.rsv != 0#3) fun s =>
    let x := s.sc c
    let m := s.mx c
    let gc := x.rg f.gc
    let q : Seq :=
      { ga := (x.rg f.ga).extractLsb' 0 20, gw := (x.rg f.gw).extractLsb' 0 20, rc := f.gc,
        chunk := 0#16, pass := 0#4, row := 0#7 }
    let run (m : Mx) : Res := .hold ((s.updMx c fun _ => m).updSc c fun x => { x with run := .matrix })
    if m.progValid then
      if gc = 0#64 then .done (s.updMx c fun m => { m with progValid := false })
      else
        run { m with
          progValid := false
          seq := some { q with chunk := m.progChunk, pass := m.progPass, row := m.progRow } }
    else if gc = 0#64 || cfgRows m.mcfg = 0 then .done s
    else if 0x10000#64 ≤ gc then mxTrap s c mxLengthOver
    else if !m.wr0.used && !m.wr1.used then mxTrap s c mxNoWeights
    else run { m with seq := some q, seen := x.lagoon, passBuf := [] })

/-- Lagoon offset of a shoal's activation segment (R89). -/
def Mx.actOff (m : Mx) (q : Seq) (sh : Nat) : Nat :=
  (q.ga.toNat + sh * m.ashoal.toNat + q.row.toNat * m.arow.toNat + q.chunk.toNat * m.achunk.toNat) % lagoonSize

/-- Whether a drain or a restore of the bank holds back a step of row `i` (R106, R112). -/
def Mx.rowHeld (m : Mx) (b : Bool) (i : Nat) : Bool :=
  (m.restores.get (bankIx b)).isSome ||
    match m.drains.get (bankIx b) with
    | none => false
    | some d =>
      if d.kind = .discard then false
      else (d.kind = .img || i < cfgRows d.cfg) && d.lanes.toList.any fun l => l.read ≤ i

/-- The last row of the cycle in which row `i` is fed (R107): the rows of one cycle go together. -/
def Mx.cycleEnd (m : Mx) (i : Nat) : Nat :=
  let q := modeSteps (cfgMode m.mcfg)
  min (i / q * q + q - 1) (cfgRows m.mcfg - 1)

/-- Whether a step reads a shoal's activation segment from the lagoon: the first pass, a retried shoal, a buffer that holds none. -/
def Mx.reads (m : Mx) (q : Seq) (sh : Nat) (retry : Bool) : Bool :=
  retry || q.pass = 0#4 || (mapFind (64 * sh + q.row.toNat) m.passBuf).isNone

/-- The lagoon ranges of the activation segments that a step reads (R94, R102). -/
def Mx.stepRanges (m : Mx) (q : Seq) (first : BitVec 4) : List (Nat × Nat) :=
  ((List.range 4).filter fun sh => m.reads q sh (first.getLsbD sh)).map fun sh =>
    (m.actOff q sh, segBytes (cfgA m.mcfg) (modeK (cfgMode m.mcfg)))

/-- Whether chunk c + 1 must be loaded as chunk c starts (R93). -/
def Mx.mustLoad (m : Mx) (q : Seq) (gc : Nat) : Bool :=
  cfgAutow m.mcfg && q.pass = 0#4 && q.row = 0#7 && !(m.wr (!m.wnext)).used &&
    modePasses (cfgMode m.mcfg) * cfgRows m.mcfg < gc

/-- The activation segment of a shoal (R94, R102): later passes take it from the pass buffer, a retried shoal and the first
pass read it from the lagoon. -/
def Mx.activation (m : Mx) (lagoon : Bytes) (q : Seq) (free sh : Nat) (retry : Bool) : List Opd :=
  let f := cfgA m.mcfg
  let k := modeK (cfgMode m.mcfg)
  let read (l : Bytes) := decodeSegment f k (readWrap l (m.actOff q sh) (segBytes f k))
  match (if retry || q.pass = 0#4 then none else mapFind (64 * sh + q.row.toNat) m.passBuf) with
  | some xs => xs
  | none => pickOldNew free (64 * sh) (read m.seen) (read lagoon)

/-- An element of any value the checks accept: what a step leaves whose weight chunk was loaded for another mode. -/
def freeAcc (n i : Nat) : Acc :=
  let x := Config.freeNat n / 2 ^ (128 * i)
  let sig := BitVec.ofNat 96 x
  { sig := sig, exp := BitVec.ofNat 14 (x / 2 ^ 96), sticky := x.testBit 110, residue := residue7 sig.toInt,
    special := [spNone, spPinf, spNinf, spInv, spInvP].getD (x / 2 ^ 111 % 5) spNone }

/-- Whether a chunk has the shape and a format of the mode in force. -/
def WReg.fits (w : WReg) (md : Nat) : Bool := w.k = modeK md && w.n = modeN md && modeFmtOk md w.fmt

/-- The bank after a step's updates (R90): row i, columns 0 to n - 1 of every shoal. -/
def Mx.stepBank (m : Mx) (q : Seq) (acts : List (List Opd)) (free : Nat) (bank : Map Acc) : Map Acc :=
  let md := cfgMode m.mcfg
  let w := m.wr m.wnext
  acts.zipIdx.foldl (fun b x =>
    (List.range (modeN md)).foldl (fun b j =>
      let key := 1024 * x.2 + 16 * q.row.toNat + j
      let e := mapGet Acc.clear key bank
      let e' := if w.fits md then e.update md q.pass.toNat x.1 (w.cols.getD j []) else freeAcc free (16 * x.2 + j)
      setAcc key e' b) b) bank

/-- Whether every element that a step updates passes its stored check (R86). -/
def Mx.rowSound (m : Mx) (q : Seq) : Bool :=
  (List.range 4).all fun sh => (List.range (modeN (cfgMode m.mcfg))).all fun j =>
    (m.acc (cfgBank m.mcfg) (1024 * sh + 16 * q.row.toNat + j)).sound

/-- Records a step's retries: the counter once, the event words of the shoals whose check failed (R86, R115). -/
def Mx.noteRetry (m : Mx) (row : Nat) (first : BitVec 4) : Mx :=
  if first = 0#4 then m
  else
    let b := bankIx (cfgBank m.mcfg)
    let ev := (m.events.get b).mapIdx fun sh e =>
      if first.getLsbD sh then { retried := true, mask := e.mask ||| (1#64 <<< row), retries := satInc e.retries } else e
    { m with mretry := satInc m.mretry, events := m.events.set b ev }

/-- The position after a step (R107); a chunk that ends frees its register and turns to the next one (R91). -/
def Mx.advance (m : Mx) (q : Seq) : Mx :=
  if q.row.toNat + 1 < cfgRows m.mcfg then { m with seq := some { q with row := q.row + 1#7 } }
  else if q.pass.toNat + 1 < modePasses (cfgMode m.mcfg) then { m with seq := some { q with pass := q.pass + 1#4, row := 0#7 } }
  else
    { m.setWr m.wnext WReg.empty with
      wnext := !m.wnext
      passBuf := []
      seq := some { q with chunk := q.chunk + 1#16, pass := 0#4, row := 0#7 } }

/-- The end of MX.SEQ (R91, R107): stopping inside a chunk frees its register as well. -/
def Mx.endSeq (m : Mx) : Mx :=
  match m.seq with
  | none => m
  | some q =>
    if q.pass = 0#4 && q.row = 0#7 then { m with seq := none, seen := [] }
    else { m.setWr m.wnext WReg.empty with wnext := !m.wnext, passBuf := [], seq := none, seen := [] }

/-- Runs one step that passes its checks: commits the updates, counts down gc, retires MX.SEQ after the last (R86, R107). -/
def State.commitStep (s : State) (c : CoreId) (q : Seq) (first : BitVec 4) : State :=
  let (n, s) := s.takeFree
  let m := s.mx c
  let acts := (List.range 4).map fun sh => m.activation (s.sc c).lagoon q n sh (first.getLsbD sh)
  let keep := (pieceWidth (cfgMode m.mcfg)).isSome
  let buf := if keep then
      acts.zipIdx.foldl (fun b x => mapSet (64 * x.2 + q.row.toNat) x.1 b) m.passBuf
    else m.passBuf
  let (n', s) := s.takeFree
  let m := { (m.updBank (cfgBank m.mcfg) (m.stepBank q acts n')).noteRetry q.row.toNat first with passBuf := buf }
  let gc := (s.sc c).rg q.rc - 1#64
  let s := (s.updMx c fun _ => m.advance q).updSc c fun x => x.wg q.rc gc
  if gc = 0#64 then
    ((s.updMx c Mx.endSeq).updSc c fun x => { x with run := .running }).retire c ((s.sc c).pc + 4#64)
  else s

/-- A residue mismatch that its retry repeats (R86): the `n` retries are recorded by `note` and with the launch, the core is quarantined and
the launch fails with CHECK. -/
def State.matrixCheck (s : State) (c : CoreId) (n : Nat) (note : Mx → Mx) : State :=
  ((s.updMx c note).countRetries c n).quarantine c clsCheck (detail [(1, 48), (c.val, 32)]) 0#64

/-- The shoals that hold an element of a step's row whose stored check fails. -/
def Mx.unsoundShoals (m : Mx) (q : Seq) : BitVec 4 :=
  BitVec.ofNat 4 ((List.range 4).foldl (fun a sh =>
    if (List.range (modeN (cfgMode m.mcfg))).all fun j => (m.acc (cfgBank m.mcfg) (1024 * sh + 16 * q.row.toNat + j)).sound then a
    else a + 2 ^ sh) 0)

/-- STEP (R86, R93, R95, R101, R107, R108, R112): one step of the running MX.SEQ. At a boundary where both the weight segment that AUTOW
loads and an activation segment are misaligned, the weight offset is reported, a choice of the model (log 163). While its chunk still loads, or a drain or
restore of its bank has yet to pass its row, the shoals see a bubble and nothing changes (R24). An exception at a step boundary records
the progress first (R95, R108); a bad lagoon word delivers no data, and its step does not commit (R283). -/
def execStep (c : CoreId) (k : StepCheck) (s : State) : Out :=
  .next (
    let m := s.mx c
    match m.seq with
    | none => s
    | some q =>
      if (s.sc c).run != .matrix || !s.clocked c then s
      else
        let w := m.wr m.wnext
        let gc := (s.sc c).rg q.rc
        let fm := cfgA m.mcfg
        let stopped := s.updMx c Mx.suspend
        if !w.used then stopped.finish c (mxTrap stopped c mxNoWeights)
        else if w.st = 1#2 || m.rowHeld (cfgBank m.mcfg) (m.cycleEnd q.row.toNat) then s
        else
          let offs := m.chunkOffs q.gw.toNat (q.chunk.toNat + 1) false
          let load := m.mustLoad q gc.toNat
          match (if load then firstOff (segAlign (cfgB m.mcfg)) offs else none) with
          | some o => stopped.raise c (mxMisaligned o false)
          | none =>
            let acts := (List.range 4).map fun sh => m.actOff q sh
            match (if q.pass = 0#4 then firstOff (segAlign fm) acts else none) with
            | some o => stopped.raise c (mxMisaligned o false)
            | none =>
              if !m.rowSound q || (k.first != 0#4 && k.again) then
                s.matrixCheck c 1 fun m => m.noteRetry q.row.toNat (k.first ||| m.unsoundShoals q)
              else s.feed c (m.stepRanges q k.first) id fun _ =>
                let s := if load then s.updMx c fun m => m.startLoad m.seen offs false else s
                (s.commitStep c q k.first).countRetries c (if k.first = 0#4 then 0 else 1))

/-! ### Drains -/

/-- Illegal encodings of MX.DRN (R103). -/
def drnBad (f : FmtMxDrn) : Bool := f.rsv || !drainTarget f.fmt || !rmFieldOk f.rm f.fmt

def DrainLane.start : DrainLane := { taken := false, read := 0, written := 0, links := [] }

/-- The checks of MX.DRN in their order (R95, R110, R112, R113), then `k`. -/
def drnChecks (c : CoreId) (f : FmtMxDrn) (img : Bool) (k : State → Res) : State → Res := fun s =>
  let m := s.mx c
  let base := fld ((s.sc c).rg f.gd) 19 0
  if m.progValid then mxTrap s c mxBusy
  else if m.trapPend then
    .exc (s.updMx c fun m => { m with trapPend := false }) { code := excMatrixInvalid, info := 0#8, eaddr := 0#64 }
  else if img && base % 16 != 0 then .exc s (mxMisaligned base true)
  else if m.bankBusy f.bank then .hold s
  else k s

/-- Accepts a drain (R111): MCFG, the rounding mode and gd are taken at issue. -/
def startDrain (c : CoreId) (f : FmtMxDrn) (kind : DrainKind) : State → Res := fun s =>
  let gd := (s.sc c).rg f.gd
  .done (s.updMx c fun m =>
    let d : Drain :=
      { kind := kind, cfg := m.mcfg, fmt := f.fmt, rm := if f.rm = rmDYN then m.mround else f.rm, om := f.om, clear := f.clear,
        tag := gd.extractLsb' 0 16, dseq := m.dseq, base := gd.extractLsb' 0 20,
        lanes := Vector.replicate 4 DrainLane.start }
    { m with
      drains := m.drains.set (bankIx f.bank) (some d)
      dseq := if kind = .push && cfgRows m.mcfg != 0 then m.dseq + 1#16 else m.dseq })

/-- MX.DRN (R111): with its IMG bit it writes images. -/
def execMxDrn (c : CoreId) (g : Guard) (f : FmtMxDrn) (s : State) : Out :=
  .next (s.issue c g (drnBad f) (drnChecks c f f.img (startDrain c f (if f.img then .img else .push))))

/-- MX.DRN with IMG (R111): its rows follow as DRAIN_ROW_WRITE. -/
def execMxDrnImg (c : CoreId) (g : Guard) (f : FmtMxDrn) (s : State) : Out :=
  .next (s.issue c g (drnBad f) (drnChecks c f true (startDrain c f .img)))

/-- The elements that a drain of `rows` rows and `n` columns reads. -/
def drainedKey (rows n key : Nat) : Bool := key / 16 % 64 < rows && key % 16 < n

/-- MX.DRN with DISCARD (R111): legal only with CLEAR and without IMG (R103). -/
def execMxDrnDiscard (c : CoreId) (g : Guard) (f : FmtMxDrn) (s : State) : Out :=
  .next (s.issue c g (drnBad f || !f.clear || f.img) (drnChecks c f false fun s =>
    let cfg := (s.mx c).mcfg
    startDrain c f .discard (s.updMx c fun m => m.updBank f.bank fun b =>
      b.filter fun x => !drainedKey (cfgRows cfg) (modeN (cfgMode cfg)) x.1)))

/-- TILE_HDR of a drain's entry for a shoal (Table 4.9). -/
def Drain.hdr (d : Drain) (bank : Bool) (sh : Nat) : Word :=
  word (d.tag.toNat * 2 ^ 48 + d.dseq.toNat * 2 ^ 32 + d.fmt.toNat * 2 ^ 28 + sh * 2 ^ 26 +
    (if bank then 2 ^ 25 else 0) + cfgRows d.cfg * 2 ^ 16 + modeN (cfgMode d.cfg) * 2 ^ 11)

/-- ORs flags and a row mask into a tile status word and adds retries, saturating (R78, R117). -/
def statusAdd (x : BitVec 128) (flags : Flags) (mask : BitVec 64) (retries : Nat) : BitVec 128 :=
  let r : BitVec 16 := BitVec.ofNat 16 (sat 16 (nbits x.toNat 48 16 + retries))
  (x.extractLsb' 64 64 ||| mask) ++ r ++ 0#41 ++ (x.extractLsb' 0 7 ||| flags)

/-- The rounding of one element of a drain (R76, R118). SRTIDE, SROWNER, SRELEM and SRPITCH are read as each row is drained, a choice of
the model: the manual captures MCFG alone at issue (log 191). -/
def Mx.drainRnd (m : Mx) (d : Drain) (sh i j : Nat) : Rnd :=
  if d.rm = rmSR then
    .sr (srThreshold m.srTide m.srOwner (m.srElem + word (sh * fld m.srPitch 63 32 + i * fld m.srPitch 31 0 + j)))
  else .mode d.rm

def popcount (n x : Nat) : Nat := (List.range n).countP fun i => x.testBit i

/-- A shoal's next row, read and rounded (R77, R78, R81): its packed bytes, its flags, its drain-read retries. -/
def Mx.drainRow (m : Mx) (d : Drain) (bank : Bool) (sh i : Nat) (first : BitVec 16) : LinkRow :=
  let n := modeN (cfgMode d.cfg)
  let xs := (List.range n).map fun j => (m.acc bank (1024 * sh + 16 * i + j)).drain d.fmt (m.drainRnd d sh i j) d.om
  let retries := popcount n first.toNat
  { data := packTensor d.fmt xs
    flags := xs.foldl (fun a x => a ||| x.flags) (Flags.when (retries != 0) Flags.checkRetried)
    retries := retries }

def Drain.lane (d : Drain) (sh : Nat) : DrainLane := d.lanes.get (Fin.ofNat 4 sh)

def Drain.setLane (d : Drain) (sh : Nat) (l : DrainLane) : Drain := { d with lanes := d.lanes.set (Fin.ofNat 4 sh) l }

def Mx.setDrain (m : Mx) (bank : Bool) (d : Drain) : Mx := { m with drains := m.drains.set (bankIx bank) (some d) }

/-- Counts `n` retried drain reads (R86). -/
def Mx.countRetries (m : Mx) (n : Nat) : Mx := { m with mretry := BitVec.ofNat 32 (sat 32 (m.mretry.toNat + n)) }

/-- A shoal's lanes read their next row when the links have room (R114). -/
def Mx.readRow (m : Mx) (d : Drain) (bank : Bool) (sh : Nat) (first : BitVec 16) : Mx × Drain :=
  let l := d.lane sh
  if cfgRows d.cfg ≤ l.read || 8 ≤ l.links.length then (m, d)
  else
    let r := m.drainRow d bank sh l.read first
    let n := modeN (cfgMode d.cfg)
    let m := m.countRetries r.retries
    let m := if d.clear then
        m.updBank bank fun b => b.filter fun x => !(x.1 / 16 = 64 * sh + l.read && x.1 % 16 < n)
      else m
    (m, d.setLane sh { l with read := l.read + 1, links := l.links ++ [r] })

/-- Whether a drain pushes entries: one without IMG or DISCARD and with rows (R111). -/
def Drain.pushes (d : Drain) : Bool := d.kind = .push && cfgRows d.cfg != 0

/-- A shoal takes a tile-queue entry, in shoal order (R114, R116), and behind every entry of an earlier drain of the other bank, so
that tiles keep the order of their MX.DRNs (R25). -/
def Mx.takeEntry (m : Mx) (d : Drain) (bank : Bool) (sh : Nat) : Mx × Drain :=
  let l := d.lane sh
  let behind := match m.drains.get (bankIx !bank) with
    | none => false
    | some o => o.pushes && 0x8000#16 ≤ o.dseq - d.dseq && !(o.lanes.toList.all DrainLane.taken)
  if !d.pushes || behind || l.taken || 8 ≤ m.tq.length || !((List.range sh).all fun t => (d.lane t).taken) then (m, d)
  else
    ({ m with tq := m.tq ++ [{ hdr := d.hdr bank sh, status := 0#128, data := [], visible := false }] },
      d.setLane sh { l with taken := true })

/-- Completes an entry: the bank event word is merged, the flags reach MFLAGS, the entry is visible (R78, R113, R115, R116). -/
def Mx.completeTile (m : Mx) (d : Drain) (bank : Bool) (sh : Nat) (t : Tile) : Mx × Tile :=
  let e := (m.events.get (bankIx bank)).get (Fin.ofNat 4 sh)
  let st := statusAdd t.status (Flags.when e.retried Flags.checkRetried) e.mask e.retries.toNat
  let fl : Flags := st.extractLsb' 0 7
  ({ m with
      mflags := m.mflags ||| fl
      trapPend := m.trapPend || (cfgTrapInv d.cfg && fl &&& Flags.invalid != 0#7) },
    { t with status := st, visible := true })

/-- Writes the oldest row of a shoal's links into its entry (R114). -/
def Mx.writeRow (m : Mx) (d : Drain) (bank : Bool) (sh : Nat) : Mx × Drain :=
  let l := d.lane sh
  match l.taken, l.links with
  | true, r :: rest =>
    let mine (t : Tile) : Bool := t.hdr == d.hdr bank sh && !t.visible
    match m.tq.find? mine with
    | none => (m, d)
    | some t =>
      let mask : BitVec 64 := if r.flags = 0#7 then 0#64 else 1#64 <<< l.written
      let t := { t with status := statusAdd t.status r.flags mask r.retries, data := t.data ++ r.data }
      let (m, t) := if l.written + 1 = cfgRows d.cfg then m.completeTile d bank sh t else (m, t)
      ({ m with tq := m.tq.map fun u => if mine u then t else u },
        d.setLane sh { l with written := l.written + 1, links := rest })
  | _, _ => (m, d)

/-- One row of a shoal's images into the lagoon (R106, R111). -/
def State.imageRow (s : State) (c : CoreId) (d : Drain) (bank : Bool) (sh : Nat) (first : BitVec 16) : State :=
  let l := d.lane sh
  if 64 ≤ l.read then s
  else
    let m := s.mx c
    let row := 64 * sh + l.read
    let bs := (List.range 16).flatMap fun j => leBytes 16 (m.acc bank (16 * row + j)).image.toNat
    let m := m.countRetries (popcount 16 first.toNat)
    let m := if d.clear then m.updBank bank fun b => b.filter fun x => x.1 / 16 != row else m
    let d := d.setLane sh { l with read := l.read + 1 }
    (s.updMx c fun _ => m.setDrain bank d).updSc c fun x =>
      x.putWrap (d.base.toNat + 256 * row) bs

/-- Whether the `n` elements that a drain reads next pass their stored checks. -/
def Mx.drainSound (m : Mx) (d : Drain) (bank : Bool) (sh n : Nat) : Bool :=
  (List.range n).all fun j => (m.acc bank (1024 * sh + 16 * (d.lane sh).read + j)).sound

/-- DRAIN_ROW_WRITE (R77, R86, R114): shoal `shoal` of the bank's drain takes an entry if one is free, reads and rounds its next
row if its links have room, and writes its oldest row; an IMG drain writes a row of images. -/
def execDrainRowWrite (c : CoreId) (bank : Bool) (shoal : BitVec 2) (k : DrainCheck) (s : State) : Out :=
  .next (
    let m := s.mx c
    let sh := shoal.toNat
    match m.drains.get (bankIx bank) with
    | none => s
    | some d =>
      if !s.enginesRun c || d.kind = .discard then s
      else
        let l := d.lane sh
        let n := if d.kind = .img then 16 else modeN (cfgMode d.cfg)
        let reads := if d.kind = .img then l.read < 64 else l.read < cfgRows d.cfg && l.links.length < 8
        if reads && (!m.drainSound d bank sh n || (popcount n k.first.toNat != 0 && k.again)) then
          let r := max 1 (popcount n k.first.toNat)
          s.matrixCheck c r fun m => m.countRetries r
        else if d.kind = .img then
          (s.imageRow c d bank sh k.first).countRetries c (if reads then popcount n k.first.toNat else 0)
        else
          let (m, d) := m.takeEntry d bank sh
          let (m, d) := m.readRow d bank sh k.first
          let (m, d) := m.writeRow d bank sh
          (s.updMx c fun _ => m.setDrain bank d).countRetries c (if reads then popcount n k.first.toNat else 0))

/-- Whether a drain has nothing left to read or write. A drain with IMG writes all 4,096 images whatever ROWS is, a choice of the model
where R111 also says that ROWS = 0 drains nothing (log 191). -/
def Drain.finished (d : Drain) : Bool :=
  match d.kind with
  | .discard => true
  | .img => d.lanes.toList.all fun l => 64 ≤ l.read
  | .push => d.lanes.toList.all fun l => cfgRows d.cfg ≤ l.written

/-- Empties the tile queue. -/
def Mx.discardTiles (m : Mx) : Mx :=
  { m with tq := [], tqHead := m.tqHead + BitVec.ofNat 3 m.tq.length, discardWait := false }

/-- DRAIN_END (R111, R112, R115): with CLEAR the bank event words are cleared, and a TQDISCARD that waits takes place. -/
def execDrainEnd (c : CoreId) (bank : Bool) (s : State) : Out :=
  .next (
    match (s.mx c).drains.get (bankIx bank) with
    | none => s
    | some d =>
      if !d.finished || !s.enginesRun c then s
      else s.updMx c fun m =>
        let m := if d.clear then m.clearEvents bank else m
        let m := { m with drains := m.drains.set (bankIx bank) none }
        if m.discardWait && m.drains.toList.all Option.isNone then m.discardTiles else m)

/-! ### Skew windows (R97-R100) -/

def skewMask : Word := 0x9f001fff0fff0fff#64
def skewEn (w : Word) : Bool := w.getLsbD 63
def skewRot (w : Word) : Nat := fld w 60 56
def skewSize (w : Word) : Nat := fld w 44 32
def skewPitch (w : Word) : Nat := fld w 27 16
def skewBase (w : Word) : Nat := fld w 11 0

/-- The lagoon bank of the word at an offset (R97). -/
def Mx.lagoonBank (m : Mx) (a : Nat) : Nat :=
  let w := a / 8
  match m.lskew.toList.find? fun x => skewEn x && 256 * skewBase x ≤ a && a < 256 * (skewBase x + skewSize x) with
  | some x => (w + (a - 256 * skewBase x) / (256 * skewPitch x) * skewRot x) % 32
  | none => w % 32

/-- Whether a write of an LSKEW port is ignored (R99). -/
def Mx.skewRejected (m : Mx) (x : Fin 4) (w : Word) : Bool :=
  m.progValid ||
    (skewEn w &&
      (skewRot w % 2 = 0 || skewPitch w = 0 || skewSize w = 0 || skewSize w % skewPitch w != 0 ||
        4096 < skewBase w + skewSize w ||
        (List.finRange 4).any fun y =>
          let u := m.lskew.get y
          y != x && skewEn u && skewBase w < skewBase u + skewSize u && skewBase u < skewBase w + skewSize w))

/-- Free bytes over an enabled window (R100). -/
def scrambled (free : Nat) (w : Word) (l : Bytes) : Bytes :=
  if skewEn w then writeBytes l (256 * skewBase w) (leBytes (256 * skewSize w) (Config.freeNat free)) else l

/-- A write of LSKEW port `x` (R99, R100). -/
def State.writeLskew (s : State) (c : CoreId) (x : Fin 4) (v : Word) : State :=
  let w := v &&& skewMask
  let m := s.mx c
  let old := m.lskew.get x
  if m.skewRejected x w then s.updMx c fun m => { m with skewReject := true }
  else if w = old then s
  else
    let (n1, s) := s.takeFree
    let (n2, s) := s.takeFree
    (s.updMx c fun m => { m with lskew := m.lskew.set x w }).updSc c fun y =>
      { y with lagoon := scrambled n2 w (scrambled n1 old y.lagoon) }

/-! ### Ports 0x0100-0x01ff (R119) -/

/-- MPROG as its port reads (Table 4.15). -/
def Mx.mprog (m : Mx) : Word :=
  word ((if m.progValid then 2 ^ 63 else 0) + m.progChunk.toNat * 2 ^ 24 + m.progPass.toNat * 2 ^ 20 + m.progRow.toNat * 2 ^ 13)

/-- MSTAT as its port reads (Table 4.13). -/
def Mx.mstat (m : Mx) : Word :=
  let b (x : Bool) (i : Nat) : Nat := if x then 2 ^ i else 0
  word (m.reason.toNat * 2 ^ 32 + b m.skewReject 15 + m.wr1.st.toNat * 2 ^ 6 + m.wr0.st.toNat * 2 ^ 4 + b m.wnext 3 +
    b (m.drains.get 1).isSome 2 + b (m.drains.get 0).isSome 1 + b m.progValid 0)

/-- What a matrix port reads (Table 4.12). -/
def Mx.portIn (m : Mx) (p : Nat) : Word :=
  match p with
  | 0x100 => m.mcfg
  | 0x101 => m.mstat
  | 0x102 => (if m.trapPend then 0x80#64 else 0#64) ||| m.mflags.setWidth 64
  | 0x103 => m.mretry.setWidth 64
  | 0x104 => m.mprog
  | 0x105 => m.mround.setWidth 64
  | 0x108 => m.arow.setWidth 64
  | 0x109 => m.ashoal.setWidth 64
  | 0x10a => m.achunk.setWidth 64
  | 0x10b => m.wcol.setWidth 64
  | 0x10c => m.wchunk.setWidth 64
  | 0x110 => m.srTide
  | 0x111 => m.srOwner.setWidth 64
  | 0x112 => m.srElem
  | 0x113 => m.srPitch
  | 0x120 => (m.tqHead.setWidth 64 <<< 4) ||| word m.tq.length
  | 0x140 => m.lskew.get 0
  | 0x141 => m.lskew.get 1
  | 0x142 => m.lskew.get 2
  | 0x143 => m.lskew.get 3
  | _ => 0#64

/-- Abandons an interrupted MX.SEQ (R110). -/
def Mx.abandon (m : Mx) : Mx :=
  if m.progValid then
    { m with progValid := false, wr0 := WReg.empty, wr1 := WReg.empty, passBuf := [], seen := [] }
  else m

/-- A write of a matrix port that changes the engine alone (Table 4.12). -/
def Mx.portOut (m : Mx) (p : Nat) (v : Word) : Mx :=
  let stride (f : Mx → BitVec 20 → Mx) : Mx := if m.progValid then m else f m (v.extractLsb' 0 20)
  match p with
  | 0x101 => if v.getLsbD 15 then { m with skewReject := false } else m
  | 0x102 => { m with trapPend := m.trapPend && !v.getLsbD 7, mflags := m.mflags &&& ~~~(v.extractLsb' 0 7) }
  | 0x103 => if v.extractLsb' 0 32 = 0#32 then { m with mretry := 0#32 } else m
  | 0x104 => if v.getLsbD 63 then m.abandon else m
  | 0x105 => if rmPortOk (v.extractLsb' 0 3) then { m with mround := v.extractLsb' 0 3 } else m
  | 0x108 => stride fun m x => { m with arow := x }
  | 0x109 => stride fun m x => { m with ashoal := x }
  | 0x10a => stride fun m x => { m with achunk := x }
  | 0x10b => stride fun m x => { m with wcol := x }
  | 0x10c => stride fun m x => { m with wchunk := x }
  | 0x110 => { m with srTide := v }
  | 0x111 => { m with srOwner := v.extractLsb' 0 11 }
  | 0x112 => { m with srElem := v }
  | 0x113 => { m with srPitch := v }
  | _ => m

/-- The lowest level that may write a port, for a port access row. -/
def outPort (c : CoreId) (lo : BitVec 2) (port : Nat) (k : State → State) (s : State) : State :=
  s.issue c alwaysGuard false fun s =>
    if lo ≤ (s.sc c).priv then .done (k s) else .exc s { code := excPrivilege, info := 2#8, eaddr := word port }

/-- MPROG_ABANDON (R110): an OUT of 1 to MPROG.VALID. -/
def execMprogAbandon (c : CoreId) (s : State) : Out :=
  .next (outPort c privRuntime 0x104 (fun s => s.updMx c Mx.abandon) s)

/-- LSKEW (R99): an OUT to LSKEW port `n`. -/
def execLskew (c : CoreId) (n : BitVec 2) (v : Word) (s : State) : Out :=
  .next (outPort c privTask (0x140 + n.toNat) (fun s => s.writeLskew c (Fin.ofNat 4 n.toNat) v) s)

end Sys2Proof.Machine
end

