-- ==== Sys2Proof/Machine/Windows.lean ====
section
/-! DEFINITION. Reduction windows (R260-R266): contributions, staging, ARM and ABORT. -/

namespace Sys2Proof.Machine

/-- A window that nothing has armed. -/
def Window.reset : Window where
  base := 0#64
  cfg := 0#64
  opened := false
  done := false
  err := false
  reason := 0#8
  empty := false
  flags := 0#7
  linesDone := 0
  dpa := 0
  ctx := 0
  launch := none
  next := []
  vals := []
  spoiled := false
  staged := []

def State.window (s : State) (i : IsleId) (w : Nat) : Window := mapGet Window.reset w (s.isle i).windows

def State.setWindow (s : State) (i : IsleId) (w : Nat) (x : Window) : State :=
  s.updIsle i fun y => { y with windows := mapSet w x y.windows }

/-! ### RWCFG (Table 9.6) -/

def Window.acc (w : Window) : Bool := w.cfg.getLsbD 47
def Window.om (w : Window) : Bool := w.cfg.getLsbD 46
def Window.rm (w : Window) : BitVec 3 := w.cfg.extractLsb' 43 3
def Window.op (w : Window) : Nat := fld w.cfg 42 39
def Window.fmt (w : Window) : FmtCode := w.cfg.extractLsb' 35 4
def Window.n (w : Window) : Nat := fld w.cfg 34 24

/-- Reasons of RWSTAT (Table 9.7). -/
def rwFormat : BitVec 8 := 2#8
def rwMode : BitVec 8 := 3#8
def rwLength : BitVec 8 := 4#8
def rwAlign : BitVec 8 := 5#8
def rwHome : BitVec 8 := 6#8
def rwBusy : BitVec 8 := 7#8
def rwOrder : BitVec 8 := 8#8

/-- The formats of R261. -/
def rwFmtOk (f : FmtCode) : Bool := f.isLong || f = Fmt.k18 || wraps f

/-- The OP and FMT pairs of R261. -/
def rwOpOk (op : Nat) (f : FmtCode) : Bool := op = 1 || op = 3 || op = 4 || ((op = 7 || op = 8 || op = 9) && wraps f)

/-! ### Lines as elements -/

/-- The elements of a line, with their words' poison bits. -/
def lineElems (f : FmtCode) (bs : List Byte) : List Elem :=
  (List.range (128 / f.wordBytes * f.perWord)).map fun j =>
    let v := packedVal f bs j
    ⟨v.1, v.2⟩

/-- The bytes of a line; K18 words are written whole, with the poison bit of their exceptional elements (R261). -/
def lineBytes (f : FmtCode) (xs : List Elem) : List Byte :=
  packTensor f (xs.map fun x => ⟨x.bits, x.poisoned, Flags.none⟩)

/-- Applies a contribution to the elements so far (R261): the elements, and the flags raised, POISON_IN among them. -/
def Window.combine (w : Window) (old : Option (List Elem)) (new : List Elem) : List Elem × Flags :=
  let pin := Flags.when (new.any Elem.poisoned) Flags.poisonIn
  match old with
  | none => (new, pin)
  | some xs =>
    let rs := (xs.zip new).map fun x => elemOp (redElemOp w.op) w.fmt (.mode w.rm) w.om x.1 x.2 x.1
    (rs.map fun r => ⟨r.bits, r.exc⟩, rs.foldl (fun a r => a ||| r.flags) pin)

/-! ### Contributions (R260-R262) -/

/-- What a contribution meets: it is applied or staged; it is rejected; its line's memory cannot be read, or written; the staging area is
full. -/
inductive Contrib where
  | ok (s : State)
  | rejected (s : State)
  | bad (write : Bool)
  | full
deriving DecidableEq, Repr

/-- Staging lines of an isle in use, and its size in MiB (R262). -/
def Isle.stagingUsed (x : Isle) : Nat := (x.windows.map fun w => w.2.staged.length).foldl (· + ·) 0

/-- The partition of an isle sets its staging area. -/
def State.stagingMiB (s : State) (i : IsleId) : Nat := s.hb.staging.get (Fin.ofNat 8 (s.hb.partition.get i))

/-- Ends a window whose every line is complete; one that an ordinary access met holds undefined bytes (R263). -/
def State.closeWindow (s : State) (i : IsleId) (wi : Nat) : State :=
  let w := s.window i wi
  if w.linesDone < w.lines then s
  else
    let s := if w.spoiled then s.scrambleWindow w else s
    s.setWindow i wi { w with opened := false, done := true, next := [], vals := [], spoiled := false }

/-- Applies the contribution whose index is a line's next one (R260, R261); the last writes the line. An ACC line that cannot be read, or a
line of a Mid that is offline, is met as an uncorrectable error (R271, R283). -/
def State.applyContribution (s : State) (i : IsleId) (wi line : Nat) (data : List Byte) : Contrib :=
  let w := s.window i wi
  let a := w.dpa + 128 * line
  let k := mapGet 0 line w.next
  if k = 0 && w.acc && s.unreadable a 128 then .bad false
  else if k + 1 = w.n && s.midOffline a then .bad true
  else
    let old := if k = 0 then (if w.acc then some (lineElems w.fmt (readBytes s.mem a 128)) else none) else mapFind line w.vals
    let pin := Flags.when (k = 0 && (old.getD []).any Elem.poisoned) Flags.poisonIn
    let (xs, fl) := w.combine old (lineElems w.fmt data)
    let last := k + 1 = w.n
    let w' : Window :=
      { w with
        flags := w.flags ||| fl ||| pin
        next := mapSet line (k + 1) w.next
        vals := if last then mapErase line w.vals else mapSet line xs w.vals
        linesDone := if last then w.linesDone + 1 else w.linesDone }
    let s := (s.setWindow i wi w').throughCove none a 128 last
    let s := if last then
        { s with
          mem := writeBytes s.mem a (lineBytes w.fmt xs)
          marks := s.marks.filter fun b => !coversBlock a 128 b }
      else s
    .ok (s.closeWindow i wi)

/-- Rejects a contribution: the window records ORDER (R260). -/
def State.rejectContribution (s : State) (i : IsleId) (wi : Nat) : Contrib :=
  .rejected (s.setWindow i wi { s.window i wi with err := true, reason := rwOrder })

/-- One contribution with index `idx` to the line at `dpa` (R260, R262). -/
def State.contribute (s : State) (i : IsleId) (wi dpa idx : Nat) (data : List Byte) : Contrib :=
  let w := s.window i wi
  let line := (dpa - w.dpa) / 128
  if !w.opened || dpa < w.dpa || w.lines ≤ line || dpa % 128 != 0 || data.length != 128 || w.n ≤ idx then
    s.rejectContribution i wi
  else
    let k := mapGet 0 line w.next
    let isStaged := w.staged.any fun x => x.line == line && x.idx == idx
    if idx < k || isStaged then s.rejectContribution i wi
    else if idx = k then s.applyContribution i wi line data
    else if s.stagingMiB i * 8192 ≤ (s.isle i).stagingUsed then .full
    else .ok (s.setWindow i wi { w with staged := w.staged ++ [{ line := line, idx := idx, data := data }] })

def orderDetail (c : CoreId) : BitVec 56 := detail [(4, 48), (c.val, 32)]

/-- CONTRIBUTION (R260): a ferry writes one line of a window, at `va` in the context and at the level of the OUT that posted its descriptor
(R295, R314). A contribution that finds the staging area full waits at the slice's input, and one whose fault replays waits on its record
(R305): it comes again. -/
def execContribution (isle : IsleId) (w : BitVec 4) (va : BitVec 56) (idx : BitVec 10) (f : FerryFrom) (data : List Byte)
    (s : State) : Out :=
  .next (
    let ctx := f.ctx.toNat
    let c := f.core
    let me : Waiter := { cls := 1, core := c.val, stream := f.stream.toNat, write := true, read := false }
    if s.waitsOn ctx va.toNat me then s
    else
      match s.translate ctx va.toNat .write f.level true with
      | .fault reason rp =>
        if replays reason rp (s.launchOfCore c.val) then s.replayFault ctx va.toNat me
        else s.fatalFault c.val ctx va.toNat reason me
      | .bad d => s.walkBad c.val d
      | .ok dpa _ =>
        if !s.tagOk ctx dpa then (s.crossAlarm ctx dpa).failCore c.val clsCross (crossDetail s ctx dpa)
        else
          match s.contribute isle w.toNat dpa idx.toNat data with
          | .ok s => s
          | .rejected s => s.failCore c.val clsTask (orderDetail c)
          | .bad write => (if write then s else s.memAlarm dpa).failCore c.val clsMemory (memDetail dpa)
          | .full => s)

/-- What an uncorrectable line does to the launch that armed its window (R283): the ferry that brought the contribution is done with it. -/
def State.windowBad (s : State) (w : Window) (line : Nat) (write : Bool) : State :=
  let a := w.dpa + 128 * line
  let s := if write then s else s.memAlarm a
  match w.launch with
  | some k => s.failLaunch k clsMemory (memDetail a)
  | none => s

/-- STAGED_CONTRIBUTION_APPLY (R260, R261): a staged contribution whose turn has come is applied. -/
def execStagedContributionApply (isle : IsleId) (w : BitVec 4) (line : BitVec 17) (s : State) : Out :=
  .next (
    let x := s.window isle w.toNat
    let k := mapGet 0 line.toNat x.next
    let mine (y : Staged) : Bool := y.line == line.toNat && y.idx == k
    match x.staged.find? mine with
    | none => s
    | some y =>
      if !x.opened then s
      else
        let s := s.setWindow isle w.toNat { x with staged := x.staged.filter fun z => !mine z }
        match s.applyContribution isle w.toNat line.toNat y.data with
        | .ok s => s
        | .rejected s => s
        | .bad write => s.windowBad x line.toNat write
        | .full => s)

/-! ### ARM and ABORT (R264, R265) -/

/-- Whether a range of a context lies in one page: one leaf, contiguous. -/
def State.onePage (s : State) (ctx va n : Nat) : Bool :=
  match s.walk ctx va, s.walk ctx (va + n - 1) with
  | .ok d1 l1, .ok d2 l2 => d2 = d1 + n - 1 && l1 = l2
  | _, _ => false

/-- The first check of R264 that fails, if any. -/
def State.armReason (s : State) (i : IsleId) (wi ctx : Nat) : Option (BitVec 8) :=
  let w := s.window i wi
  let va := fld w.base 55 0
  let n := 128 * w.lines
  let home : Option Nat := match s.walk ctx va with
    | .ok dpa _ => if nearOrMid dpa && isleOfDpa dpa = i.val then some dpa else none
    | _ => none
  let translates := match s.walk ctx va with
    | .ok _ _ => true
    | _ => false
  let overlaps (dpa : Nat) : Bool :=
    (s.isle i).windows.any fun y => y.1 != wi && y.2.meets dpa n
  if !rwFmtOk w.fmt then some rwFormat
  else if !rmPortOk w.rm || !rwOpOk w.op w.fmt then some rwMode
  else if 131072 < w.lines || 1024 < w.n then some rwLength
  else if va % 128 != 0 || (translates && n != 0 && !s.onePage ctx va n) then some rwAlign
  else
    match home with
    | none => some rwHome
    | some dpa => if w.opened || overlaps dpa then some rwBusy else none

/-- The identity of an empty window in every element of a line (R261, R264). -/
def Window.identityLine (w : Window) : List Byte :=
  let x := redIdentity w.op w.fmt w.om
  lineBytes w.fmt (List.replicate (128 / FmtCode.wordBytes w.fmt * FmtCode.perWord w.fmt) ⟨x.bits, x.exc⟩)

/-- Writes the identities of an empty window (R264). They are writes of the arming core's context at its level, so the page must let it write
(R295) and the frame's tag may refuse it (R297); what stops them fails the launch, as of a store of the core (log 203). -/
def State.writeIdentities (s : State) (c : CoreId) (w : Window) : State :=
  let ctx := (s.sc c).ctxid.toNat
  let va := fld w.base 55 0
  match s.translate ctx va .write (s.sc c).priv with
  | .fault reason _ => s.fatalFault c.val ctx va reason { cls := 0, core := c.val, stream := 0, write := true, read := false }
  | .bad d => s.walkBad c.val d
  | .ok dpa _ =>
    let bs := (List.replicate w.lines w.identityLine).flatten
    s.writeFrames c.val ctx bs (rangePieces dpa bs.length)

/-- Arms a window for core `c` (R264). -/
def State.armWindow (s : State) (c : CoreId) (wi : Nat) : State :=
  let i := isleOf c
  let ctx := (s.sc c).ctxid.toNat
  let w := s.window i wi
  match s.armReason i wi ctx with
  | some r => s.setWindow i wi { w with done := w.opened && w.done, err := true, reason := r }
  | none =>
    let dpa := match s.walk ctx (fld w.base 55 0) with
      | .ok dpa _ => dpa
      | _ => 0
    let x : Window :=
      { w with
        opened := false, done := true, err := false, empty := false, flags := 0#7, linesDone := 0, dpa := dpa, ctx := ctx,
        launch := (s.launchOfCore c.val).map Prod.fst, next := [], vals := [], spoiled := false, staged := [] }
    if w.lines = 0 then s.setWindow i wi x
    else if w.n = 0 then
      let s := s.setWindow i wi { x with empty := true, linesDone := w.lines }
      if w.acc then s else s.writeIdentities c w
    else s.setWindow i wi { x with opened := true, done := false }

/-- Aborts one window (R265). -/
def State.abortWindow (s : State) (i : IsleId) (wi : Nat) : State := s.abortWhere fun j k _ => j == i && k == wi

/-- RWCTL port of window `w`. -/
def rwctl (w : BitVec 4) : Nat := 0x903 + 4 * w.toNat

/-- ARM (R264): an OUT of 0b01 to RWCTL. -/
def execArm (c : CoreId) (w : BitVec 4) (s : State) : Out :=
  .next (outPort c privRuntime (rwctl w) (fun s => s.armWindow c w.toNat) s)

/-- ABORT (R265): an OUT of 0b10 to RWCTL. -/
def execAbort (c : CoreId) (w : BitVec 4) (s : State) : Out :=
  .next (outPort c privRuntime (rwctl w) (fun s => s.abortWindow (isleOf c) w.toNat) s)

/-- RWSTAT as its port reads (Table 9.7). -/
def Window.stat (w : Window) : Word :=
  let b (x : Bool) (i : Nat) : Nat := if x then 2 ^ i else 0
  word (b w.opened 63 + b w.done 62 + b w.err 61 + w.reason.toNat * 2 ^ 48 + b w.empty 40 + w.flags.toNat * 2 ^ 33 +
    w.linesDone)

/-- A write of RWBASE or RWCFG, ignored while the window is open (R266). -/
def State.writeWindow (s : State) (i : IsleId) (wi : Nat) (cfg : Bool) (v : Word) : State :=
  let w := s.window i wi
  if w.opened then s
  else if cfg then s.setWindow i wi { w with cfg := v &&& 0x0000ffffff03ffff#64 }
  else s.setWindow i wi { w with base := v &&& 0x00ffffffffffffff#64 }

end Sys2Proof.Machine
end

