-- ==== Sys2Proof/Machine/Ew.lean ====
section
/-! DEFINITION. Meanings of the element-wise engine's commands: posts, descriptor starts, entries taken from the tile queue,
batches, completion records, aborts, and TQDISCARD (R121-R146). -/

namespace Sys2Proof.Machine

def State.ew (s : State) (c : CoreId) : Ew := (s.core c).ew

def State.updEw (s : State) (c : CoreId) (f : Ew → Ew) : State := s.setCore c { s.core c with ew := f (s.ew c) }

/-- Applies `f` to the running descriptor. -/
def State.updJob (s : State) (c : CoreId) (f : EwJob → EwJob) : State :=
  s.updEw c fun e => { e with job := e.job.map f }

/-- The engine's own write of lagoon bytes: descriptors behind it in the queue read it as written (R122, R140). -/
def State.ewWrite (s : State) (c : CoreId) (o : Nat) (bs : List Byte) : State :=
  let put (d : EwDesc) : EwDesc := { d with before := writeBytes d.before o bs }
  (s.updSc c fun x => x.putLagoon o bs).updEw c fun e =>
    { e with queue := e.queue.map put, job := e.job.map fun j => { j with desc := put j.desc } }

/-! ### Posting (R121) -/

/-- A write of EWPOST. -/
def State.ewPost (s : State) (c : CoreId) (v : Word) : State :=
  let e := s.ew c
  let held := e.queue.length + (if e.job.isSome then 1 else 0)
  if v &&& 0xfffffffffff00000#64 != 0#64 || v &&& 127#64 != 0#64 || 16 ≤ held then
    s.updEw c fun e => { e with postRej := true, rej := satInc e.rej }
  else
    let l := (s.sc c).lagoon
    let d : EwDesc := { words := Vector.ofFn fun i => readWord l (v.toNat + 8 * i.val), before := l }
    match badIn (s.sc c).lagoonBad v.toNat 128 with
    | some b => s.localBad c (lagoonSource c) 5 b
    | none => s.updEw c fun e => { e with queue := e.queue ++ [d] }

/-- EWPOST (R121): an OUT of EWPOST. -/
def execEwpost (c : CoreId) (v : Word) (s : State) : Out :=
  .next (outPort c privTask 0x200 (fun s => s.ewPost c v) s)

/-! ### Completion records (R143) -/

/-- The record of a descriptor (Table 5.7). -/
def EwJob.record (j : EwJob) (status : Nat) : EwRecord :=
  let w := 2 ^ 63 + j.flags.toNat * 2 ^ 56 + j.tileFlags.toNat * 2 ^ 49 + (if j.empty then 2 ^ 48 else 0) + status * 2 ^ 40 +
    sat 16 j.entries * 2 ^ 24 + j.desc.tag
  { cpl := { word := word w, irq := j.desc.irq }, flags := j.flags, empty := j.empty, err := status != ewOk }

def EwJob.start (d : EwDesc) : EwJob where
  desc := d
  pos := 0
  tile := false
  flags := 0#7
  tileFlags := 0#7
  empty := false
  entries := 0
  status := ewOk
  scales := []
  opens := []
  outs := []
  sinking := false

/-- Ends the running descriptor: its record is due. -/
def State.endJob (s : State) (c : CoreId) (status : Nat) : State :=
  s.updEw c fun e =>
    match e.job with
    | some j => { e with job := none, due := e.due ++ [j.record status] }
    | none => e

/-- COMPLETION_RECORD_PUSH (R122, R143): the oldest record that is due enters the FIFO when there is room, of a failed launch's descriptors
too (R139). -/
def execCompletionRecordPush (c : CoreId) (s : State) : Out :=
  .next (
    let e := s.ew c
    match e.due with
    | r :: t =>
      if 16 ≤ e.fifo.length || !s.recordsRun c then s
      else s.updEw c fun e =>
        { e with due := t, fifo := e.fifo ++ [r.cpl], flags := e.flags ||| r.flags,
                 empty := e.empty || r.empty, err := e.err || r.err }
    | [] => s)

/-- Pops the oldest record; an empty FIFO reads zero (R143). -/
def State.ewPop (s : State) (c : CoreId) : Word × State :=
  match (s.ew c).fifo with
  | r :: t => (r.word, s.updEw c fun e => { e with fifo := t })
  | [] => (0#64, s)

/-- EWCPL (R143): an IN of EWCPL into `rd`. -/
def execEwcpl (c : CoreId) (rd : BitVec 5) (s : State) : Out :=
  .next (s.issue c alwaysGuard false fun s =>
    let (w, s) := s.ewPop c
    .done (s.updSc c fun x => x.wg rd w))

/-! ### The ferry sink (R139) -/

def State.streamOf (s : State) (c : CoreId) (t : Nat) : Stream := mapGet Stream.reset t (s.core c).streams

def State.setStream (s : State) (c : CoreId) (t : Nat) (x : Stream) : State :=
  s.updCore c fun k => { k with streams := mapSet t x k.streams }

/-- Hands the packed output to ferry stream FSTREAM, at task level in the launch's context (R139, R295). -/
def State.handToFerry (s : State) (c : CoreId) (j : EwJob) : State :=
  let bs := packTensor j.desc.ofmt j.outs
  let t := s.streamOf c j.desc.fstream
  let item : FerryItem :=
    { words := #v[0#64, 0#64, word j.desc.dst, word (2 ^ 48 + 2 ^ 32 + bs.length % 2 ^ 32), 0#64, 0#64, 0#64, 0#64]
      ctx := (s.sc c).ctxid.toNat, level := privTask, seq := t.next, sink := some bs, phase := .ready, status := 0, done := 0 }
  (s.setStream c j.desc.fstream { t with items := t.items ++ [item], next := t.next + 1 }).updJob c fun j =>
    { j with sinking := true }

/-- Ends a descriptor that has made all the output it will: its record is due, or its output goes to the ferry. -/
def State.finishJob (s : State) (c : CoreId) (status : Nat) : State :=
  match (s.ew c).job with
  | none => s
  | some j =>
    if j.desc.dkind && !j.outs.isEmpty then (s.updJob c fun j => { j with status := status }).handToFerry c j
    else s.endJob c status

/-- The ferry reports how a sink ended (R139, R322): 0 success, 13 aborted, otherwise a fault. -/
def State.sinkDone (s : State) (c : CoreId) (status : Nat) : State :=
  match (s.ew c).job with
  | none => s
  | some j =>
    if !j.sinking then s
    else s.endJob c (if status = 0 then j.status else if status = 13 then ewAborted else ewSinkFault)

/-! ### Starting (R122, R124) -/

/-- DESCRIPTOR_START (R122, R124): the head of the queue is checked; a failing one ends at once, and so does one without
output. -/
def execDescriptorStart (c : CoreId) (s : State) : Out :=
  .next (
    let e := s.ew c
    match e.queue with
    | [] => s
    | d :: t =>
      if e.job.isSome || !e.due.isEmpty || 16 ≤ e.fifo.length || !s.enginesRun c then s
      else
        let s := s.updEw c fun e => { e with queue := t, job := some (EwJob.start d) }
        let st := d.check
        if st != ewOk || d.outputs = 0 then s.endJob c st else s)

/-! ### Indices -/

/-- Indices i0-i4 of the visited element at linear position `p` (R126). -/
def EwDesc.index (d : EwDesc) (p : Nat) (k : Nat) : Nat :=
  let below := ((List.range k).map d.ext).foldl (· * ·) 1
  p / below % d.ext k

/-- The output's position in visiting order over the non-reduced dimensions, from indices (R146). -/
def EwDesc.outPos (d : EwDesc) (ix : Nat → Nat) : Nat :=
  ((List.range 5).foldr (fun k acc => (if d.red k then 0 else ix k) + d.oext k * acc) 0)

/-- Indices of the output at position `f`. -/
def EwDesc.outIndex (d : EwDesc) (f : Nat) (k : Nat) : Nat :=
  let below := ((List.range k).map d.oext).foldl (· * ·) 1
  f / below % d.oext k

/-- Start of a run at indices i1-i4 (R126). -/
def EwDesc.runStart (d : EwDesc) (off b : Nat) (ix : Nat → Nat) : Nat :=
  ([1, 2, 3, 4].foldl (fun (a : Int) k => a + (ix k : Int) * d.stride b k) (off : Int)).toNat

/-! ### Reading operands -/

/-- A value as read: whether its word or block is poisoned, its value, its code. -/
structure ReadVal where
  poisoned : Bool
  val : FVal
  bits : Nat
deriving DecidableEq, Repr

/-- Value `i` of a packed run at lagoon offset `r`. -/
def readPacked (f : FmtCode) (l : Bytes) (r i : Nat) : ReadVal :=
  let w := readNat l (r + i / f.perWord * f.wordBytes) f.wordBytes
  let x := if f.perWord = 1 then w % 2 ^ f.bits else wordSlot f w (i % f.perWord)
  let p := wordPoison f w
  ⟨p, decodeFmt f p x, x⟩

/-- A block's scale in a scale plane (R49): 0x100 when its word's POISON bit is set. -/
def planeScale (l : Bytes) (off b : Nat) : Nat :=
  let w := readNat l (off + 8 * (b / 7)) 8
  if w.testBit 63 then k9ePoison else wordSlot Fmt.k9i w (b % 7)

/-- Element `i` of the K4 run at `r`; `p` is the element's linear position (R126). -/
def EwDesc.readK4 (d : EwDesc) (l : Bytes) (r i p : Nat) : ReadVal :=
  let inl := d.k4mode = 2
  let blk := if inl then r + 24 * (i / 32) else r + 16 * (i / 32)
  let w := readNat l (blk + i % 32 / 16 * 8) 8
  let code := wordSlot Fmt.k4 w (i % 16)
  let scale := if inl then inlineScale (readNat l (blk + 16) 8) else planeScale l d.scaleOff (p / 32)
  ⟨scale = k9ePoison, k4Val code scale, code⟩

/-- The SRC0 element at linear position `p` in lagoon bytes. -/
def EwDesc.read0 (d : EwDesc) (p : Nat) (l : Bytes) : ReadVal :=
  let r := d.runStart d.src0Off strSrc0 (d.index p)
  if d.s0fmt = Fmt.k4 then d.readK4 l r (d.index p 0) p else readPacked d.s0fmt l r (d.index p 0)

/-- The SRC1 element at linear position `p`. -/
def EwDesc.read1 (d : EwDesc) (p : Nat) (l : Bytes) : ReadVal :=
  readPacked d.s1fmt l (d.runStart d.src1Off strSrc1 (d.index p)) (d.index p 0)

/-- The lagoon ranges that the element at position `p` is read from: its storage words, its block's scale (R126), and the given scale that
its output block is written with (R60). -/
def EwDesc.reads (d : EwDesc) (p : Nat) : List (Nat × Nat) :=
  let i := d.index p 0
  let word (f : FmtCode) (r : Nat) : Nat × Nat := (r + i / f.perWord * f.wordBytes, f.wordBytes)
  let src0 :=
    let r := d.runStart d.src0Off strSrc0 (d.index p)
    if d.s0kind = 1 then []
    else if d.s0fmt != Fmt.k4 then [word d.s0fmt r]
    else if d.k4mode = 2 then [(r + 24 * (i / 32), 24)]
    else [(r + 16 * (i / 32), 16), (d.scaleOff + 8 * (p / 32 / 7), 8)]
  let src1 := if d.chain.any fun x => x.2 = 2 then [word d.s1fmt (d.runStart d.src1Off strSrc1 (d.index p))] else []
  let given := if d.ofmt = Fmt.k4 && d.k4mode = 1 then [(d.scaleOff + 8 * (d.outPos (d.index p) / 32 / 7), 8)] else []
  src0 ++ src1 ++ given

/-- Elements of a batch: at most 64, in whole words of the output. -/
def batchSize (of : FmtCode) : Nat := if of.perWord = 7 then 63 else 64

/-- Elements of the next batch: no batch crosses a run's end. -/
def EwJob.batch (j : EwJob) : Nat := min (batchSize j.desc.ofmt) (j.desc.ext 0 - j.desc.index j.pos 0)

/-- The first bad lagoon word that the elements of the next batch are read from (R251, R283). -/
def State.ewBad (s : State) (c : CoreId) (j : EwJob) : Option Nat :=
  let d := j.desc
  let p := j.pos
  let n := j.batch
  let bad := (s.sc c).lagoonBad
  if bad.isEmpty || d.visited = 0 then none
  else ((List.range n).flatMap fun i => d.reads (p + i)).findSome? fun r => badIn bad r.1 r.2

/-- A lagoon value as the descriptor reads it: the old or the new one where another agent wrote it meanwhile (R140). -/
def oldOrNew (free sh : Nat) (old new : ReadVal) : ReadVal :=
  if old = new then new else if (Config.freeNat free).testBit sh then old else new

/-- Row i1, column i0 of a tile-queue entry (Table 4.11). -/
def Tile.read (t : Tile) (f : FmtCode) (cols i1 i0 : Nat) : ReadVal :=
  let row := packedSize f cols
  let v := packedVal f ((t.data.drop (i1 * row)).take row) i0
  ⟨v.2, decodeFmt f v.2 v.1, v.1⟩

/-! ### Conversions (R127) -/

/-- The rounding field in force: DYN takes EWROUND. -/
def Ew.mode (e : Ew) (rm : BitVec 3) : BitVec 3 := if rm = rmDYN then e.round else rm

/-- Converts a source value to the compute format, with POISON_IN for a poisoned one (R51). A value that is in the compute format
already is converted like any other: a signalling NaN becomes quiet with INVALID (R65; DEDUCED, log 61). -/
def toCompute (cf : FmtCode) (crm : BitVec 3) (v : ReadVal) : Nat × Flags :=
  if v.poisoned then ((convertFmt cf (.mode crm) false true v.val).bits, Flags.poisonIn)
  else
    let c := convertFmt cf (.mode crm) false false v.val
    (c.bits, c.flags)

/-- A constant in the compute format (R127 step 2). -/
def constIn (cf : FmtCode) (crm : BitVec 3) (k : Nat) : Nat × Flags :=
  if cf = Fmt.s64 then ((BitVec.ofNat 32 k).signExtend 64 |>.toNat, Flags.none)
  else
    let c := encodeFmt cf (.mode crm) false (decodeFl binary32 k)
    (c.bits, c.flags)

/-- An output's rounding (R146). -/
def State.ewRnd (s : State) (c : CoreId) (d : EwDesc) (f : Nat) : Rnd :=
  let m := s.mx c
  if d.orm = rmSR then .sr (srThreshold m.srTide m.srOwner (word (d.srBase + f))) else .mode ((s.ew c).mode d.orm)

/-- Converts a result in the compute format to OFMT (R127 step 5). -/
def fromCompute (cf of : FmtCode) (r : Rnd) (om : Bool) (x : Nat) : Coded :=
  if cf = of then ⟨x, false, Flags.none⟩ else encodeFmt of r om (decodeFmt cf false x)

/-! ### Writing outputs -/

/-- An output on its way: its code in the compute format, or what an output without elements takes; `none` when dropped. -/
inductive OutVal where
  | code (x : Nat)
  | coded (x : Coded)
  | dropped
deriving DecidableEq, Repr

/-- The coded output at position `f`. -/
def State.ewCoded (s : State) (c : CoreId) (d : EwDesc) (f : Nat) (v : OutVal) : Option Coded :=
  match v with
  | .code x => some (fromCompute d.cfmt d.ofmt (s.ewRnd c d f) d.om x)
  | .coded x => some x
  | .dropped => none

/-- A read-modify-write of `n` lagoon bytes: a bad word fails the launch, and the bytes are left (R251, R283). -/
def State.ewMerge (s : State) (c : CoreId) (a n : Nat) (f : Nat → Nat) : State :=
  match badIn (s.sc c).lagoonBad a n with
  | some b => s.localBad c (lagoonSource c) 5 b
  | none => s.ewWrite c a (leBytes n (f (readNat (s.sc c).lagoon a n)))

/-- Writes one word's values, slot 0 first (R50, R53): a word with a dropped value is completed by read-modify-write, and one with
neither a value nor a padding slot to write is left. -/
def State.ewWord (s : State) (c : CoreId) (f : FmtCode) (a : Nat) (xs : List (Option Coded)) : State :=
  let some_ := xs.filterMap id
  if some_.isEmpty && xs.length = f.perWord then s
  else if some_.length = xs.length then
    s.ewWrite c a (leBytes f.wordBytes (packWord f (some_.map Coded.bits) (some_.any Coded.exc)))
  else s.ewMerge c a f.wordBytes fun old =>
    let w := xs.zipIdx.foldl (fun w x => match x.1 with
      | some y => setSlot f w x.2 y.bits
      | none => w) old
    let w := (List.range f.perWord).foldl (fun w j => if j < xs.length then w else setSlot f w j 0) w
    setPoison f w (wordPoison f old || some_.any Coded.exc)

/-- Writes consecutive outputs of a run, from element `i0` on a word boundary, word by word. -/
def State.ewRun (s : State) (c : CoreId) (f : FmtCode) (start i0 : Nat) (xs : List (Option Coded)) : State :=
  (chunksOf f.perWord xs.length xs).zipIdx.foldl (fun s x =>
    s.ewWord c f (start + (i0 / f.perWord + x.2) * f.wordBytes) x.1) s

/-- Writes the scales of a whole scale word, padding slots zero; blocks that were not written keep theirs (R50, R517). -/
def State.ewScaleWord (s : State) (c : CoreId) (a : Nat) (xs : List (Option Nat)) : State :=
  let some_ := xs.filterMap id
  if some_.isEmpty then s
  else if some_.length = xs.length then s.ewWrite c a (leBytes 8 (packWord Fmt.k9i some_ false))
  else s.ewMerge c a 8 fun old =>
    let w := xs.zipIdx.foldl (fun w x => match x.1 with
      | some y => setSlot Fmt.k9i w x.2 y
      | none => w) old
    (List.range 7).foldl (fun w j => if j < xs.length then w else setSlot Fmt.k9i w j 0) w

/-- Takes the scale of the next block of a scale plane; a full word, or the last of the plane, is written. -/
def State.ewScale (s : State) (c : CoreId) (d : EwDesc) (b : Nat) (x : Option Nat) : State :=
  match (s.ew c).job with
  | none => s
  | some j =>
    let xs := j.scales ++ [x]
    if xs.length = 7 || b + 1 = d.k4Blocks then
      (s.ewScaleWord c (d.scaleOff + 8 * (b / 7)) xs).updJob c fun j => { j with scales := [] }
    else s.updJob c fun j => { j with scales := xs }

/-- The given scale of output block `b` (K4MODE 0b01), read from the scale plane: the old or the new one where another agent has written it
since the post (R140). -/
def State.givenScale (s : State) (c : CoreId) (d : EwDesc) (b : Nat) : Nat × State :=
  let old := planeScale d.before d.scaleOff b
  let new := planeScale (s.sc c).lagoon d.scaleOff b
  if old = new then (new, s)
  else
    let (n, s) := s.takeFree
    (if (Config.freeNat n).testBit 0 then old else new, s)

/-- Writes one K4 block whose first output is at position `f` and whose place in its run is element `i0` (R60, R517, R518). With given
scales the engine writes only a scale of 0x100, and that write leaves the padding slots of the plane's last word as they were given: the
model follows R60 there, a choice where R50 has the writer of a last word zero them (log 199). -/
def State.ewBlock (s : State) (c : CoreId) (d : EwDesc) (start i0 f : Nat) (xs : List OutVal) : State × Flags :=
  let b := f / 32
  let elems : List K4Elem := xs.zipIdx.map fun x =>
    match x.1 with
    | .code y => some (decodeFmt d.cfmt false y, s.ewRnd c d (f + x.2))
    | .coded y => some (decodeFmt d.cfmt false y.bits, s.ewRnd c d (f + x.2))
    | .dropped => none
  let given := d.k4mode = 1
  if elems.all Option.isNone then (if d.k4mode = 0 then s.ewScale c d b none else s, Flags.none)
  else
    let (scale, s) := if given then s.givenScale c d b else (0, s)
    let k := if given then k4QuantiseGiven d.om scale elems else k4Quantise d.om elems
    let blk := if d.k4mode = 2 then start + 24 * (i0 / 32) else start + 16 * (i0 / 32)
    let codes := leBytes 8 (packWord Fmt.k4 (k.codes.take 16) false) ++ leBytes 8 (packWord Fmt.k4 (k.codes.drop 16) false)
    let s := s.ewWrite c blk codes
    let s :=
      if d.k4mode = 2 then s.ewWrite c (blk + 16) (leBytes 8 (inlineWord k.scale))
      else if given then
        if k.scale != k9ePoison then s
        else s.ewMerge c (d.scaleOff + 8 * (b / 7)) 8 fun old => setSlot Fmt.k9i old (b % 7) k.scale
      else s.ewScale c d b (some k.scale)
    (s, k.flags)

/-- ORs flags into the running descriptor's. -/
def State.ewFlags (s : State) (c : CoreId) (f : Flags) : State := s.updJob c fun j => { j with flags := j.flags ||| f }

/-- Writes consecutive outputs of one run, the first at position `f` (R127 step 5): to the lagoon, or behind the ferry sink's
output so far. -/
def State.ewOutputs (s : State) (c : CoreId) (d : EwDesc) (f : Nat) (xs : List OutVal) : State :=
  let start := d.runStart d.dst strDst (d.outIndex f)
  let i0 := d.outIndex f 0
  if d.ofmt = Fmt.k4 then
    (chunksOf 32 xs.length xs).zipIdx.foldl (fun s x =>
      let (s, fl) := s.ewBlock c d start (i0 + 32 * x.2) (f + 32 * x.2) x.1
      s.ewFlags c fl) s
  else
    let cs := xs.zipIdx.map fun x => s.ewCoded c d (f + x.2) x.1
    let s := s.ewFlags c ((cs.filterMap id).foldl (fun a x => a ||| x.flags) Flags.none)
    if d.dkind then s.updJob c fun j => { j with outs := j.outs ++ cs.filterMap id }
    else s.ewRun c d.ofmt start i0 cs

/-! ### Batches (R127, R131, R142) -/

/-- Chain results of `n` elements from position `p`: each kept code or nothing, and the flags. -/
def State.ewElems (s : State) (c : CoreId) (j : EwJob) (free p n : Nat) : List (Option Nat) × Flags :=
  let d := j.desc
  let cf := d.cfmt
  let crm := (s.ew c).mode d.crm
  let l := (s.sc c).lagoon
  let (k0, f0) := constIn cf crm d.k0
  let (k1, f1) := constIn cf crm d.k1
  let use1 := d.chain.any fun x => x.2 = 2
  let kf := Flags.when (d.chain.any fun x => readsK0 x.1 x.2) f0 ||| Flags.when (d.chain.any fun x => readsK1 x.1 x.2) f1
  let tile := (s.mx c).tq.head?
  let one (i : Nat) : Option Nat × Flags :=
    let q := p + i
    let v0 :=
      if d.s0kind = 1 then
        match tile with
        | some t => t.read d.s0fmt (d.ext 0) (d.index q 1) (d.index q 0)
        | none => ⟨false, .zero false, 0⟩
      else oldOrNew free (2 * i) (d.read0 q d.before) (d.read0 q l)
    let (x, g0) := toCompute cf crm v0
    let (a, g1) := if use1 then toCompute cf crm (oldOrNew free (2 * i + 1) (d.read1 q d.before) (d.read1 q l))
      else (0, Flags.none)
    let (y, g) := ewChain cf crm k0 k1 a d.chain x
    (y, g0 ||| g1 ||| g)
  let rs := (List.range n).map one
  (rs.map Prod.fst, rs.foldl (fun a x => a ||| x.2) kf)

/-- What a reduction output takes (R131-R133), and the flags of its tree; EMPTY when no element is present. -/
def reduceOut (d : EwDesc) (crm : BitVec 3) (es : List (Option Elem)) : OutVal × Flags × Bool :=
  let arg := d.redop = 5 || d.redop = 6
  match reduceElems d.redop d.cfmt (.mode crm) false es with
  | some p => (if arg then .coded ⟨p.idx % 2 ^ FmtCode.bits d.ofmt, false, Flags.none⟩ else .code p.e.bits, p.flags, false)
  | none =>
    (if arg then .coded ⟨2 ^ FmtCode.bits d.ofmt - 1, false, Flags.none⟩
      else .code (redIdentity d.redop d.cfmt false).bits, Flags.none, true)

/-- Ends reduction outputs, consecutive in one run from position `f`. -/
def State.ewReduced (s : State) (c : CoreId) (d : EwDesc) (f : Nat) (ess : List (List (Option Elem))) : State :=
  let rs := ess.map (reduceOut d ((s.ew c).mode d.crm))
  let s := s.ewFlags c (rs.foldl (fun a r => a ||| r.2.1) Flags.none)
  let s := if rs.any fun r => r.2.2 then s.updJob c fun j => { j with empty := true } else s
  s.ewOutputs c d f (rs.map Prod.fst)

/-- Whether the element at position `p` is the last of its output: every reduced index at its end. -/
def EwDesc.lastOf (d : EwDesc) (p : Nat) : Bool :=
  (List.range 5).all fun k => !d.red k || d.index p k + 1 = d.ext k

/-- Adds chain results from position `p` to their open outputs; the outputs that they end are written. -/
def State.ewReduce (s : State) (c : CoreId) (d : EwDesc) (p : Nat) (ys : List (Option Nat)) : State :=
  let add (m : Map (List (Option Elem))) (x : Option Nat × Nat) : Map (List (Option Elem)) :=
    let f := d.outPos (d.index (p + x.2))
    mapSet f (mapGet [] f m ++ [x.1.map plain]) m
  let s := s.updJob c fun j => { j with opens := ys.zipIdx.foldl add j.opens }
  let ended := ((List.range ys.length).filter fun i => d.lastOf (p + i)).map fun i => d.outPos (d.index (p + i))
  match ended, (s.ew c).job with
  | f :: _, some j =>
    let ess := ended.map fun g => mapGet [] g j.opens
    let s := s.updJob c fun j => { j with opens := ended.foldl (fun m g => mapErase g m) j.opens }
    s.ewReduced c d f ess
  | _, _ => s

/-- Logs a consumed entry with TSWEN, counts it and frees it (R136, R137). -/
def State.ewFreeEntry (s : State) (c : CoreId) (d : EwDesc) : State :=
  match (s.mx c).tq with
  | [] => s
  | t :: rest =>
    let q := match (s.ew c).job with
      | some j => j.entries
      | none => 0
    let s := if d.tswen then
        s.ewWrite c (d.tswOff + 32 * q) (leBytes 8 t.hdr.toNat ++ leBytes 8 0 ++ leBytes 16 t.status.toNat)
      else s
    (s.updMx c fun m => { m with tq := rest, tqHead := m.tqHead + 1#3 }).updJob c fun j =>
      { j with tile := false, entries := j.entries + 1, tileFlags := j.tileFlags ||| t.status.extractLsb' 0 7 }

/-- Writes every output of a descriptor whose extents allow no element: the identities (R124, R132). -/
def State.ewIdentities (s : State) (c : CoreId) (d : EwDesc) : State :=
  (List.range (d.outputs / d.oext 0)).foldl (fun s r =>
    s.ewReduced c d (r * d.oext 0) (List.replicate (d.oext 0) [])) s

/-- Commits the next batch of the running descriptor (R142). -/
def State.ewBatch (s : State) (c : CoreId) (j : EwJob) : State :=
  let d := j.desc
  if d.visited = 0 then (s.ewIdentities c d).finishJob c ewOk
  else
    let n := j.batch
    let (free, s) := s.takeFree
    let (ys, fl) := s.ewElems c j free j.pos n
    let s := s.ewFlags c fl
    let s :=
      if d.redop = 0 then
        s.ewOutputs c d (d.outPos (d.index j.pos)) (ys.map fun y => match y with
          | some x => .code x
          | none => .dropped)
      else s.ewReduce c d j.pos ys
    let p := j.pos + n
    let s := s.updJob c fun j => { j with pos := p }
    let s := if d.s0kind = 1 && p % (d.ext 0 * d.ext 1) = 0 then s.ewFreeEntry c d else s
    if d.visited ≤ p then s.finishJob c ewOk else s

/-- BATCH (R127, R142): the next elements of the running descriptor commit through its whole chain; a mismatch in a batch of one of the
chain's operations is retried once, and a second one in the same batch quarantines the core and fails the launch. A read of a bad lagoon
word delivers nothing and fails the launch, and the elements do not commit (R283). -/
def execBatch (c : CoreId) (k : Check) (s : State) : Out :=
  .next (
    match (s.ew c).job with
    | none => s
    | some j =>
      if j.sinking || !s.enginesRun c || (j.desc.s0kind = 1 && j.desc.visited != 0 && !j.tile) then s
      else match s.ewBad c j with
      | some b => s.localBad c (lagoonSource c) 5 b
      | none =>
        let retry (n : BitVec 5) : State :=
          ((s.updEw c fun e => { e with retry := BitVec.ofNat 32 (sat 32 (e.retry.toNat + n.toNat + 1)) }).countRetries c (n.toNat + 1)).ewFlags c
            Flags.checkRetried
        match k with
        | .pass => s.ewBatch c j
        | .retried n => (retry n).ewBatch c { j with flags := j.flags ||| Flags.checkRetried }
        | .failed n => (retry n).quarantine c clsCheck (detail [(2, 48), (c.val, 32)]) 0#64)

/-- TILE_QUEUE_ENTRY_TAKE (R136): the visible entry at the head is checked against the running descriptor and held; a mismatch
ends the descriptor and leaves the entry. While a TQDISCARD waits no entry is taken (R138). -/
def execTileQueueEntryTake (c : CoreId) (s : State) : Out :=
  .next (
    match (s.ew c).job, (s.mx c).tq with
    | some j, t :: _ =>
      let d := j.desc
      if d.s0kind != 1 || j.tile || j.sinking || d.visited = 0 || !t.visible || (s.mx c).discardWait || !s.enginesRun c then s
      else if fld t.hdr 31 28 != BitVec.toNat d.s0fmt || fld t.hdr 15 11 != d.ext 0 || fld t.hdr 22 16 != d.ext 1 then
        s.finishJob c ewShape
      else if d.tagchk && fld t.hdr 63 48 != d.tqtag then s.finishJob c ewTag
      else s.updJob c fun j => { j with tile := true }
    | _, _ => s)

/-! ### Aborts (R138, R141) -/

/-- Leaves the bytes of a range of a context undefined where it may be written. -/
def State.scrambleVa (s : State) (ctx va n : Nat) (level : BitVec 2) : State :=
  let (k, s) := s.takeFree
  (rangePieces va n).foldl (fun s p =>
    match s.translate ctx p.1 .write level true with
    | .ok dpa _ =>
      match s.devWrite ctx dpa (((freeBytes k n).drop p.2.1).take p.2.2) with
      | .ok s => s
      | _ => s
    | _ => s) s

/-- Leaves an aborted descriptor's destination footprint undefined (R141). -/
def State.ewScramble (s : State) (c : CoreId) (d : EwDesc) : State :=
  if d.check != ewOk || d.outputs = 0 then s
  else if d.dkind then s.scrambleVa (s.sc c).ctxid.toNat d.dst (packedSize d.ofmt d.outputs) privTask
  else
    let (lo, hi) := d.footprint d.sink
    let (k, s) := s.takeFree
    s.ewWrite c lo.toNat (freeBytes k (hi - lo).toNat)

/-- Takes a descriptor's sink out of its ferry stream, with the share that moves it. -/
def State.dropSink (s : State) (c : CoreId) (d : EwDesc) : State :=
  let t := s.streamOf c d.fstream
  let gone := t.items.filter fun x => x.sink.isSome
  let s := s.setStream c d.fstream { t with items := t.items.filter fun x => x.sink.isNone }
  s.updIsle (isleOf c) fun x =>
    { x with ferries := x.ferries.filter fun f =>
        !(f.2.core == c.val && f.2.stream == d.fstream && gone.any fun i => i.seq == f.2.seq) }

/-- Ends the running descriptor with ABORTED. -/
def State.abortJob (s : State) (c : CoreId) : State :=
  match (s.ew c).job with
  | none => s
  | some j => (((if j.sinking then s.dropSink c j.desc else s).ewScramble c j.desc).endJob c ewAborted)

/-- A write of EWABORT (R141): the running and every queued descriptor end with ABORTED. -/
def State.ewAbort (s : State) (c : CoreId) : State :=
  let s := s.abortJob c
  let q := (s.ew c).queue
  let s := q.foldl (fun s d => s.ewScramble c d) s
  s.updEw c fun e => { e with queue := [], due := e.due ++ q.map fun d => (EwJob.start d).record ewAborted }

/-- EWABORT (R141): an OUT of EWABORT. -/
def execEwabort (c : CoreId) (_v : Word) (s : State) : Out :=
  .next (outPort c privRuntime 0x208 (fun s => s.ewAbort c) s)

/-- A write of TQDISCARD (R138): a running descriptor that takes entries ends first; the entries go once no drain is in progress. -/
def State.tqDiscard (s : State) (c : CoreId) : State :=
  let takes := match (s.ew c).job with
    | some j => j.desc.s0kind = 1 && !j.sinking && j.desc.visited != 0
    | none => false
  let s := if takes then s.abortJob c else s
  s.updMx c fun m => if m.drains.toList.all Option.isNone then m.discardTiles else { m with discardWait := true }

/-- TQDISCARD (R138): an OUT of TQDISCARD. -/
def execTqdiscard (c : CoreId) (_v : Word) (s : State) : Out :=
  .next (outPort c privRuntime 0x121 (fun s => s.tqDiscard c) s)

/-! ### Ports 0x0200-0x02ff (Table 5.9) -/

/-- What an element-wise port reads, EWCPL apart. -/
def Ew.portIn (e : Ew) (p : Nat) : Word :=
  let held := e.queue.length + (if e.job.isSome then 1 else 0)
  match p with
  | 0x201 => word ((if e.job.isSome then 2 ^ 16 else 0) + e.fifo.length * 2 ^ 8 + held)
  | 0x203 => word ((if e.empty then 4 else 0) + (if e.err then 2 else 0) + (if e.postRej then 1 else 0))
  | 0x204 => e.flags.setWidth 64
  | 0x205 => e.round.setWidth 64
  | 0x206 => e.retry.setWidth 64
  | 0x207 => e.rej.setWidth 64
  | _ => 0#64

/-- A write of an element-wise port other than EWPOST and EWABORT. -/
def Ew.portOut (e : Ew) (p : Nat) (v : Word) : Ew :=
  match p with
  | 0x203 => { e with empty := e.empty && !v.getLsbD 2, err := e.err && !v.getLsbD 1, postRej := e.postRej && !v.getLsbD 0 }
  | 0x204 => { e with flags := e.flags &&& ~~~(v.extractLsb' 0 7) }
  | 0x205 => if rmPortOk (v.extractLsb' 0 3) then { e with round := v.extractLsb' 0 3 } else e
  | 0x206 => if v.extractLsb' 0 32 = 0#32 then { e with retry := 0#32 } else e
  | 0x207 => if v.extractLsb' 0 32 = 0#32 then { e with rej := 0#32 } else e
  | _ => e

end Sys2Proof.Machine
end

