-- ==== Sys2Proof/Machine/Ferry.lean ====
section
/-! DEFINITION. Ferries (R314-R324): descriptors, their checks, assignment and stealing, tiles, completion records, ports. -/

namespace Sys2Proof.Machine

/-! ### Descriptor fields (Tables 10.7, 10.8) -/

namespace FerryItem

def ctrl (x : FerryItem) : Word := x.words[0]
def src (x : FerryItem) : Word := x.words[1]
def dst (x : FerryItem) : Word := x.words[2]
def tag (x : FerryItem) : Nat := fld x.ctrl 63 48
def kind (x : FerryItem) : Nat := fld x.ctrl 47 44
def irq (x : FerryItem) : Bool := x.ctrl.getLsbD 43
def order (x : FerryItem) : Bool := x.ctrl.getLsbD 42
def xfmt (x : FerryItem) : FmtCode := x.ctrl.extractLsb' 36 4
def xr (x : FerryItem) : Nat := fld x.ctrl 35 29
def xc (x : FerryItem) : Nat := fld x.ctrl 28 22
def rwin (x : FerryItem) : Nat := fld x.ctrl 21 18
def ridx (x : FerryItem) : Nat := fld x.ctrl 17 8
def tiles (x : FerryItem) : Nat := fld x.words[3] 63 48
def rows (x : FerryItem) : Nat := fld x.words[3] 47 32
def run (x : FerryItem) : Nat := fld x.words[3] 31 0
def dpitch (x : FerryItem) : Int := (x.words[4].extractLsb' 32 32).toInt
def spitch (x : FerryItem) : Int := (x.words[4].extractLsb' 0 32).toInt
def stile (x : FerryItem) : Int := x.words[5].toInt
def dtile (x : FerryItem) : Int := x.words[6].toInt
def dbound (x : FerryItem) : Nat := fld x.words[7] 63 32
def sbound (x : FerryItem) : Nat := fld x.words[7] 31 0

end FerryItem

def kCopy : Nat := 0
def kXpose : Nat := 1
def kReduce : Nat := 2
def kFill : Nat := 3

/-- Fields of an address word (R316). -/
def awSpace (w : Word) : Nat := fld w 63 56
def awLagoon (w : Word) : Bool := awSpace w = 1
def awCore (w : Word) : Nat := fld w 27 20
/-- The byte address within its space: a virtual address, or a lagoon offset. -/
def awAddr (w : Word) : Nat := if awLagoon w then fld w 19 0 else fld w 55 0

/-- Status codes (Table 10.11). -/
def feOk : Nat := 0
def feReserved : Nat := 1
def feFormat : Nat := 2
def feMode : Nat := 3
def feLength : Nat := 4
def feMisaligned : Nat := 5
def feFault : Nat := 6
def feFaultTimeout : Nat := 7
def feMemory : Nat := 8
def feCross : Nat := 9
def feUnmapped : Nat := 10
def feOrder : Nat := 11
def feUnit : Nat := 12
def feAborted : Nat := 13

/-! ### Shapes -/

/-- Runs per tile and bytes per run of the source: rows of a COPY, rows of an XPOSE block, none of a FILL. -/
def FerryItem.srcShape (x : FerryItem) : Nat × Nat :=
  if x.kind = kXpose then (x.xr, packedSize x.xfmt x.xc) else if x.kind = kFill then (0, 0) else (x.rows, x.run)

/-- Runs per tile and bytes per run of the destination. -/
def FerryItem.dstShape (x : FerryItem) : Nat × Nat :=
  if x.kind = kXpose then (x.xc, packedSize x.xfmt x.xr) else (x.rows, x.run)

/-- Whether the descriptor moves nothing (R317). -/
def FerryItem.empty (x : FerryItem) : Bool :=
  x.tiles = 0 || (if x.kind = kXpose then x.xr = 0 || x.xc = 0 else x.rows = 0 || x.run = 0)

/-- The address of run `r` of tile `t` on a side, as an integer. -/
def FerryItem.srcAt (x : FerryItem) (t r : Nat) : Int := (awAddr x.src : Int) + t * x.stile + r * x.spitch
def FerryItem.dstAt (x : FerryItem) (t r : Nat) : Int := (awAddr x.dst : Int) + t * x.dtile + r * x.dpitch

/-- Lowest and highest byte offset, from the base, of `nt` tiles of `nr` runs of `n` bytes. -/
def extent (nt nr n : Nat) (tile pitch : Int) : Int × Int :=
  let a : Int := ((nt : Int) - 1) * tile
  let b : Int := ((nr : Int) - 1) * pitch
  (min 0 a + min 0 b, max 0 a + max 0 b + (n : Int) - 1)

/-- Whether a footprint keeps to its bound, and to the lagoon where it lies in one (R318 step 4). -/
def footprintOk (w : Word) (nt nr n bound : Nat) (tile pitch : Int) : Bool :=
  if nt = 0 || nr = 0 || n = 0 then true
  else
    let e := extent nt nr n tile pitch
    decide (0 ≤ e.1) && decide (e.2 < (bound : Int)) &&
      (!awLagoon w || decide ((awAddr w : Int) + e.2 < (lagoonSize : Int)))

/-! ### Checks (R318) -/

/-- Whether an address word sets a reserved bit (R316). -/
def awReserved (w : Word) : Bool := awLagoon w && fld w 55 28 != 0

/-- Whether an address word is allowed: its space is listed and its core exists. -/
def awOk (w : Word) : Bool := awSpace w = 0 || (awLagoon w && awCore w < 150)

/-- Whether a field belonging to another kind is non-zero, or R317's placement rules are broken. -/
def FerryItem.placed (x : FerryItem) : Bool :=
  let noX := x.xfmt = 0#4 && x.xr = 0 && x.xc = 0
  let noR := x.rwin = 0 && x.ridx = 0
  if x.kind = kCopy then noX && noR
  else if x.kind = kFill then noX && noR && x.src = 0#64
  else if x.kind = kReduce then noX && awSpace x.dst = 0
  else noR && x.rows = 0 && x.run = 0 && awSpace x.src = 0 && decide ((packedSize x.xfmt x.xr : Int) ≤ x.dpitch)

/-- Whether an integer is a multiple of `n`. -/
def multiple (n : Nat) (x : Int) : Bool := x % (n : Int) = 0

/-- The checks of R318 in their order. -/
def FerryItem.check (x : FerryItem) : Nat :=
  let ss := x.srcShape
  let ds := x.dstShape
  let al := if x.xfmt = Fmt.k18 then 16 else 8
  if fld x.ctrl 41 40 != 0 || fld x.ctrl 7 0 != 0 || awReserved x.src || awReserved x.dst then feReserved
  else if x.kind = kXpose && (x.xfmt = Fmt.k4 || FmtCode.reserved x.xfmt) then feFormat
  else if 3 < x.kind || !awOk x.src || !awOk x.dst || !x.placed then feMode
  else if 64 < x.xr || 64 < x.xc || !footprintOk x.src x.tiles ss.1 ss.2 x.sbound x.stile x.spitch ||
      !footprintOk x.dst x.tiles ds.1 ds.2 x.dbound x.dtile x.dpitch then feLength
  else if x.kind = kReduce &&
      (awAddr x.dst % 128 != 0 || x.run % 128 != 0 || !multiple 128 x.dpitch || !multiple 128 x.dtile) then feMisaligned
  else if x.kind = kXpose && (awAddr x.src % al != 0 || !multiple al x.spitch || !multiple al x.stile) then feMisaligned
  else feOk

/-- Whether a core's ferry streams go on: no quarantine and no failure has stopped them (R229, R340); gated windows do not (R430). -/
def State.ferriesRun (s : State) (c : CoreId) : Bool :=
  s.powered && (s.sc c).run != .quarantined && s.launchLive c

/-! ### Posting (R315) -/

/-- Descriptors queued in a stream, the running ones among them. -/
def Stream.queued (t : Stream) : Nat := (t.items.filter fun x => x.sink.isNone && x.phase != .ended).length

/-- A write of FPOST of stream `k`. A descriptor with an uncorrectable word delivers no data: it is not queued, and the launch fails (R283). -/
def State.ferryPost (s : State) (c : CoreId) (k : Nat) (v : Word) : State :=
  let t := s.streamOf c k
  if fld v 63 20 != 0 || fld v 5 0 != 0 || 16 ≤ t.queued then
    s.updCore c fun x => { x with fp := { x.fp with postRej := true, rej := satInc x.fp.rej } }
  else
    match badIn (s.sc c).lagoonBad v.toNat 64 with
    | some b => s.localBad c (lagoonSource c) 5 b
    | none =>
      let x := s.sc c
      let item : FerryItem :=
        { words := Vector.ofFn fun i => readWord x.lagoon (v.toNat + 8 * i.val)
          ctx := x.ctxid.toNat, level := x.priv, seq := t.next, sink := none, phase := .queued, status := 0, done := 0 }
      s.setStream c k { t with items := t.items ++ [item], next := t.next + 1 }

def fpostPort (k : BitVec 4) : Nat := 0x400 + 4 * k.toNat

/-- FPOST (R315): an OUT of FPOST of stream `s`. -/
def execFpost (c : CoreId) (k : BitVec 4) (v : Word) (s : State) : Out :=
  .next (outPort c privTask (fpostPort k) (fun s => s.ferryPost c k.toNat v) s)

/-! ### Starting (R318, R322) -/

/-- Replaces the item numbered `x.seq`. -/
def Stream.put (t : Stream) (x : FerryItem) : Stream :=
  { t with items := t.items.map fun y => if y.seq = x.seq && y.sink.isSome = x.sink.isSome then x else y }

def Stream.find (t : Stream) (seq : Nat) : Option FerryItem := t.items.find? fun x => x.seq == seq

/-- FERRY_DESCRIPTOR_START (R318, R322): the stream's next descriptor is checked. It waits while the FIFO is full, and with ORDER
until every earlier descriptor has ended. -/
def execFerryDescriptorStart (c : CoreId) (k : BitVec 4) (s : State) : Out :=
  .next (
    let t := s.streamOf c k.toNat
    match t.items.find? fun x => x.phase = .queued with
    | none => s
    | some x =>
      let before := t.items.takeWhile fun y => y.seq != x.seq
      if 16 ≤ t.fifo.length || !s.ferriesRun c || (x.order && before.any fun y => y.phase != .ended) then s
      else
        let st := x.check
        let y : FerryItem :=
          if st != feOk || x.empty then { x with phase := .ended, status := st } else { x with phase := .ready }
        s.setStream c k.toNat (t.put y))

/-! ### The pool (R320) -/

/-- Ferries per isle. -/
def ferryCount : Nat := 32

/-- The core of an isle by core index. -/
def isleCore (i : IsleId) (n : Nat) : CoreId := coreOf (150 * i.val + n % 150)

/-- The first ready descriptor of a core in stream rotation: its stream and item. -/
def State.readyOf (s : State) (c : CoreId) : Option (Nat × FerryItem) :=
  (List.range 16).findSome? fun j =>
    let k := ((s.core c).fp.rotate + j) % 16
    ((s.streamOf c k).items.find? fun x => x.phase = .ready).map fun x => (k, x)

/-- The next ready descriptor of an isle in core rotation. -/
def State.readyIn (s : State) (i : IsleId) : Option (CoreId × Nat × FerryItem) :=
  (List.range 150).findSome? fun j =>
    let c := isleCore i ((s.isle i).rotate + j)
    if s.ferriesRun c then (s.readyOf c).map fun x => (c, x.1, x.2) else none

/-- FERRY_ASSIGN (R320): the lowest free ferry takes the next descriptor in rotation, whole. -/
def execFerryAssign (isle : IsleId) (s : State) : Out :=
  .next (
    match mapFree ferryCount (s.isle isle).ferries, s.readyIn isle with
    | some f, some (c, k, x) =>
      let sh : FerryShare :=
        { core := c.val, stream := k, seq := x.seq, next := 0, row := 0, stop := x.tiles, waitAt := none }
      let s := s.setStream c k ((s.streamOf c k).put { x with phase := .running })
      let s := s.updCore c fun y => { y with fp := { y.fp with rotate := (k + 1) % 16 } }
      s.updIsle isle fun y => { y with ferries := mapSet f sh y.ferries, rotate := (coreIndex c + 1) % 150 }
    | _, _ => s)

/-- Unstarted tiles of a share. -/
def FerryShare.unstarted (x : FerryShare) : Nat := x.stop - x.next - 1

/-- The ferry with the most unstarted tiles, the lowest-numbered on a tie. -/
def stealVictim (m : Map FerryShare) : Option (Nat × FerryShare) :=
  m.foldl (fun a x => match a with
    | none => some x
    | some y => if y.2.unstarted < x.2.unstarted then some x else a) none

/-- STEAL (R320): an idle ferry takes the upper half of the unstarted tiles of the ferry that has most of them. -/
def execSteal (isle : IsleId) (ferry : BitVec 5) (s : State) : Out :=
  .next (
    let x := s.isle isle
    match mapFind ferry.toNat x.ferries, stealVictim x.ferries with
    | none, some (v, sh) =>
      let u := sh.unstarted
      if u < 2 || (s.readyIn isle).isSome then s
      else
        let cut := sh.stop - u / 2
        s.updIsle isle fun y =>
          { y with ferries :=
              mapSet ferry.toNat { sh with next := cut, row := 0, waitAt := none } (mapSet v { sh with stop := cut } y.ferries) }
    | _, _ => s)

/-! ### Moving bytes -/

/-- What moving bytes meets: it succeeds; a translation fault; a refusal (R297); an uncorrectable block or lagoon word (R251, R283); a lagoon
of another context (R168); a rejected contribution (R260); a full staging area (R262). -/
inductive Mv (α : Type) where
  | ok (s : State) (a : α)
  | fault (va reason : Nat) (rp write : Bool)
  | refused (va dpa : Nat)
  | bad (va dpa : Nat) (write : Bool)
  | badWord (d : CoreId) (o : Nat)
  | cross (d : CoreId)
  | order (s : State)
  | full

def Mv.bind {α β : Type} (x : Mv α) (f : State → α → Mv β) : Mv β :=
  match x with
  | .ok s a => f s a
  | .fault va r rp w => .fault va r rp w
  | .refused va d => .refused va d
  | .bad va d w => .bad va d w
  | .badWord d o => .badWord d o
  | .cross d => .cross d
  | .order s => .order s
  | .full => .full

/-- Reads pieces of a range of context `ctx` at a level. -/
def State.readPieces (s : State) (ctx : Nat) (level : BitVec 2) (isle : Option Nat) : List (Nat × Nat × Nat) → Mv (List Byte)
  | [] => .ok s []
  | (va, _, n) :: t =>
    match s.translate ctx va .read level with
    | .fault r rp => .fault va r rp false
    | .bad d => .bad va d false
    | .ok dpa _ =>
      match s.devRead ctx dpa n isle with
      | .refused => .refused va dpa
      | .bad => .bad va dpa false
      | .ok s bs => (s.readPieces ctx level isle t).bind fun s cs => .ok s (bs ++ cs)

/-- Reads a range of context `ctx` at a level, for an isle's ferry or core where one asks for it. -/
def State.readVa (s : State) (ctx va n : Nat) (level : BitVec 2) (isle : Option Nat := none) : Mv (List Byte) :=
  s.readPieces ctx level isle (rangePieces va n)

/-- The first piece of a range that may not be written, as its fault. -/
def State.writeFault (s : State) (ctx : Nat) (level : BitVec 2) : List (Nat × Nat × Nat) → Option (Mv Unit)
  | [] => none
  | (va, _, _) :: t =>
    match s.translate ctx va .write level true with
    | .fault r rp => some (.fault va r rp true)
    | .bad d => some (.bad va d false)
    | .ok _ _ => s.writeFault ctx level t

/-- Writes pieces of a range, translated before. -/
def State.writePieces (s : State) (ctx : Nat) (level : BitVec 2) (bs : List Byte) : List (Nat × Nat × Nat) → Mv Unit
  | [] => .ok s ()
  | (va, o, n) :: t =>
    match s.translate ctx va .write level true with
    | .fault r rp => .fault va r rp true
    | .bad d => .bad va d false
    | .ok dpa _ =>
      match s.devWrite ctx dpa ((bs.drop o).take n) with
      | .refused => .refused va dpa
      | .bad => .bad va dpa true
      | .ok s => s.writePieces ctx level bs t

/-- Writes a range whose every page translates first. -/
def State.writeVa (s : State) (ctx va : Nat) (level : BitVec 2) (bs : List Byte) : Mv Unit :=
  let ps := rangePieces va bs.length
  match s.writeFault ctx level ps with
  | some f => f
  | none => s.writePieces ctx level bs ps

/-- Whether a destination range in Deep is not whole, 4 KiB-aligned units, or Deep takes no writes (R275, R279). -/
def State.deepBroken (s : State) (ctx va n : Nat) : Bool :=
  (rangePieces va n).any fun p =>
    match s.walk ctx p.1 with
    | .ok dpa _ => s.deepRejects dpa p.2.2
    | _ => false

/-- Reads a run of the source side for core `c`. -/
def State.ferryRead (s : State) (c : CoreId) (x : FerryItem) (a : Int) (n : Nat) : Mv (List Byte) :=
  if awLagoon x.src then
    let d := peerCore c (awCore x.src)
    if d != c && (s.sc d).ctxid.toNat != x.ctx then .cross d
    else
      match badIn (s.sc d).lagoonBad a.toNat n with
      | some b => .badWord d b
      | none => .ok s (readBytes (s.sc d).lagoon a.toNat n)
  else s.readVa x.ctx a.toNat n x.level (some (isleOf c).val)

/-- Writes a run of the destination side for core `c`. -/
def State.ferryWrite (s : State) (c : CoreId) (x : FerryItem) (a : Int) (bs : List Byte) : Mv Unit :=
  if awLagoon x.dst then
    let d := peerCore c (awCore x.dst)
    if d != c && (s.sc d).ctxid.toNat != x.ctx then .cross d
    else .ok (s.foreignWrite d a.toNat bs) ()
  else s.writeVa x.ctx a.toNat x.level bs

/-- One line of a REDUCE (R260): a write of a line of window RWIN of the isle where the line has its home. -/
def State.ferryContribute (s : State) (x : FerryItem) (va : Nat) (bs : List Byte) : Mv Unit :=
  match s.translate x.ctx va .write x.level true with
  | .fault r rp => .fault va r rp true
  | .bad d => .bad va d false
  | .ok dpa _ =>
    if !s.tagOk x.ctx dpa then .refused va dpa
    else if !nearOrMid dpa then .order s
    else
      match s.contribute (Fin.ofNat 8 (isleOfDpa dpa)) x.rwin dpa x.ridx bs with
      | .ok s => .ok s ()
      | .rejected s => .order s
      | .bad write => .bad va dpa write
      | .full => .full

/-- The rows of an XPOSE block, read in order from row `r`. -/
def State.ferryRows (s : State) (c : CoreId) (x : FerryItem) (t n : Nat) : List Nat → Mv (List (List Byte))
  | [] => .ok s []
  | r :: rs =>
    (s.ferryRead c x (x.srcAt t r) n).bind fun s bs =>
      (s.ferryRows c x t n rs).bind fun s rest => .ok s (bs :: rest)

/-- Writes runs in order. -/
def State.ferryRuns (s : State) (c : CoreId) (x : FerryItem) (t : Nat) : List (Nat × List Byte) → Mv Unit
  | [] => .ok s ()
  | (r, bs) :: rs => (s.ferryWrite c x (x.dstAt t r) bs).bind fun s _ => s.ferryRuns c x t rs

/-- The transposed block (R267, R268): run `j` holds column `j` of the rows, packed on its own. -/
def transposed (f : FmtCode) (rows : List (List Byte)) (cols : Nat) : List (List Byte) :=
  (List.range cols).map fun j =>
    packTensor f (rows.map fun r =>
      let v := packedVal f r j
      ⟨v.1, v.2, Flags.none⟩)

/-- Units of a tile: rows of a COPY, FILL or sink, lines of a REDUCE; an XPOSE block is one. -/
def FerryItem.units (x : FerryItem) : Nat :=
  if x.kind = kXpose then 1 else if x.kind = kReduce then x.rows * (x.run / 128) else x.rows

/-- Moves unit `u` of tile `t` (R317). -/
def State.ferryUnit (s : State) (c : CoreId) (x : FerryItem) (t u : Nat) : Mv Unit :=
  match x.sink with
  | some bs => s.ferryWrite c x (x.dstAt t 0) bs
  | none =>
    if x.kind = kXpose then
      (s.ferryRows c x t (packedSize x.xfmt x.xc) (List.range x.xr)).bind fun s rows =>
        s.ferryRuns c x t ((transposed x.xfmt rows x.xc).zipIdx.map fun p => (p.2, p.1))
    else if x.kind = kReduce then
      let r := u / (x.run / 128)
      let o : Int := 128 * (u % (x.run / 128) : Nat)
      (s.ferryRead c x (x.srcAt t r + o) 128).bind fun s bs => s.ferryContribute x (x.dstAt t r + o).toNat bs
    else if x.kind = kFill then s.ferryWrite c x (x.dstAt t u) (List.replicate x.run 0#8)
    else (s.ferryRead c x (x.srcAt t u) x.run).bind fun s bs => s.ferryWrite c x (x.dstAt t u) bs

/-! ### A descriptor's end -/

/-- Takes every share of a descriptor off the isle's ferries. -/
def State.freeFerries (s : State) (c : CoreId) (k seq : Nat) : State :=
  s.updIsle (isleOf c) fun y =>
    { y with ferries := y.ferries.filter fun f => !(f.2.core == c.val && f.2.stream == k && f.2.seq == seq) }

/-- Leaves the destination bytes of a descriptor undefined (R319). -/
def State.ferryScramble (s : State) (c : CoreId) (x : FerryItem) : State :=
  let ds := x.dstShape
  let runs := (List.range x.tiles).flatMap fun t => (List.range ds.1).map fun r => (x.dstAt t r).toNat
  runs.foldl (fun s a =>
    if awLagoon x.dst then
      let d := peerCore c (awCore x.dst)
      if d != c && (s.sc d).ctxid.toNat != x.ctx then s
      else
        let (n, s) := s.takeFree
        s.updSc d fun y => y.putLagoon a (freeBytes n ds.2)
    else s.scrambleVa x.ctx a ds.2 x.level) s

/-- Byte ranges that two runs of the list share. -/
def sharedRanges (n : Nat) : List Int → List (Int × Nat)
  | [] => []
  | a :: t => (t.filterMap fun b =>
      let lo := max a b
      let hi := min a b + n
      if lo < hi then some (lo, (hi - lo).toNat) else none) ++ sharedRanges n t

/-- The destination bytes of a COPY or XPOSE that R321 leaves undefined: those that two destination runs share, and the whole destination
when a run of it meets the source. A FILL writes zeros, and a REDUCE contributions (R260). -/
def FerryItem.clashes (x : FerryItem) : List (Int × Nat) :=
  if x.sink.isSome || x.kind = kFill || x.kind = kReduce then []
  else
    let ds := x.dstShape
    let ss := x.srcShape
    let at_ (f : Nat → Nat → Int) (n : Nat) : List Int := (List.range x.tiles).flatMap fun t => (List.range n).map fun r => f t r
    let dst := at_ x.dstAt ds.1
    let same := awSpace x.src = awSpace x.dst && (!awLagoon x.src || awCore x.src = awCore x.dst)
    if same && (at_ x.srcAt ss.1).any fun a => dst.any fun b => a < b + ds.2 && b < a + ss.2 then dst.map fun a => (a, ds.2)
    else sharedRanges ds.2 dst

/-- Leaves the bytes that overlapping runs of a descriptor have written undefined, once its last tile is done (R321). -/
def State.ferryClash (s : State) (c : CoreId) (x : FerryItem) : State :=
  x.clashes.foldl (fun s r =>
    if awLagoon x.dst then
      let (n, s) := s.takeFree
      s.updSc (peerCore c (awCore x.dst)) fun y => y.putLagoon r.1.toNat (freeBytes n r.2)
    else s.scrambleVa x.ctx r.1.toNat r.2 x.level) s

/-- Ends a descriptor that failed while it ran (R319): its status is set and its destination is undefined. -/
def State.ferryFail (s : State) (c : CoreId) (k : Nat) (x : FerryItem) (status : Nat) : State :=
  let s := s.setStream c k ((s.streamOf c k).put { x with phase := .ended, status := status })
  (s.freeFerries c k x.seq).ferryScramble c x

/-- The waiter of a ferry's or a sink's access (R306). -/
def ferryWaiter (c : CoreId) (k : Nat) (x : FerryItem) (write : Bool) : Waiter :=
  { cls := if x.sink.isSome then 2 else 1, core := c.val, stream := k, write := write, read := !write }

def unitDetail (c : CoreId) : BitVec 56 := detail [(5, 48), (c.val, 32)]

/-- Whether a share still waits on a WAITING record (R307). -/
def State.shareWaits (s : State) (sh : FerryShare) (x : FerryItem) : Bool :=
  match sh.waitAt with
  | none => false
  | some p =>
    let mine (r : FaultRec) : Bool :=
      r.ctx == x.ctx && r.va / 65536 == p && r.waiters.any fun w => w.cls != 0 && w.core == sh.core && w.stream == sh.stream
    (s.hb.faults.any fun r => mine r.2) || s.hb.faultsWaiting.any fun r => !r.2 && mine r.1

/-- Replaces the share of ferry `f`. -/
def State.setShare (s : State) (i : IsleId) (f : Nat) (sh : FerryShare) : State :=
  s.updIsle i fun y => { y with ferries := mapSet f sh y.ferries }

/-- Acts on what a unit met: a replayable fault waits, every other failure fails the launch and ends the descriptor (R319). -/
def State.ferryMeets (s : State) (i : IsleId) (f : Nat) (sh : FerryShare) (c : CoreId) (x : FerryItem) (m : Mv Unit) : State :=
  let k := sh.stream
  match m with
  | .ok s _ => s
  | .full => s.setShare i f sh
  | .fault va r rp w =>
    if replays r rp (s.launchOfCore c.val) then
      (s.replayFault x.ctx va (ferryWaiter c k x w)).setShare i f { sh with waitAt := some (va / 65536) }
    else (s.fatalFault c.val x.ctx va r (ferryWaiter c k x w)).ferryFail c k x feFault
  | .refused _ dpa =>
    (((s.crossAlarm x.ctx dpa).failCore c.val clsCross (crossDetail s x.ctx dpa))).ferryFail c k x feCross
  | .bad _ dpa w =>
    ((if w then s else s.memAlarm dpa).failCore c.val clsMemory (memDetail dpa)).ferryFail c k x feMemory
  | .badWord d o => (s.localBad c (lagoonSource d) 5 o).ferryFail c k x feMemory
  | .cross d =>
    let dt := detail [(x.ctx, 44), ((s.sc d).ctxid.toNat, 32)]
    ((s.alarm alarmCross (BitVec.ofNat 16 (isleOf c).val) (dt.setWidth 64)).failCore c.val clsCross dt).ferryFail c k x feCross
  | .order s => (s.failCore c.val clsTask (orderDetail c)).ferryFail c k x feOrder

/-- Ends tile `sh.next`: the ferry goes on to the next tile of its share or is free, and the last tile ends the descriptor. -/
def State.tileDone (s : State) (i : IsleId) (f : Nat) (sh : FerryShare) (c : CoreId) (x : FerryItem) : State :=
  let y : FerryItem := { x with done := x.done + 1, phase := if x.done + 1 = x.tiles then .ended else x.phase }
  let s := if x.done + 1 = x.tiles then s.ferryClash c x else s
  let s := s.setStream c sh.stream ((s.streamOf c sh.stream).put y)
  if sh.next + 1 < sh.stop then s.setShare i f { sh with next := sh.next + 1, row := 0, waitAt := none }
  else s.updIsle i fun z => { z with ferries := mapErase f z.ferries }

/-- Moves the units of a tile in order from `sh.row`; `fuel` counts the units left. -/
def State.ferryUnits (s : State) (i : IsleId) (f : Nat) (c : CoreId) (x : FerryItem) : Nat → FerryShare → State
  | 0, sh => s.tileDone i f sh c x
  | fuel + 1, sh =>
    match s.ferryUnit c x sh.next sh.row with
    | .ok s _ => s.ferryUnits i f c x fuel { sh with row := sh.row + 1 }
    | m => s.ferryMeets i f sh c x m

/-- The checks of R319 that a tile meets when it translates. -/
def State.tileUnit (s : State) (x : FerryItem) (t : Nat) : Bool :=
  let ds := x.dstShape
  let ss := x.srcShape
  let crosses (a : Nat) : Bool :=
    match s.walk x.ctx a with
    | .ok _ _ => !s.onePage x.ctx a ss.2
    | _ => false
  (awSpace x.dst = 0 && x.kind != kReduce && (List.range ds.1).any fun r => s.deepBroken x.ctx (x.dstAt t r).toNat ds.2) ||
    (x.kind = kXpose && (List.range ss.1).any fun r => crosses (x.srcAt t r).toNat)

/-- FERRY_TILE (R317, R319): ferry `ferry` moves its current tile, or the rest of it after a wait. -/
def execFerryTile (isle : IsleId) (ferry : BitVec 5) (s : State) : Out :=
  .next (
    let f := ferry.toNat
    match mapFind f (s.isle isle).ferries with
    | none => s
    | some sh =>
      let c := coreOf sh.core
      match (s.streamOf c sh.stream).find sh.seq with
      | none => s
      | some x =>
        if !s.ferriesRun c || s.shareWaits sh x then s
        else if s.tileUnit x sh.next then (s.failCore c.val clsTask (unitDetail c)).ferryFail c sh.stream x feUnit
        else s.ferryUnits isle f c x (x.units - sh.row) { sh with waitAt := none })

/-! ### Completion and aborts (R322) -/

/-- The record of a descriptor (Table 10.10). -/
def FerryItem.record (x : FerryItem) : Cpl :=
  { word := word (2 ^ 63 + x.status * 2 ^ 40 + sat 16 x.done * 2 ^ 24 + x.tag), irq := x.irq }

/-- Ends the running descriptors of context `ctx` that have requests in a range which no home slice has accepted when UNMAP with ABORT
refuses them (R312 step 6, R319). Whether the current tile of a share has such a request is free; a share that waits on a fault record holds
none (R307; log 205). -/
def State.refuseFerries (s : State) (ctx va len : Nat) : State :=
  let shares := (List.finRange 8).flatMap fun i => (s.isle i).ferries
  shares.foldl (fun s f =>
    let sh := f.2
    let c := coreOf sh.core
    match (s.streamOf c sh.stream).find sh.seq with
    | none => s
    | some x =>
      let meets (w : Word) (shape : Nat × Nat) (at_ : Nat → Nat → Int) : Bool :=
        awSpace w = 0 && (List.range shape.1).any fun r =>
          decide (at_ sh.next r < (va + len : Nat)) && decide ((va : Int) < at_ sh.next r + shape.2)
      if x.phase != .running || x.ctx != ctx || sh.waitAt.isSome ||
          !(meets x.src x.srcShape x.srcAt || meets x.dst x.dstShape x.dstAt) then s
      else
        let (n, s) := s.takeFree
        if (Config.freeNat n).testBit 0 then
          (s.failCore c.val clsTranslation (xlateDetail 6 va)).ferryFail c sh.stream x feUnmapped
        else s) s

/-- FERRY_COMPLETION (R322): the oldest descriptor of a stream has ended; its record enters the FIFO, or a sink's end goes to the
element-wise engine; a failed launch's descriptors are no exception (R139, R324). -/
def execFerryCompletion (c : CoreId) (k : BitVec 4) (s : State) : Out :=
  .next (
    let t := s.streamOf c k.toNat
    match t.items with
    | [] => s
    | x :: rest =>
      if x.phase != .ended || !s.powered || (s.sc c).run = .quarantined then s
      else if x.sink.isSome then (s.setStream c k.toNat { t with items := rest }).sinkDone c x.status
      else if 16 ≤ t.fifo.length then s
      else
        let s := s.setStream c k.toNat { t with items := rest, fifo := t.fifo ++ [x.record] }
        if x.status = feOk then s else s.updCore c fun y => { y with fp := { y.fp with err := true } })

/-- Pops the oldest record of a stream; an empty FIFO reads zero. -/
def State.ferryPop (s : State) (c : CoreId) (k : Nat) : Word × State :=
  let t := s.streamOf c k
  match t.fifo with
  | r :: rest => (r.word, s.setStream c k { t with fifo := rest })
  | [] => (0#64, s)

/-- FCPL (R322): an IN of FCPL of stream `s` into `rd`. -/
def execFcpl (c : CoreId) (k : BitVec 4) (rd : BitVec 5) (s : State) : Out :=
  .next (s.issue c alwaysGuard false fun s =>
    let (w, s) := s.ferryPop c k.toNat
    .done (s.updSc c fun x => x.wg rd w))

/-- A write of FABORT (R322): running and queued descriptors end with ABORTED. -/
def State.ferryAbort (s : State) (c : CoreId) (k : Nat) : State :=
  let t := s.streamOf c k
  let s := t.items.foldl (fun s x => if x.phase = .ended then s else s.freeFerries c k x.seq) s
  let s := s.dropWaitersWhere fun w => w.cls != 0 && w.core = c.val && w.stream = k
  s.setStream c k { t with items := t.items.map fun x =>
    if x.phase = .ended then x else { x with phase := .ended, status := feAborted } }

/-- FABORT (R322): an OUT of FABORT of stream `s`. -/
def execFabort (c : CoreId) (k : BitVec 4) (_v : Word) (s : State) : Out :=
  .next (outPort c privRuntime (fpostPort k + 3) (fun s => s.ferryAbort c k.toNat) s)

/-! ### Ports 0x0400-0x07ff (Table 10.9) -/

/-- What a ferry port reads, FCPL apart. -/
def State.ferryIn (s : State) (c : CoreId) (p : Nat) : Word :=
  if p < 0x440 then
    let t := s.streamOf c ((p - 0x400) / 4)
    if p % 4 = 1 then
      word ((if t.items.any fun x => x.phase = .running then 2 ^ 16 else 0) + t.fifo.length * 2 ^ 8 + t.queued)
    else 0#64
  else
    let f := (s.core c).fp
    match p with
    | 0x440 => word ((if f.err then 2 else 0) + (if f.postRej then 1 else 0))
    | 0x441 => f.rej.setWidth 64
    | 0x442 => word (s.isle (isleOf c)).ferries.length
    | _ => 0#64

/-- A write of a ferry port other than FPOST and FABORT. -/
def FerryPorts.out (f : FerryPorts) (p : Nat) (v : Word) : FerryPorts :=
  match p with
  | 0x440 => { f with err := f.err && !v.getLsbD 1, postRej := f.postRej && !v.getLsbD 0 }
  | 0x441 => if v.extractLsb' 0 32 = 0#32 then { f with rej := 0#32 } else f
  | _ => f

end Sys2Proof.Machine
end

