-- ==== Sys2Proof/Machine/Tiers.lean ====
section
/-! DEFINITION. Meanings of the memory tiers' commands (R251-R289): scrubbing, row repair, the Mid link, Deep, the stacks' heat. -/

namespace Sys2Proof.Machine

/-! ### Corrected and uncorrectable errors -/

/-- Codes of the log and of trace ring 4 (log 40). -/
def logCorrected : BitVec 16 := 0x1003#16
def traceCorrected : BitVec 16 := 1#16
def traceRepair : BitVec 16 := 3#16

/-- Logs a corrected error at INFO class and traces it (R464, R465). -/
def State.corrected (s : State) (source : BitVec 16) (d : Word) : State :=
  (s.log 3#8 logCorrected source 0 [d]).trace 4 source traceCorrected d 0#64

/-- The memory SOURCE of a cove slice (Table 15.5). -/
def coveSource (i : IsleId) (dpa : Nat) : BitVec 16 :=
  BitVec.ofNat 16 (4 * 4096 + 16 * i.val + coveSlice dpa)

/-- Spare rows per bank for field repair (Table 16.2). -/
def spareRows : Nat := 4

/-- The frames with bytes in the row of a DPA: its own, and the others that the row's mapping gives (log 60). -/
def rowFrames (i : IsleId) (row dpa : Nat) : List Nat := frameOf dpa :: (Config.rowFrames i.val row).filter (· != frameOf dpa)

/-- Repairs a row of an isle (R284, R285): it takes the next spare of its bank, and the repair is kept in the service record; with no
spare left every frame of the row gets a retirement request. -/
def State.repairRow (s : State) (i : IsleId) (row dpa : Nat) : State :=
  let x := s.isle i
  let bank := Config.nearBank row
  let used := mapGet 0 bank x.badSpares
  if used < spareRows then
    let s := s.updIsle i fun y =>
      { y with rows := mapSet row { events := [], spare := some used } y.rows, badSpares := mapSet bank (used + 1) y.badSpares }
    ({ s with flash := { s.flash with repairs := s.flash.repairs ++ [(i.val, row, used)] } }).trace 4 (memSource dpa) traceRepair
      (word row) (word used)
  else (rowFrames i row dpa).foldl (fun s f => s.requestRetirement (f * 65536) rrSpares) s

/-- A corrected error in a Near row: the fourth event within 24 hours repairs the row (R284). -/
def State.nearCorrected (s : State) (i : IsleId) (dpa : Nat) : State :=
  let row := Config.nearRow dpa
  let old := mapGet { events := [], spare := none } row (s.isle i).rows
  let evs := (old.events.filter fun t => s.since t < dayTicks) ++ [s.tide]
  let s := s.updIsle i fun y => { y with rows := mapSet row { old with events := evs } y.rows }
  if 4 ≤ evs.length then s.repairRow i row dpa else s

/-- A Deep page that LDPC cannot correct and its stripe restores: counted (R277, Table 9.12). -/
def State.pageRebuilt (s : State) : State := { s with deep := { s.deep with rebuilt := s.deep.rebuilt + 1 } }

/-- A Deep page that its stripe cannot restore (R277, R283, R286): no read of it delivers data until it is written again. -/
def State.pageBad (s : State) (dpa : Nat) : State :=
  ({ s with deep := { s.deep with lost := addOnce ((dpa - deepBase) / 4096) s.deep.lost } }.alarm alarmMemory (memSource dpa)
    (word dpa)).requestRetirement dpa rrRebuild

/-- An uncorrectable block of Near or Mid: it stays marked until written whole (R283). -/
def State.blockBad (s : State) (dpa : Nat) : State := (s.mark dpa).memAlarm dpa

/-- Refills a clean L1 line whose code fails (R245): from memory and the core's own buffered stores, or not at all where memory does not give
the line. -/
def State.l1Refill (s : State) (c : CoreId) (w : Nat) (y : L1Line) : State :=
  let a := y.dpaLine * 64
  match s.devRead y.ctx a 64 (some (isleOf c).val) with
  | .ok s bs => s.updSc c fun x => x.setL1 y.line w (some { y with data := overlay x.stores a bs }) false
  | _ => s.updSc c fun x => x.setL1 y.line w none false

/-- An uncorrectable word of an on-core array or a modified line: the alarm (R245, R246, R251). -/
def State.localAlarm (s : State) (source : BitVec 16) (o : Nat) : State := s.alarm alarmMemory source (word o)

/-- The code of an L1 data line meets an error (R245). -/
def State.scrubL1 (s : State) (c : CoreId) (set : BitVec 7) (w : BitVec 3) (o : EccOutcome) : State :=
  match (s.sc c).l1Line set.toNat w.toNat with
  | none => s
  | some y =>
    let a := y.dpaLine * 64
    match o with
    | .clean => s
    | .rebuilt => s
    | .corrected => s.corrected (l1Source c) (word a)
    | .uncorrectable =>
      if y.modified then
        (s.updSc c fun x => x.setL1 set.toNat w.toNat (some { y with bad := true }) false).localAlarm (l1Source c) a
      else s.l1Refill c w.toNat y

/-- SCRUB (R245, R246, R251, R256, R274, R277, R282): the visit of one word, line or block, or an error that the array's code meets. A
corrected error is counted, logged and written back; an uncorrectable one is kept, marked or invalidated as its memory says. A cove meets one
in a line that it holds alone: a modified line's block is marked, and a clean or guest line is fetched again (R256). -/
def execScrub (p : ScrubPlace) (o : EccOutcome) (s : State) : Out :=
  .next (
    if !s.powered then s
    else
      match p, o with
      | _, .clean => s
      | .lagoon c w, .corrected => s.corrected (lagoonSource c) (word (8 * w.toNat))
      | .lagoon c w, .uncorrectable =>
        (s.updSc c fun x => { x with lagoonBad := addOnce w.toNat x.lagoonBad }).localAlarm (lagoonSource c) (8 * w.toNat)
      | .scratch c w, .corrected => if w.toNat < (s.sc c).scratchW * 1024 then s.corrected (l1Source c) (word (8 * w.toNat)) else s
      | .scratch c w, .uncorrectable =>
        if w.toNat < (s.sc c).scratchW * 1024 then
          (s.updSc c fun x => { x with scratchBad := addOnce w.toNat x.scratchBad }).localAlarm (l1Source c) (8 * w.toNat)
        else s
      | .l1 c set w, o => s.scrubL1 c set w o
      | .cove i d, o =>
        match mapFind (d.toNat / 128) (s.cove i.val).lines, o with
        | some _, .corrected => (s.updIsle i fun y => { y with cvce := satInc y.cvce }).corrected (coveSource i d.toNat) (d.setWidth 64)
        | some y, .uncorrectable =>
          if y.modified then
            ((s.mark d.toNat).alarm alarmMemory (coveSource i d.toNat) (d.setWidth 64)).requestRetirement d.toNat rrUncorrectable
          else s
        | _, _ => s
      | .near d, .corrected =>
        if tierOf d.toNat = 1 then
          (s.corrected (memSource d.toNat) (d.setWidth 64)).nearCorrected (Fin.ofNat 8 (isleOfDpa d.toNat)) d.toNat
        else s
      | .near d, .uncorrectable =>
        if tierOf d.toNat = 1 then
          (s.blockBad d.toNat).repairRow (Fin.ofNat 8 (isleOfDpa d.toNat)) (Config.nearRow d.toNat) d.toNat
        else s
      | .mid d, .corrected =>
        if tierOf d.toNat = 2 then
          (s.corrected (memSource d.toNat) (d.setWidth 64)).updIsle (Fin.ofNat 8 (isleOfDpa d.toNat)) fun y =>
            { y with mid := { y.mid with corrected := y.mid.corrected + 1 } }
        else s
      | .mid d, .uncorrectable => if tierOf d.toNat = 2 then s.blockBad d.toNat else s
      | .deep d, .corrected => if tierOf d.toNat = 3 then s.corrected (memSource d.toNat) (d.setWidth 64) else s
      | .deep d, .uncorrectable =>
        if tierOf d.toNat = 3 then s.pageBad d.toNat else s
      | .deep d, .rebuilt => if tierOf d.toNat = 3 then s.pageRebuilt else s
      | _, .rebuilt => s)

/-! ### The Mid link (R271-R274) -/

/-- Lanes in use after training: all, one half, or none. -/
def trainedLanes (l : BitVec 16) : BitVec 16 :=
  if l = 0xffff#16 then l
  else if l.extractLsb' 0 8 = 0xff#8 then 0x00ff#16
  else if l.extractLsb' 8 8 = 0xff#8 then 0xff00#16
  else 0#16

/-! Sending: frames, and the commands that they carry. -/

/-- Codes of Table 9.10's TYPE and Table 9.11's CMD. -/
def midCmd : Nat := 1
def midData : Nat := 2
def midMixed : Nat := 3
def midRead64 : Nat := 1
def midRead128 : Nat := 2
def midWrite64 : Nat := 3
def midWrite128 : Nat := 4
def midWriteMask64 : Nat := 5

/-- The CRC-64 of a frame: of its header's eight bytes and its payload (R272). -/
def midCrc (header : Word) (payload : List Byte) : Word := crc64 (leBytes 8 header.toNat ++ payload)

/-- The header of a frame that the isle sends (Table 9.10): ACK is the last number received in order. -/
def MidLink.header (m : MidLink) (type : Nat) : Word :=
  word (type * 2 ^ 60 + m.next.toNat * 2 ^ 48 + (m.expect - 1#12).toNat * 2 ^ 36 + (if m.nak then 2 ^ 35 else 0) +
    min 255 m.owedCommands * 2 ^ 16 + min 255 m.owedData * 2 ^ 8)

/-- Sends a frame; every frame but IDLE takes a number and stays in the replay buffer until it is acknowledged (R272, R273). -/
def MidLink.send (m : MidLink) (type : Nat) (payload : List Byte) : MidLink :=
  let h := m.header type
  let f : MidFrame := { header := h, payload := payload, crc := midCrc h payload }
  let m := { m with sent := m.sent ++ [f], owedCommands := m.owedCommands - 255, owedData := m.owedData - 255 }
  if type = 0 then m else { m with next := m.next + 1#12, replay := m.replay ++ [f] }

/-- A command unit (Table 9.11). -/
def MidCommand.unit (k : MidCommand) : List Byte :=
  leBytes 16 (k.mask * 2 ^ 64 + k.code * 2 ^ 60 + k.tag * 2 ^ 48 + k.addr)

/-- The bytes that a command names. -/
def MidCommand.bytes (k : MidCommand) : Nat := if k.code = midRead128 || k.code = midWrite128 then 128 else 64

def MidCommand.reads (k : MidCommand) : Bool := k.code = midRead64 || k.code = midRead128

/-- Frames of a command: write data comes in the same frame, or in the next one when it fills it (R272). -/
def MidCommand.frames (k : MidCommand) : Nat := if k.code = midWrite128 then 2 else 1

/-- Pads a payload with empty units. -/
def midPad (bs : List Byte) : List Byte := bs ++ List.replicate (128 - bs.length) 0#8

/-- Sends the frames of a command. -/
def MidLink.sendCommand (m : MidLink) (k : MidCommand) : MidLink :=
  if k.reads then m.send midCmd (midPad k.unit)
  else if k.code = midWrite128 then (m.send midCmd (midPad k.unit)).send midData k.data
  else m.send midMixed (midPad (k.data ++ k.unit))

/-- Whether the replay buffer has room for a command's frames (R273). -/
def MidLink.takes (m : MidLink) (k : MidCommand) : Bool := !m.retraining && m.replay.length + k.frames ≤ 64

/-- The DPA of a Mid buffer address. -/
def midDpa (i : IsleId) (a : Nat) : Nat := midBase + i.val * 2 ^ 37 + a

/-- What the buffer does for a command. A read takes its bytes, none from an uncorrectable block; a write stores its masked bytes, clears the
marks of blocks that it covers whole, and is discarded where it meets part of a marked block (R283). -/
def State.midExecute (s : State) (i : IsleId) (k : MidCommand) : State :=
  let d := midDpa i k.addr
  let n := k.bytes
  let bs := if !k.reads || s.marked d n then [] else readBytes s.mem d n
  let s := s.updIsle i fun y =>
    { y with mid := { y.mid.sendCommand k with
        outstanding := mapSet k.tag { read := k.reads, addr := k.addr, bytes := n, data := bs } y.mid.outstanding } }
  let whole := k.code != midWriteMask64 || k.mask = 2 ^ 64 - 1
  if k.reads || (!whole && s.marked d n) then s
  else
    { s with
      mem := if whole then writeBytes s.mem d k.data else writeMasked s.mem d k.mask k.data
      marks := if whole then s.marks.filter fun b => !coversBlock d n b else s.marks }

/-- Sends the commands that wait, in order, while the link takes them; `fuel` counts them. -/
def State.midServe (s : State) (i : IsleId) : Nat → State
  | 0 => s
  | fuel + 1 =>
    let m := (s.isle i).mid
    match m.waiting with
    | [] => s
    | k :: t =>
      if m.takes k then ((s.updIsle i fun y => { y with mid := { y.mid with waiting := t } }).midExecute i k).midServe i fuel else s

/-- Serves every command that waits and that the link takes. -/
def State.midDrain (s : State) (i : IsleId) : State := s.midServe i (s.isle i).mid.waiting.length

/-- Trains an isle's Mid link; half width and offline raise MID_LINK (R271). The requests that waited go on, but at an offline Mid, where
every access meets an uncorrectable error. -/
def State.trainMid (s : State) (i : IsleId) (lanes : BitVec 16) : State :=
  let l := trainedLanes lanes
  let s := s.updIsle i fun y =>
    { y with mid := { y.mid with
        lanes := l, replays := 0, resends := 0, nak := false, retraining := false, waiting := if l = 0#16 then [] else y.mid.waiting } }
  let s := if l = 0xffff#16 then s else s.alarm alarmMid (BitVec.ofNat 16 i.val) (l.setWidth 64)
  s.midDrain i

/-- LANE_TRAINING (R271). -/
def execLaneTraining (isle : IsleId) (lanes : BitVec 16) (s : State) : Out :=
  .next (if s.powered then s.trainMid isle lanes else s)

/-- Fields of a Mid frame header (Table 9.10). -/
def midType (h : Word) : Nat := fld h 63 60
def midSeq (h : Word) : BitVec 12 := h.extractLsb' 48 12

/-- Whether a TYPE carries data or commands: one of 0x1 to 0x3. -/
def midCarries (type : Nat) : Bool := decide (1 ≤ type ∧ type ≤ 3)

/-- Command and data units of a frame, which a receiver returns as credits. -/
def midUnits (type : Nat) : Nat × Nat := if type = midCmd then (8, 0) else if type = midData then (0, 2) else (4, 1)

/-- What the header of a good frame tells the sender (R272, R273): the frames up to ACK leave the replay buffer, the credits return, and a NAK
has every frame left there sent again; eight replays in a row retrain the link. -/
def MidLink.hear (m : MidLink) (h : Word) : MidLink :=
  let ack := h.extractLsb' 36 12
  let n := (ack - m.acked).toNat
  let m := if n ≤ m.replay.length then
      { m with acked := ack, replay := m.replay.drop n, resends := if n = 0 then m.resends else 0 }
    else m
  let m := { m with commandCredits := m.commandCredits + fld h 23 16, dataCredits := m.dataCredits + fld h 15 8, resend := h.getLsbD 35 }
  if m.resend && !m.replay.isEmpty then
    { m with sent := m.sent ++ m.replay, resends := m.resends + 1, retraining := decide (8 ≤ m.resends + 1) }
  else m

/-- Takes a frame whose number is the one expected: the replay that was asked for has come, and its units are owed as credits. -/
def MidLink.takeFrame (m : MidLink) (type : Nat) : MidLink :=
  let u := midUnits type
  { m with
    expect := m.expect + 1#12, nak := false, replays := 0, owedCommands := m.owedCommands + u.1, owedData := m.owedData + u.2 }

/-- A frame whose CRC fails: NAK goes out in an IDLE frame at once, and eight replays in a row retrain the link (R273). -/
def MidLink.refuse (m : MidLink) : MidLink :=
  let m := { m with nak := true, replays := m.replays + 1, retraining := decide (8 ≤ m.replays + 1) }
  m.send 0 (List.replicate 128 0#8)

/-- What a frame does to the link that receives it; one of a reserved TYPE is ignored whole, and a TRAIN frame belongs to training
(log 190). -/
def MidLink.receive (m : MidLink) (f : MidFrame) : MidLink :=
  let type := midType f.header
  if midCrc f.header f.payload != f.crc then m.refuse
  else if type != 0 && !midCarries type then m
  else if midCarries type && midSeq f.header == m.expect then (m.hear f.header).takeFrame type
  else m.hear f.header

/-- The frame of a header and the bytes behind it: 128 of payload and 8 of CRC-64 (R272). -/
def midFrameOf (header : BitVec 64) (rest : List Byte) : MidFrame :=
  { header := header, payload := rest.take 128, crc := word (leNat (rest.drop 128)) }

/-- MID_FRAME (R272, R273): a frame from the buffer is checked and taken, acknowledged or answered with NAK; commands that waited for its
ACK go out. -/
def execMidFrame (isle : IsleId) (header : BitVec 64) (rest : List Byte) (s : State) : Out :=
  .next (
    let m := (s.isle isle).mid
    if !s.powered || m.lanes = 0#16 || m.retraining then s
    else (s.updIsle isle fun y => { y with mid := y.mid.receive (midFrameOf header rest) }).midDrain isle)

/-- MID_RETRAIN (R273): after eight consecutive replays of one frame the link trains again. -/
def execMidRetrain (isle : IsleId) (lanes : BitVec 16) (s : State) : Out :=
  .next (if s.powered && (s.isle isle).mid.retraining then s.trainMid isle lanes else s)

/-- Whether an isle's Mid link carries frames. -/
def State.midRuns (s : State) (i : IsleId) : Bool :=
  s.powered && (s.isle i).mid.lanes != 0#16 && !(s.isle i).mid.retraining

/-- Gives the link a command: it goes out behind those that wait, while the link takes it. One that is not aligned to 64 bytes, or that leaves
the buffer's 128 GiB, is none (Table 9.11). -/
def State.midCommand (s : State) (i : IsleId) (k : MidCommand) : State :=
  if !s.powered || (s.isle i).mid.lanes = 0#16 || k.addr % 64 != 0 || 2 ^ 37 < k.addr + k.bytes then s
  else (s.updIsle i fun y => { y with mid := { y.mid with waiting := y.mid.waiting ++ [k] } }).midDrain i

/-- READ64 (R273). -/
def execRead64 (isle : IsleId) (tag : BitVec 10) (addr : BitVec 37) (s : State) : Out :=
  .next (s.midCommand isle { code := midRead64, tag := tag.toNat, addr := addr.toNat, mask := 0, data := [] })

/-- READ128 (R273). -/
def execRead128 (isle : IsleId) (tag : BitVec 10) (addr : BitVec 37) (s : State) : Out :=
  .next (s.midCommand isle { code := midRead128, tag := tag.toNat, addr := addr.toNat, mask := 0, data := [] })

/-- WRITE64 (R273). -/
def execWrite64 (isle : IsleId) (tag : BitVec 10) (addr : BitVec 37) (data : List Byte) (s : State) : Out :=
  .next (s.midCommand isle { code := midWrite64, tag := tag.toNat, addr := addr.toNat, mask := 0, data := data })

/-- WRITE128 (R273). -/
def execWrite128 (isle : IsleId) (tag : BitVec 10) (addr : BitVec 37) (data : List Byte) (s : State) : Out :=
  .next (s.midCommand isle { code := midWrite128, tag := tag.toNat, addr := addr.toNat, mask := 0, data := data })

/-- WRITEMASK64 (R273, Table 9.11). -/
def execWriteMask64 (isle : IsleId) (tag : BitVec 10) (addr : BitVec 37) (mask : BitVec 64) (data : List Byte) (s : State) : Out :=
  .next (s.midCommand isle { code := midWriteMask64, tag := tag.toNat, addr := addr.toNat, mask := mask.toNat, data := data })

/-- RESPONSE (R274): the request under its tag is answered, a read with the bytes that the buffer took; a corrected error is counted, and an
uncorrectable one delivers nothing and marks the blocks read. A read that met a marked block is answered so whatever `o` says. -/
def execResponse (isle : IsleId) (tag : BitVec 10) (o : EccOutcome) (s : State) : Out :=
  .next (
    match mapFind tag.toNat (s.isle isle).mid.outstanding with
    | none => s
    | some r =>
      if !s.midRuns isle then s
      else
        let d := midDpa isle r.addr
        let s := s.updIsle isle fun y => { y with mid := { y.mid with outstanding := mapErase tag.toNat y.mid.outstanding } }
        let done := s.updIsle isle fun y =>
          if r.read then { y with mid := { y.mid with returned := mapSet tag.toNat r.data y.mid.returned } } else y
        match (if r.read && r.data.isEmpty then .uncorrectable else o) with
        | .clean => done
        | .rebuilt => done
        | .corrected =>
          (done.corrected (memSource d) (word d)).updIsle isle fun y => { y with mid := { y.mid with corrected := y.mid.corrected + 1 } }
        | .uncorrectable => (if r.bytes = 128 then s.mark (d + 64) else s).blockBad d)

/-! ### Deep (R275-R279) -/

/-- DEEP_WRITE (R275, R279): a ferry of core `c` writes whole 4 KiB units; anything else, and any write once Deep is read-only, is
rejected and fails the ferry's launch. -/
def execDeepWrite (c : CoreId) (addr : BitVec 41) (data : List Byte) (s : State) : Out :=
  .next (
    let n := data.length
    if !s.powered || n = 0 then s
    else if addr.toNat % 4096 != 0 || n % 4096 != 0 || s.deep.readOnly || 2 ^ 41 < addr.toNat + n then
      s.failCore c.val clsTask (unitDetail c)
    else s.writeFrames c.val (s.sc c).ctxid.toNat data (rangePieces (deepBase + addr.toNat) n))

/-- DEEP_READ (R276, R277): a page that LDPC cannot correct is rebuilt from its stripe; one that cannot be rebuilt is an uncorrectable
error of its reader (R283). -/
def execDeepRead (c : CoreId) (addr : BitVec 41) (len : BitVec 20) (ldpc : EccOutcome) (rebuilt : Bool) (s : State) : Out :=
  .next (
    let d := deepBase + addr.toNat
    if !s.powered || len = 0#20 then s
    else
      match ldpc with
      | .clean => s
      | .corrected => s.corrected (memSource d) (word d)
      | .uncorrectable =>
        if rebuilt then s.pageRebuilt else (s.pageBad d).failCore c.val clsMemory (memDetail d)
      | .rebuilt => s.pageRebuilt)

/-- The DEEP_WEAR_OUT event (R336). -/
def wearOutEntry (wear : Nat) : Entry := entry [3#64, word wear]

/-- ENDURANCE_UPDATE (R278, R279): WEAR_USED at 100 % posts DEEP_WEAR_OUT; SPARE_LEFT at 10 % ends writes. -/
def execEnduranceUpdate (media : BitVec 64) (wear spare : Nat) (s : State) : Out :=
  .next (
    if !s.powered then s
    else
      let due := 10000 ≤ wear && !s.deep.wearPosted
      let s := { s with deep :=
        { s.deep with
          mediaWritten := media.toNat, wear := wear, spare := spare
          wearPosted := s.deep.wearPosted || due
          readOnly := s.deep.readOnly || spare ≤ 1000 } }
      if due then s.postEvent (wearOutEntry wear) else s)

/-! ### The stacks' heat (R288) -/

/-- Bands of Table 9.14: 0 below 85 °C, 1 below 90 °C, 2 below 95 °C, 3 above. -/
def stackBand (t : Nat) : Nat := if t < 85 then 0 else if t < 90 then 1 else if t < 95 then 2 else 3

/-- The lower edge of a band, in °C. -/
def bandEdge (b : Nat) : Nat := [0, 85, 90, 95].getD b 0

/-- The band after a reading: a band is left downward only 2 °C below its lower edge. -/
def nextBand (cur t : Nat) : Nat :=
  let held := ((List.range (cur + 1)).reverse.find? fun b => b = 0 || bandEdge b < t + 2).getD 0
  max (stackBand t) held

/-- Notes an isle's throttling with a launch that has cores on it. -/
def Launch.noteThrottle (l : Launch) (i : IsleId) : Launch :=
  if l.cores.any fun c => c / 150 == i.val then
    { l with timing := { l.timing with throttle := l.timing.throttle ||| (1#8 <<< i.val) } }
  else l

/-- Notes an isle's throttling with the launches on it (R29, R289, Table 11.3). -/
def State.noteThrottle (s : State) (i : IsleId) : State :=
  let h := (s.isle i).heat
  if h.band0 < 2 && h.band1 < 2 then s
  else s.updHb fun y => { y with launches := y.launches.map fun l => (l.1, l.2.noteThrottle i) }

/-- Stack admission in percent (Table 9.14, NEARREG). -/
def admission (band t : Nat) : Nat := if band = 3 then 25 else if band = 2 then min 100 (100 - 15 * (t - 90)) else 100

/-- A ceiling as stack heat leaves it, at its band and temperature; a stopped isle reads zero (log 42). -/
def stackCeiling (f band t : Nat) : Nat := if band = 3 then 0 else if band = 2 then max (min f 800) (f * (20 - (t - 90)) / 20) else f

end Sys2Proof.Machine
end

