-- ==== Sys2Proof/Machine/Hmp.lean ====
section
/-! DEFINITION. The Harbour Mailbox Protocol (R325-R337, R352-R354): frames, sequence numbers, completions, commitment of entries,
and the head of a queue. -/

namespace Sys2Proof.Machine

/-! ### Status codes (Tables 11.4, 12.9) -/

def stOk : Nat := 0x00
def stReserved : Nat := 0x01
def stLength : Nat := 0x02
def stOpcode : Nat := 0x03
def stFlushed : Nat := 0x04
def stCycle : Nat := 0x05
def stFenceTimeout : Nat := 0x06
def stFenceFailed : Nat := 0x07
def stLaunchFailed : Nat := 0x08
def stBadHandle : Nat := 0x09
def stBadPoint : Nat := 0x0a
def stNoGraph : Nat := 0x0b
def stBusy : Nat := 0x0c
def stBadValue : Nat := 0x0d
def stBadContext : Nat := 0x0e
def stRange : Nat := 0x0f
def stMapped : Nat := 0x10
def stPartition : Nat := 0x11
def stBadSignature : Nat := 0x12
def stBadImage : Nat := 0x13
def stSnapUnmapped : Nat := 0x14
def stNoSpace : Nat := 0x15
def stNoRecord : Nat := 0x16
def stCapBelow : Nat := 0x17
def stUnit : Nat := 0x18
def stCopyFailed : Nat := 0x19

/-! ### Opcodes (Table 12.1) -/

def opGraphStore : Nat := 0x01
def opGraphDrop : Nat := 0x02
def opGraphLaunch : Nat := 0x03
def opParamPatch : Nat := 0x04
def opFenceSignal : Nat := 0x08
def opFenceWait : Nat := 0x09
def opFenceReset : Nat := 0x0a
def opQueueCtl : Nat := 0x0b
def opCtxOpen : Nat := 0x10
def opCtxConfig : Nat := 0x11
def opCtxReset : Nat := 0x12
def opCtxClose : Nat := 0x13
def opMap : Nat := 0x14
def opUnmap : Nat := 0x15
def opRegionDrop : Nat := 0x16
def opFaultResolve : Nat := 0x17
def opRetire : Nat := 0x18
def opCopy : Nat := 0x19
def opQuery : Nat := 0x20
def opLogRead : Nat := 0x21
def opTraceRead : Nat := 0x22
def opPartSet : Nat := 0x28
def opRegSet : Nat := 0x29
def opPowerTol : Nat := 0x2a
def opPowerCap : Nat := 0x2b

/-- Bits that words 1-7 of an opcode's entry may set (Tables 10.5, 12.2-12.5, 12.7); `none` for a reserved opcode. -/
def opFields (op : Nat) : Option (List Word) :=
  match op with
  | 0x01 => some [0x000003ff00000fff#64, 0x0fffffffffffffff#64, 0xffffffff#64]
  | 0x02 => some [0x000003ff00000000#64]
  | 0x03 => some [0x000003ff00000001#64, 0xffffffffffffffff#64]
  | 0x04 => some [0x000003ff00000000#64, 0x0fffffffffffffff#64, 0xffffffff#64]
  | 0x08 => some [0x3ff#64, 0x7fffffffffffffff#64]
  | 0x09 => some [0x3ff#64, 0x7fffffffffffffff#64, 0xffffffff#64]
  | 0x0a => some [0x3ff#64, 0x7fffffffffffffff#64]
  | 0x0b => some [0x30f#64]
  | 0x10 => some [0x70fff#64, 0x3ffffff0000#64, 0x3ffffff0000#64]
  | 0x11 => some [0xfff#64, 0xfffff#64]
  | 0x12 => some [0xfff#64]
  | 0x13 => some [0xfff#64]
  | 0x14 => some [0x33f3fff#64, 0x00ffffffffffffff#64, 0x7ffffffffff#64, 0x3ffffffffff#64]
  | 0x15 => some [0x70fff#64, 0x00ffffffffffffff#64, 0x7ffffffffff#64]
  | 0x16 => some [0x00000fff00000fff#64]
  | 0x17 => some [0x1ff0fff#64]
  | 0x18 => some [0#64, 0x3ffffff0000#64]
  | 0x19 => some [0xfff#64, 0xffffffffffffffff#64, 0xffffffffffffffff#64, 0x1fffffffff#64]
  | 0x20 => some [0xff0fff#64, 0x0fffffffffffffff#64, 0xffffffff#64]
  | 0x21 => some [0xfff#64, 0x0fffffffffffffff#64, 0xffffffff#64, 0xffffffffffffffff#64]
  | 0x22 => some [0xf0fff#64, 0x0fffffffffffffff#64, 0xffffffff#64, 0xffffffffffffffff#64]
  | 0x28 => some [0xffffffff#64, 0xffff#64]
  | 0x29 => some [0xff00f7#64, 0x0000ffffffffffff#64, 0xffffffff#64]
  | 0x2a => some [0xffffffff#64]
  | 0x2b => some [0x1ffff#64, 0x3f#64, 0x0000ffffffffffff#64]
  | _ => none

namespace Entry

def op (e : Entry) : Nat := fld e[0] 7 0
def tag (e : Entry) : BitVec 32 := e[0].extractLsb' 32 32
def w (e : Entry) (i : Fin 8) : Word := e.get i
/-- Fields that many opcodes share: SLOT, CTX of word 1. -/
def slot (e : Entry) : Nat := fld e[1] 41 32
def ctx (e : Entry) : Nat := fld e[1] 11 0
def fence (e : Entry) : Nat := fld e[1] 9 0
def fenceV (e : Entry) : BitVec 63 := e[2].extractLsb' 0 63

end Entry

/-- Whether word 2 of an opcode's entry is the handle of a buffer of LEN bytes (R362). -/
def bufferOp (op : Nat) : Bool :=
  op = opGraphStore || op = opParamPatch || op = opQuery || op = opLogRead || op = opTraceRead

/-- The bits that word `i` of an entry may set; with LEN 0 the handle is not examined (R362). -/
def Entry.mayset (e : Entry) (ms : List Word) (i : Nat) : Word :=
  if i = 2 && bufferOp e.op && fld e[3] 31 0 = 0 then -1#64 else ms.getD (i - 1) 0#64

/-- Whether an entry sets a reserved field (R12, R334): a bit its opcode does not name, those of a host handle among them, or SR_TIDE
with AUTO. -/
def Entry.reserved (e : Entry) : Bool :=
  match opFields e.op with
  | none => false
  | some ms =>
    fld e[0] 31 8 != 0 ||
    ((List.range 7).any fun i => (e.get (Fin.ofNat 8 (i + 1))) &&& ~~~(e.mayset ms (i + 1)) != 0#64) ||
    (e.op = opGraphLaunch && e[1].getLsbD 0 && e[2] != 0#64)

/-! ### Completions (R335) -/

/-- TIMING as a completion carries it (Table 11.3). -/
def Timing.word (t : Timing) : Word :=
  Machine.word ((if t.boost then 2 ^ 57 else 0) + (if t.wake then 2 ^ 56 else 0) + t.throttle.toNat * 2 ^ 48 +
    sat 16 t.retries * 2 ^ 32 + sat 16 t.duty * 2 ^ 16 + sat 16 t.slip)

/-- A completion entry (Table 11.3). -/
def completion (q : QueueId) (tag : BitVec 32) (op status : Nat) (seq : BitVec 32) (r0 r1 sr start end_ timing : Word) : Entry :=
  entry [(tag.setWidth 64 <<< 32) ||| word (q.val * 2 ^ 16 + status * 2 ^ 8 + op), seq.setWidth 64, r0, r1, sr, start, end_, timing]

/-- Whether Harbour and its Ethernet ports run (R448). -/
def State.harbourRuns (s : State) : Bool := s.power.on && s.lh.clamp < 2 && s.boot.phase = .ready

/-- The number that a queue's frames acknowledge. -/
def Queue.ack (x : Queue) : BitVec 32 := x.expect

/-- Posts a completion with the next number of its queue (R335), and traces it. -/
def State.postCompletion (s : State) (q : QueueId) (e : Entry) : State :=
  if !s.harbourRuns then s
  else
    let x := s.queue q
    let n := x.compNext
    let s := s.setQueue q
      { x with compNext := n + 1#32, unacked := x.unacked ++ [s.fresh n e] }
    (s.sendFrame s.hostDest 3#8 (BitVec.ofNat 4 q.val) n x.ack [e]).trace 1 (BitVec.ofNat 16 q.val) 3#16 e[0] e[1]

/-- Entries of a queue that have started and whose completion is to come: its launches in flight and the entry that it runs. -/
def State.inFlight (s : State) (q : QueueId) : Nat :=
  (s.hb.launches.filter fun l => l.2.queue == q.val).length + (if (s.queue q).running.isSome then 1 else 0)

/-- Whether a queue's completion ring has room for one completion more than those that are to come (R335, R338). -/
def State.ringRoom (s : State) (q : QueueId) : Bool :=
  (s.queue q).compWaiting.isEmpty && decide ((s.queue q).unacked.length + s.inFlight q + 1 ≤ 256)

/-- Posts the completion of an entry that never started; without room in the ring it waits for it (log 207). -/
def State.postDropped (s : State) (q : QueueId) (e : Entry) : State :=
  if s.ringRoom q then s.postCompletion q e
  else if !s.harbourRuns then s
  else s.updQueue q fun x => { x with compWaiting := x.compWaiting ++ [e] }

/-- Posts waiting completions while the ring has room; `fuel` bounds them. -/
def State.drainCompletions (q : QueueId) : Nat → State → State
  | 0, s => s
  | n + 1, s =>
    match (s.queue q).compWaiting with
    | [] => s
    | e :: t =>
      if decide ((s.queue q).unacked.length + s.inFlight q + 1 ≤ 256) then
        State.drainCompletions q n ((s.updQueue q fun x => { x with compWaiting := t }).postCompletion q e)
      else s

/-- Removes a queue's entry `seq` from the ring. -/
def Queue.free (x : Queue) (seq : BitVec 32) : Queue := { x with ring := mapErase (seq.toNat % 256) x.ring }

/-- Completes an entry that did not start (FLUSHED, CYCLE): its slot is free and its turn is skipped. -/
def State.dropEntry (s : State) (q : QueueId) (seq : BitVec 32) (status : Nat) (r0 : Word) : State :=
  match mapFind (seq.toNat % 256) (s.queue q).ring with
  | none => s
  | some e =>
    let s := s.updQueue q fun x => { x.free seq with skip := x.skip ++ [seq] }
    s.postDropped q (completion q e.tag e.op status seq r0 0#64 0#64 s.tide s.tide 0#64)

/-! ### The head of a queue (R338) -/

/-- Passes over ended entries and completes reserved opcodes at the head (R334, R359): a reserved opcode leaves words 1-7 without
fields, so word 0's reserved bits alone are checked first (DEDUCED, log 63). The first argument after the queue bounds the entries. -/
def State.advance (q : QueueId) : Nat → State → State
  | 0, s => s
  | n + 1, s =>
    let x := s.queue q
    if x.started = x.committed || x.running.isSome then s
    else if x.skip.contains x.started then
      State.advance q n (s.setQueue q { x with started := x.started + 1#32, skip := x.skip.erase x.started })
    else if x.halted then s
    else
      match mapFind (x.started.toNat % 256) x.ring with
      | none => s
      | some e =>
        if (opFields e.op).isSome then s
        else
          let s := s.setQueue q { x.free x.started with started := x.started + 1#32 }
          let st := if fld e[0] 31 8 != 0 then stReserved else stOpcode
          State.advance q n (s.postDropped q (completion q e.tag e.op st x.started 0#64 0#64 0#64 s.tide s.tide 0#64))

def State.step1 (s : State) (q : QueueId) : State := State.advance q 512 s

/-- The oldest committed entry not yet started, of a queue that is not halted and runs none. -/
def State.front (s : State) (q : QueueId) : Option Entry :=
  let x := s.queue q
  if x.halted || x.running.isSome || x.started = x.committed || x.skip.contains x.started then none
  else mapFind (x.started.toNat % 256) x.ring

/-- The entry that a queue may start: the completion has room in its ring (R335, log 207). -/
def State.head (s : State) (q : QueueId) : Option Entry := if s.ringRoom q then s.front q else none

/-- Starts and completes the head with a status and results. -/
def State.complete (s : State) (q : QueueId) (status : Nat) (r0 r1 : Word) : State :=
  match s.head q with
  | none => s
  | some e =>
    let x := s.queue q
    let s := s.setQueue q { x.free x.started with started := x.started + 1#32 }
    (s.postCompletion q (completion q e.tag e.op status x.started r0 r1 0#64 s.tide s.tide 0#64)).step1 q

/-- Starts the head without completing it. -/
def State.startHead (s : State) (q : QueueId) (count : Nat) : State :=
  match s.head q with
  | none => s
  | some e =>
    s.updQueue q fun x =>
      { x.free x.started with
        started := x.started + 1#32, running := some { seq := x.started, entry := e, start := s.tide, count := count } }

/-- Completes the entry that a queue runs. -/
def State.finishRunning (s : State) (q : QueueId) (status : Nat) (r0 r1 : Word) : State :=
  match (s.queue q).running with
  | none => s
  | some r =>
    let s := s.updQueue q fun x => { x with running := none }
    (s.postCompletion q (completion q r.entry.tag r.entry.op status r.seq r0 r1 0#64 r.start s.tide 0#64)).step1 q

/-- Opcodes that no idle state is left for (R441). -/
def quietOp (op : Nat) : Bool := op = opQuery || op = opLogRead || op = opTraceRead || op = opPowerTol || op = opPowerCap

/-- Brings the device out of S3 or S4 (R441): its isles are active again, and ports that S4 took down train. -/
def State.wake (s : State) : State :=
  if s.power.idle = 0 then s
  else
    let down := s.power.idle = 4
    { s with
      power := { s.power with idle := 0, idleSince := s.tide }
      isles := s.isles.map fun x => { x with idle := 0, idleSince := s.tide }
      strait := if down then { s.strait with ports := s.strait.ports.map fun p => { p with state := 1#3 } } else s.strait }

/-- What Clamp stage 1 lets an opcode do (R447): POWER_TOL and POWER_CAP run, QUERY with LEN 0 runs; GRAPH_LAUNCH has its own end. -/
def clampOk (e : Entry) : Bool :=
  e.op = opPowerTol || e.op = opPowerCap || e.op = opGraphLaunch || (e.op = opQuery && fld e[3] 31 0 = 0)

/-- The objects that entries touch one after the other (R360), as far as an entry that takes time touches them: a context's tables, tags,
regions and records, and a graph slot. -/
inductive Touched where
  | context (ctx : Nat)
  | slot (slot : Nat)
deriving DecidableEq, Repr

/-- The objects of R360 that an entry touches: its slot and its context; a patch's context is its graph's, and RETIRE's the one that the
frame is tagged with. A buffer of length 0 names no context. -/
def State.touches (s : State) (e : Entry) : List Touched :=
  let op := e.op
  let graph := match s.graph e.slot with
    | some g => [Touched.context g.ctx]
    | none => []
  if op = opGraphStore then if fld e[3] 31 0 = 0 then [] else [.slot e.slot, .context e.ctx]
  else if op = opGraphDrop || op = opGraphLaunch then [.slot e.slot]
  else if op = opParamPatch then .slot e.slot :: graph
  else if op = opQuery || op = opLogRead || op = opTraceRead then if fld e[3] 31 0 = 0 then [] else [.context e.ctx]
  else if op = opRetire then [.context (s.frameTag (fld e[2] 41 16)).ctx]
  else if opCtxOpen ≤ op && op ≤ opCopy then [.context e.ctx]
  else []

/-- Whether an entry that another queue runs touches an object that `e` touches: `e` then waits for it (R360). -/
def State.objectHeld (s : State) (q : QueueId) (e : Entry) : Bool :=
  (List.finRange 6).any fun p =>
    p != q && match (s.queue p).running with
      | some r => r.entry.op != opFenceWait && (s.touches r.entry).any (s.touches e).contains
      | none => false

/-- Runs the head of queue `q` when it carries opcode `op` (R359): reserved fields are checked first; nothing happens when the head is
another command, or while an object that it touches is held (R360). -/
def State.runHead (s : State) (q : QueueId) (op : Nat) (body : State → Entry → State) : State :=
  match s.head q with
  | none => s
  | some e =>
    if e.op != op || !s.harbourRuns then s
    else if s.lh.clamp != 0 && !clampOk e then s.complete q stBusy 0#64 0#64
    else if !e.reserved && s.objectHeld q e then s
    else
      let s := if quietOp op then s else s.wake
      if e.reserved then s.complete q stReserved 0#64 0#64 else body s e

/-! ### Commitment and the cycle check (R331, R352) -/

def State.counter (s : State) (f : Nat) : Fence := mapGet { err := false, value := 0#63 } f s.hb.fences

def State.setCounter (s : State) (f : Nat) (x : Fence) : State := s.updHb fun h => { h with fences := mapSet f x h.fences }

/-- A fence counter as 64 bits. -/
def Fence.word (x : Fence) : Word := (if x.err then 0x8000000000000000#64 else 0#64) ||| x.value.setWidth 64

/-- Committed entries that have not started: queue, place from the oldest, entry. -/
def State.waitingEntries (s : State) : List (Nat × Nat × Entry) :=
  (List.finRange 6).flatMap fun q =>
    let x := s.queue q
    (List.range (x.committed - x.started).toNat).filterMap fun i =>
      (mapFind ((x.started.toNat + i) % 256) x.ring).map fun e => (q.val, i, e)

/-- Committed entries that have not run, for the cycle check (R352): a FENCE_WAIT that waits at its queue's head stands at place 0, and the
entries that have not started follow it. -/
def State.unrunEntries (s : State) : List (Nat × Nat × Entry) :=
  ((List.finRange 6).filterMap fun q => (s.queue q).running.map fun r => (q.val, 0, r.entry)) ++
    s.waitingEntries.map fun x => (x.1, x.2.1 + 1, x.2.2)

/-- Whether entry `e` is a known signaller of counter `f` for value `v` (R352). -/
def signals (f : Nat) (v : BitVec 63) (e : Entry) : Bool := e.op = opFenceSignal && e.fence = f && v ≤ e.fenceV

/-- One round of the reach: how many entries of each queue lie behind; a wait that is not satisfied takes in its known
signallers. -/
def reachRound (s : State) (es : List (Nat × Nat × Entry)) (b : Map Nat) : Map Nat :=
  es.foldl (fun b x =>
    if x.2.2.op = opFenceWait && x.2.1 < mapGet 0 x.1 b && (s.counter x.2.2.fence).value < x.2.2.fenceV then
      es.foldl (fun b y =>
        if signals x.2.2.fence x.2.2.fenceV y.2.2 then mapSet y.1 (max (mapGet 0 y.1 b) y.2.1) b else b) b
    else b) b

/-- Repeats rounds until nothing more is reached. -/
def reachAll (s : State) (es : List (Nat × Nat × Entry)) : Nat → Map Nat → Map Nat
  | 0, b => b
  | n + 1, b =>
    let b' := reachRound s es b
    if b' = b then b else reachAll s es n b'

/-- Whether the entry at place `i` of queue `q` lies behind the one at place `wi` of queue `wq` (R352). -/
def liesBehind (s : State) (es : List (Nat × Nat × Entry)) (q i wq wi : Nat) : Bool :=
  wi < mapGet 0 wq (reachAll s es es.length [(q, i)])

/-- Whether a FENCE_WAIT that is being committed is rejected with CYCLE. -/
def State.waitCycle (s : State) (q : QueueId) (seq : BitVec 32) (e : Entry) : Bool :=
  let es := s.unrunEntries
  let i := (seq - (s.queue q).started).toNat + 1
  let known := es.filter fun x => signals e.fence e.fenceV x.2.2
  decide ((s.counter e.fence).value < e.fenceV) && !known.isEmpty &&
    known.all fun x => liesBehind s es x.1 x.2.1 q.val i

/-- Checks newly committed waits in order; a rejected one completes with CYCLE and halts its queue. -/
def State.checkWaits (q : QueueId) : Nat → BitVec 32 → State → State
  | 0, _, s => s
  | n + 1, seq, s =>
    let s :=
      match mapFind (seq.toNat % 256) (s.queue q).ring with
      | some e =>
        if e.op = opFenceWait && !e.reserved && s.waitCycle q seq e then
          (s.dropEntry q seq stCycle (s.counter e.fence).word).updQueue q fun x => { x with halted := true }
        else s
      | none => s
    State.checkWaits q n (seq + 1#32) s

/-- Commits the entries of a queue up to `tail` (R331). -/
def State.commitTo (s : State) (q : QueueId) (tail : BitVec 32) : State :=
  let from_ := (s.queue q).committed
  let s := s.updQueue q fun x => { x with committed := tail }
  (State.checkWaits q (tail - from_).toNat from_ s).step1 q

/-! ### Frames (R325-R333) -/

end Sys2Proof.Machine

namespace Sys2Proof.HmpFrame

open Sys2Proof.Machine

def hf (f : HmpFrame) (hi lo : Nat) : Nat := nbits f.header.toNat lo (hi + 1 - lo)
def magic (f : HmpFrame) : Nat := f.hf 15 0
def version (f : HmpFrame) : Nat := f.hf 23 16
def type (f : HmpFrame) : Nat := f.hf 31 24
def queue (f : HmpFrame) : Nat := f.hf 35 32
def db (f : HmpFrame) : Bool := f.header.getLsbD 36
def count (f : HmpFrame) : Nat := f.hf 47 40
def length (f : HmpFrame) : Nat := f.hf 63 48
def seq (f : HmpFrame) : BitVec 32 := f.header.extractLsb' 64 32
def ack (f : HmpFrame) : BitVec 32 := f.header.extractLsb' 96 32
def tail (f : HmpFrame) : BitVec 32 := f.header.extractLsb' 128 32

end Sys2Proof.HmpFrame

namespace Sys2Proof.Machine

def tCmd : Nat := 1
def tDoorbell : Nat := 2
def tAck : Nat := 5
def tNak : Nat := 6
def tHello : Nat := 7

/-- Whether a frame is discarded (R327): a wrong field, a length that does not agree, a payload or a queue that its type does not
have, a type that flows only from the device. -/
def hmpMalformed (f : HmpFrame) : Bool :=
  f.magic != 0x484d || f.version != 1 || !([tCmd, tDoorbell, tAck, tNak, tHello].contains f.type) ||
  (6 ≤ f.queue && f.queue != 15) || f.length != 64 * f.count || f.payload.length != f.length || 128 < f.count ||
  f.hf 191 160 != 0 || f.hf 39 37 != 0 ||
  (f.type != tCmd && f.count != 0) ||
  ((f.type = tCmd || f.type = tDoorbell) && f.queue = 15) ||
  (f.type = tDoorbell && !f.db) || (f.type = tHello && f.queue != 0)

/-- Counts a discarded frame; the first of a port in each second raises HMP_DISCARD (R327, Table 15.6). -/
def State.discardFrame (s : State) (f : HmpFrame) : State :=
  let p := if f.eth then 1 else 0
  let sec := word (s.tide.toNat / second)
  let first := mapFind p s.hb.discardSecond != some sec
  let s := s.updHb fun h => { h with discarded := satInc h.discarded, discardSecond := mapSet p sec h.discardSecond }
  if first then s.alarm alarmDiscard (BitVec.ofNat 16 p) (f.header.extractLsb' 0 64) else s

/-- The configuration in force of a host Ethernet port. -/
def State.netOf (s : State) (port : Bool) : Option NetConfig := mapFind (if port then 1 else 0) s.io.net

/-- Whether a host Ethernet port has an IP address (R507). -/
def State.hasIp (s : State) (port : Bool) : Bool :=
  match s.netOf port with
  | some n => n.ipv4 != 0#32 || n.ipv6 != 0#128
  | none => false

/-- Takes a received frame of type `ty` (R325-R327): before the ready point, on a port without an address, or with a bad
checksum, nothing happens (R476, R507). -/
def State.hmp (s : State) (ty : Nat) (f : HmpFrame) (body : State → State) : State :=
  if !s.harbourRuns || !s.hasIp f.eth || !f.checksumOk then s
  else if hmpMalformed f then s.discardFrame f
  else if f.type != ty then s
  else
    body (s.trace 0 (BitVec.ofNat 16 f.queue) (BitVec.ofNat 16 f.type) (f.header.extractLsb' 64 64) (f.header.extractLsb' 128 64))

/-- Sends ACK or NAK of a queue to the frame's source. -/
def State.reply (s : State) (f : HmpFrame) (type : BitVec 8) : State :=
  let e := if h : f.queue < 6 then (s.queue ⟨f.queue, h⟩).expect else 0#32
  s.sendFrame (some f.source) type (BitVec.ofNat 4 f.queue) 0#32 e []

/-- A host ACK of a queue's completions (R330): those below its value are released, and waiting ones take their room. -/
def State.ackCompletions (s : State) (q : QueueId) (ack : BitVec 32) : State :=
  let x := s.queue q
  if seqLt x.compNext ack then s
  else State.drainCompletions q 256 (s.setQueue q { x with unacked := x.unacked.filter fun y => !seqLt y.seq ack })

/-- Applies a host frame's ACK field (R332). -/
def State.takeAck (s : State) (f : HmpFrame) : State :=
  if h : f.queue < 6 then s.ackCompletions ⟨f.queue, h⟩ f.ack else s.ackEvents f.ack

/-- Entry `k` of a payload. -/
def payloadEntry (bs : List Byte) (k : Nat) : Entry :=
  Vector.ofFn fun i => word (leNat (((bs.drop (64 * k + 8 * i.val)).take 8)))

/-- Stores the new entries of a CMD frame while there is room (R329). -/
def Queue.store (x : Queue) (bs : List Byte) : Nat → Nat → Queue
  | 0, _ => x
  | n + 1, k =>
    let sl := x.expect.toNat % 256
    if (mapFind sl x.ring).isSome then x
    else Queue.store { x with ring := mapSet sl (payloadEntry bs k) x.ring, expect := x.expect + 1#32 } bs n (k + 1)

/-- A doorbell (R331): TAIL at most the next number expected commits; above it the device asks from there. -/
def State.doorbell (s : State) (f : HmpFrame) (q : QueueId) : State :=
  let x := s.queue q
  if seqLt x.expect f.tail then s.reply f 6#8
  else if seqLt x.committed f.tail then s.commitTo q f.tail
  else s

/-- CMD (R326, R329, R331): new entries are stored and acknowledged, which accepts the frame; a frame of duplicates is discarded and
acknowledged; a gap is answered with NAK; a doorbell commits. -/
def execCmd (f : HmpFrame) (s : State) : Out :=
  .next (s.hmp tCmd f fun s =>
    if h : f.queue < 6 then
      let q : QueueId := ⟨f.queue, h⟩
      let s := s.takeAck f
      let x := s.queue q
      let n := f.count
      let past := !seqLt x.expect (f.seq + BitVec.ofNat 32 n)
      let s :=
        if past then s.reply f 5#8
        else if seqLt x.expect f.seq then s.reply f 6#8
        else
          let k := (x.expect - f.seq).toNat
          let s := (s.setQueue q (x.store f.payload (n - k) k)).updHb fun h => { h with lastCmd := some f.source }
          s.reply f 5#8
      if f.db then s.doorbell f q else s
    else s)

/-- DOORBELL (R331). -/
def execDoorbell (f : HmpFrame) (s : State) : Out :=
  .next (s.hmp tDoorbell f fun s => if h : f.queue < 6 then (s.takeAck f).doorbell f ⟨f.queue, h⟩ else s)

/-- ACK (R330). -/
def execAck (f : HmpFrame) (s : State) : Out := .next (s.hmp tAck f fun s => s.takeAck f)

/-- Cuts entries into frames: runs of consecutive numbers, of at most 16 entries (R327). -/
def frameRuns : List Unacked → List (List Unacked)
  | [] => []
  | u :: t =>
    match frameRuns t with
    | (v :: r) :: ys => if v.seq = u.seq + 1#32 && r.length < 15 then (u :: v :: r) :: ys else [u] :: (v :: r) :: ys
    | ys => [u] :: ys

/-- Sends unacknowledged entries again. -/
def State.resend (s : State) (type : BitVec 8) (queue : BitVec 4) (ack : BitVec 32) (xs : List Unacked) : State :=
  (frameRuns xs).foldl (fun s ys =>
    match ys with
    | [] => s
    | y :: _ => s.sendFrame s.hostDest type queue y.seq ack (ys.map Unacked.entry)) s

/-- Sends the unacknowledged entries of a queue or of the event stream again that `p` selects. -/
def State.resendWhere (s : State) (queue : BitVec 4) (p : Unacked → Bool) : State :=
  if h : queue.toNat < 6 then
    let x := s.queue ⟨queue.toNat, h⟩
    s.resend 3#8 queue x.ack (x.unacked.filter p)
  else if queue = 0xf#4 then s.resend 4#8 queue 0#32 (s.hb.events.unacked.filter p)
  else s

/-- NAK (R329, R330): entries below its ACK are released, and the rest are sent again. -/
def execNak (f : HmpFrame) (s : State) : Out :=
  .next (s.hmp tNak f fun s => (s.takeAck f).resendWhere (BitVec.ofNat 4 f.queue) fun _ => true)

/-- The 16-byte state record of a space (R333). -/
def stateRecord (a b c d : BitVec 32) : List Word :=
  [a.setWidth 64 ||| (b.setWidth 64 <<< 32), c.setWidth 64 ||| (d.setWidth 64 <<< 32)]

/-- The oldest unacknowledged number of a space: the next one when nothing is. -/
def oldest (next : BitVec 32) (xs : List Unacked) : BitVec 32 :=
  match xs with
  | x :: _ => x.seq
  | [] => next

/-- The two entries of a HELLO_REPLY. -/
def State.helloEntries (s : State) : List Entry :=
  let qs := s.hb.queues.toList.flatMap fun x => stateRecord x.expect x.committed x.compNext (oldest x.compNext x.unacked)
  let ev := stateRecord 0#32 0#32 s.hb.events.next (oldest s.hb.events.next s.hb.events.unacked)
  let ws := qs ++ ev
  [entry (ws.take 8), entry (ws.drop 8)]

/-- HELLO (R326, R333): the reply carries the state of every sequence space, and completions and events go to its source. -/
def execHello (f : HmpFrame) (s : State) : Out :=
  .next (s.hmp tHello f fun s =>
    let s := s.updHb fun h => { h with hello := some f.source, greeted := true }
    s.sendFrame (some f.source) 8#8 0#4 0#32 0#32 s.helloEntries)

/-- Whether an entry is due to be sent again. -/
def State.overdue (s : State) (u : Unacked) : Bool := s.passedUs u.sentAt u.interval

/-- An entry after a round of retransmission: one that was due has been sent now, and its interval doubles up to 6.4 ms. -/
def State.retimed (s : State) (u : Unacked) : Unacked :=
  if s.overdue u then { u with sentAt := s.tide, interval := min 6400 (2 * u.interval) } else u

/-- RETRANSMIT (R330): every unacknowledged entry whose own interval has passed is sent again, and that interval doubles. -/
def execRetransmit (q : BitVec 4) (s : State) : Out :=
  .next (
    if !s.harbourRuns then s
    else if h : q.toNat < 6 then
      (s.resendWhere q s.overdue).updQueue ⟨q.toNat, h⟩ fun x => { x with unacked := x.unacked.map s.retimed }
    else if q = 0xf#4 then
      (s.resendWhere q s.overdue).updHb fun h => { h with events := { h.events with unacked := h.events.unacked.map s.retimed } }
    else s)

/-! ### Fences and queue control (R352-R354, R366, R367) -/

/-- Whether a queue has a launch that has not completed. -/
def State.launchesOf (s : State) (q : QueueId) : Bool := s.hb.launches.any fun l => l.2.queue = q.val

/-- FENCE_SIGNAL (R338, R352): it starts once every earlier launch of its queue has completed. -/
def execFenceSignal (q : QueueId) (s : State) : Out :=
  .next (
    if s.launchesOf q then s
    else s.runHead q opFenceSignal fun s e =>
      let x := s.counter e.fence
      let failed := (s.queue q).failedSince
      let s := s.setCounter e.fence { err := x.err || failed, value := if x.value < e.fenceV then e.fenceV else x.value }
      (s.updQueue q fun y => { y with failedSince := false }).complete q stOk x.word 0#64)

/-- Completes the wait that a queue runs with a status, and halts the queue at once (R354): nothing behind it starts. -/
def State.haltWait (s : State) (q : QueueId) (status : Nat) (r0 : Word) : State :=
  (s.updQueue q fun x => { x with halted := true }).finishRunning q status r0 0#64

/-- Tests the FENCE_WAIT that queue `q` runs (R353); without its value it goes on waiting. A TIMEOUT of zero tests once. -/
def State.testWait (s : State) (q : QueueId) : State :=
  match (s.queue q).running with
  | some r =>
    let x := s.counter r.entry.fence
    if r.entry.op != opFenceWait || !s.harbourRuns then s
    else if s.lh.clamp != 0 then s.finishRunning q stBusy 0#64 0#64
    else if x.err then s.haltWait q stFenceFailed x.word
    else if r.entry.fenceV ≤ x.value then s.finishRunning q stOk x.word 0#64
    else if fld r.entry[3] 31 0 = 0 then s.haltWait q stFenceTimeout x.word
    else s
  | none => s

/-- FENCE_WAIT (R353): at the head of its queue it begins, which frees its slot (R334), and is tested; one that waits is tested again,
whether or not its queue has been halted by the rejection of a later wait (R352). -/
def execFenceWait (q : QueueId) (s : State) : Out :=
  .next (
    if (s.queue q).running.isSome then s.testWait q
    else s.runHead q opFenceWait fun s _ => (s.startHead q 0).testWait q)

/-- FENCE_TIMEOUT (R353): a wait that is still not satisfied once TIMEOUT microseconds have passed. -/
def execFenceTimeout (q : QueueId) (s : State) : Out :=
  .next (
    match (s.queue q).running with
    | some r =>
      let x := s.counter r.entry.fence
      if r.entry.op != opFenceWait || !s.harbourRuns || s.lh.clamp != 0 || x.err || r.entry.fenceV ≤ x.value ||
          !s.passedUs r.start (fld r.entry[3] 31 0) then s
      else s.haltWait q stFenceTimeout x.word
    | none => s)

/-- FENCE_RESET (R366). -/
def execFenceReset (q : QueueId) (s : State) : Out :=
  .next (s.runHead q opFenceReset fun s e =>
    let x := s.counter e.fence
    (s.setCounter e.fence { err := false, value := e.fenceV }).complete q stOk x.word 0#64)

/-- The target of a QUEUE_CTL, unless a field is bad (R367). -/
def ctlTarget (q : QueueId) (e : Entry) : Option QueueId :=
  let t := fld e[1] 3 0
  if h : t < 6 then if t = q.val then none else some ⟨t, h⟩ else none

/-- A resumed queue is no longer shed (R432). -/
def State.unhalt (s : State) (t : QueueId) : State :=
  let s := s.updQueue t fun x => { x with halted := false }
  { s with power := { s.power with shed := s.power.shed.filter fun x => x != t.val } }

/-- QUEUE_CTL with ACTION RESUME, or a bad ACTION (R354, R367). -/
def execQueueCtlResume (q : QueueId) (s : State) : Out :=
  .next (
    match s.head q with
    | none => s
    | some e =>
      if fld e[1] 9 8 = 2 && (ctlTarget q e).isSome && e.op = opQueueCtl && !e.reserved then s
      else s.runHead q opQueueCtl fun s e =>
        match ctlTarget q e with
        | none => s.complete q stBadValue 0#64 0#64
        | some t =>
          if fld e[1] 9 8 != 1 then s.complete q stBadValue 0#64 0#64
          else if (s.queue t).halted then ((s.unhalt t).step1 t).complete q stOk 1#64 0#64
          else s.complete q stOk 0#64 0#64)

/-- Completes every committed entry of a queue that has not started with FLUSHED. -/
def State.flushQueue (s : State) (t : QueueId) : State × Nat :=
  let x := s.queue t
  let seqs := (List.range (x.committed - x.started).toNat).map fun i => x.started + BitVec.ofNat 32 i
  seqs.foldl (fun a n =>
    if (mapFind (n.toNat % 256) (a.1.queue t).ring).isSome then (a.1.dropEntry t n stFlushed 0#64, a.2 + 1) else a) (s, 0)

/-- QUEUE_CTL with ACTION FLUSH (R354). -/
def execQueueCtlFlush (q : QueueId) (s : State) : Out :=
  .next (
    match s.head q with
    | none => s
    | some e =>
      if fld e[1] 9 8 != 2 then s
      else s.runHead q opQueueCtl fun s e =>
        match ctlTarget q e with
        | none => s.complete q stBadValue 0#64 0#64
        | some t =>
          if !(s.queue t).halted then s.complete q stOk 0#64 0#64
          else
            let (s, n) := s.flushQueue t
            ((s.unhalt t).step1 t).complete q stOk (word (n * 2 ^ 32 + 1)) 0#64)

end Sys2Proof.Machine
end

