-- ==== Sys2Proof/Machine/Context.lean ====
section
/-! DEFINITION. Contexts, their translation tables and regions (R290-R313, R368-R375, R520): table placement, MAP, UNMAP, host
handles, CTX_OPEN, CTX_CONFIG, REGION_DROP. -/

namespace Sys2Proof.Machine

/-! ### Tables (Table 10.2) -/

/-- The table that an entry points to. -/
def nextTable (x : Word) : Nat := fld x 41 8 * 256

/-- A present entry that maps a page, and one that points to a table. -/
def isLeaf (x : Word) : Bool := leafV x && leafLeaf x
def isTable (x : Word) : Bool := leafV x && !leafLeaf x

/-- Entries that map pages, or map nothing, of the tree below table `t` of level `lv` and meet [lo, hi): their address, first VA,
span and value. -/
def entriesIn (s : State) (lo hi : Nat) : Nat → Nat → Nat → Nat → List (Nat × Nat × Nat × Word)
  | 0, _, _, _ => []
  | fuel + 1, lv, t, base =>
    let span := 2 ^ levelShift lv
    (List.range (2 ^ levelWidth lv)).flatMap fun i =>
      let b := base + i * span
      if b + span ≤ lo || hi ≤ b then []
      else
        let x := readWord s.mem (t + 8 * i)
        if isTable x then entriesIn s lo hi fuel (lv + 1) (nextTable x) b else [(t + 8 * i, b, span, x)]

def Ctx.root (x : Ctx) : Nat := x.poolFirst * 65536

/-- The entries of a context that meet a range. -/
def State.entriesOf (s : State) (x : Ctx) (lo hi : Nat) : List (Nat × Nat × Nat × Word) := entriesIn s lo hi 5 0 x.root 0

/-- The DPA ranges that a context maps. -/
def State.mappedOf (s : State) (x : Ctx) : List (Nat × Nat) :=
  ((s.entriesOf x 0 vaTop).filter fun e => isLeaf e.2.2.2).map fun e => (leafFrame e.2.2.2 * 65536, e.2.2.1)

/-- Whether ranges of DPAs hold a frame. -/
def holdsFrame (rs : List (Nat × Nat)) (fr : Nat) : Bool := rs.any fun r => r.1 ≤ fr * 65536 && fr * 65536 < r.1 + r.2

/-- The tables of the tree below table `t`, itself first. -/
def subTables (s : State) : Nat → Nat → Nat → List Nat
  | 0, _, _ => []
  | fuel + 1, lv, t =>
    t :: (List.range (2 ^ levelWidth lv)).flatMap fun i =>
      let x := readWord s.mem (t + 8 * i)
      if isTable x then subTables s fuel (lv + 1) (nextTable x) else []

/-! ### Placement (R520) -/

/-- The lowest free place of a size, over `n` frames from `fr`. -/
def placeFrom (tables : List Placed) (size : Nat) : Nat → Nat → Option Nat
  | 0, _ => none
  | n + 1, fr =>
    let free (i : Nat) : Bool :=
      let a := fr * 65536 + i * size
      tables.all fun p => p.dpa + p.size ≤ a || a + size ≤ p.dpa
    match (List.range (65536 / size)).find? free with
    | some i => some (fr * 65536 + i * size)
    | none => placeFrom tables size n (fr + 1)

/-- Places a table of a context's pool. -/
def Ctx.place (x : Ctx) (size : Nat) : Option (Nat × Ctx) :=
  (placeFrom x.tables size (x.poolLast + 1 - x.poolFirst) x.poolFirst).map fun a =>
    (a, { x with tables := x.tables ++ [{ dpa := a, size := size }] })

/-- Returns tables to the pool (R373). -/
def Ctx.giveBack (x : Ctx) (ts : List Nat) : Ctx := { x with tables := x.tables.filter fun p => !ts.contains p.dpa }

/-- Harbour's write of one entry. -/
def State.putEntry (s : State) (a : Nat) (x : Word) : State := { s with mem := writeNat s.mem a 8 x.toNat }

/-- A placeholder (R305). -/
def placeholder : Word := 0x200#64

/-- A new table: absent entries, placeholders where the entry it replaces was one. -/
def State.newTable (s : State) (a n : Nat) (rp : Bool) : State :=
  { s with
    mem := if rp then writeBytes s.mem a ((List.replicate n (leBytes 8 placeholder.toNat)).flatten) else zeroBytes s.mem a (8 * n)
    marks := s.marks.filter fun b => !(a ≤ b * 64 && b * 64 + 64 ≤ a + 8 * n) }

/-- Writes the entry of `va` at level `target`, building tables on the way; a table there, none of whose pages is present, is
returned. `none` when the pool cannot hold a table that is needed. -/
def mapPage (va target : Nat) (leaf : Word) : Nat → Nat → Nat → State → Ctx → Option (State × Ctx)
  | 0, _, _, s, x => some (s, x)
  | fuel + 1, lv, t, s, x =>
    let a := t + 8 * levelIndex va lv
    let e := readWord s.mem a
    if lv = target then
      let x := if isTable e then x.giveBack (subTables s fuel (lv + 1) (nextTable e)) else x
      some (s.putEntry a leaf, x)
    else if isTable e then mapPage va target leaf fuel (lv + 1) (nextTable e) s x
    else
      match x.place (tableSize (lv + 1)) with
      | none => none
      | some (n, x) =>
        let s := s.newTable n (2 ^ levelWidth (lv + 1)) (leafRp e)
        mapPage va target leaf fuel (lv + 1) n (s.putEntry a (word (n + 1))) x

/-- Maps `n` pages of a level in order from `va` with the leaves that `leaf` gives. -/
def mapPages (lv : Nat) (leaf : Nat → Word) : Nat → Nat → Nat → State → Ctx → Option (State × Ctx)
  | 0, _, _, s, x => some (s, x)
  | n + 1, i, va, s, x =>
    match mapPage va lv (leaf i) 5 0 x.root s x with
    | none => none
    | some (s, x) => mapPages lv leaf n (i + 1) (va + pageSize lv) s x

/-! ### Host handles and buffers (R301, R303, R362) -/

/-- The key of a region: context, index, generation. -/
def State.generation (s : State) (ctx r : Nat) : Nat := mapGet 1 (ctx * 4096 + r) s.hb.regionGen

def keyOf (ctx r g : Nat) : Word := word (ctx * 2 ^ 20 + r * 2 ^ 8 + g)

/-- Converts a host handle of context `ctx` to a VA and the bytes left in its region (Table 10.5). -/
def State.handle (s : State) (ctx : Nat) (h : Word) : Option (Nat × Nat) :=
  match s.ctx ctx with
  | none => none
  | some x =>
    match mapFind (fld h 59 48) x.regions with
    | none => none
    | some r => if fld h 63 60 = 0 && fld h 47 0 < r.len then some (r.base + fld h 47 0, r.len - fld h 47 0) else none

/-- A buffer's VA (R362): its handle converts and its last byte lies in the region. -/
def State.buffer (s : State) (ctx : Nat) (h : Word) (len : Nat) : Option Nat :=
  match s.handle ctx h with
  | some (va, left) => if len ≤ left then some va else none
  | none => none

/-- Reads a range of a context's space as Harbour does (R295): present leaves, context 0. -/
def State.harbourReadPieces (s : State) (ctx : Nat) : List (Nat × Nat × Nat) → Option (State × List Byte)
  | [] => some (s, [])
  | (va, _, n) :: t =>
    match s.walk ctx va with
    | .fault _ _ => none
    | .bad _ => none
    | .ok dpa _ =>
      match s.devRead 0 dpa n with
      | .ok s bs => (s.harbourReadPieces ctx t).map fun r => (r.1, bs ++ r.2)
      | _ => none

def State.harbourRead (s : State) (ctx va n : Nat) : Option (State × List Byte) := s.harbourReadPieces ctx (rangePieces va n)

/-- Writes bytes into a context's space as Harbour does (R295); a write that Deep rejects fails (log 64). -/
def State.harbourWritePieces (s : State) (ctx : Nat) (bs : List Byte) : List (Nat × Nat × Nat) → Option State
  | [] => some s
  | (va, o, n) :: t =>
    match s.walk ctx va with
    | .fault _ _ => none
    | .bad _ => none
    | .ok dpa _ =>
      if s.deepRejects dpa n then none
      else
        match s.devWrite 0 dpa ((bs.drop o).take n) with
        | .ok s => s.harbourWritePieces ctx bs t
        | _ => none

def State.harbourWrite (s : State) (ctx va : Nat) (bs : List Byte) : Option State :=
  s.harbourWritePieces ctx bs (rangePieces va bs.length)

/-- Whether every page of a range is present. -/
def State.presentAll (s : State) (ctx va n : Nat) : Bool :=
  (rangePieces va n).all fun p => match s.walk ctx p.1 with
    | .ok _ _ => true
    | _ => false

/-! ### Partitions -/

def State.partIsles (s : State) (p : Nat) : List Nat := (List.range 8).filter fun i => s.inPart p i

/-- Whether the frames `first`-`last` lie in the Near or Mid of a partition's isles; an isle holds 2^21 frames of each. -/
def State.framesInPart (s : State) (p first last : Nat) : Bool :=
  last / 2 ^ 21 < 16 && (List.range 16).all fun k => k < first / 2 ^ 21 || last / 2 ^ 21 < k || s.inPart p (k % 8)

/-- Whether a frame of the range is retired or has a tag that `ok` does not allow. -/
def State.framesTagged (s : State) (first last : Nat) (ok : FrameTag → Bool) : Bool :=
  s.frames.any fun f => first ≤ f.1 && f.1 ≤ last && (f.2.retired || !ok f.2)

/-- Whether a frame of the range lies in some pool. -/
def State.framesPooled (s : State) (first last : Nat) : Bool :=
  s.hb.ctxs.any fun x => x.2.poolFirst ≤ last && first ≤ x.2.poolLast

/-! ### CTX_OPEN and CTX_CONFIG (R368-R370) -/

/-- CTX_OPEN (R369). -/
def execCtxOpen (q : QueueId) (s : State) : Out :=
  .next (s.runHead q opCtxOpen fun s e =>
    let c := e.ctx
    let part := fld e[1] 18 16
    let first := fld e[2] 41 16
    let last := fld e[3] 41 16
    if last < first || (s.partIsles part).isEmpty then s.complete q stBadValue 0#64 0#64
    else if c = 0 || (s.ctx c).isSome then s.complete q stBadContext 0#64 0#64
    else if !s.framesInPart part first last then s.complete q stPartition 0#64 0#64
    else if s.framesTagged first last (fun t => t.ctx = 0) || s.framesPooled first last then s.complete q stBusy 0#64 0#64
    else
      let x : Ctx :=
        { part := part, poolFirst := first, poolLast := last, tables := [{ dpa := first * 65536, size := 2048 }], epoch := 0#16
          faultTimeout := 10000, regions := [], unmapping := [] }
      ((s.newTable (first * 65536) 256 false).setCtx c x).complete q stOk (word (last + 1 - first)) 0#64)

/-- CTX_CONFIG (R370). -/
def execCtxConfig (q : QueueId) (s : State) : Out :=
  .next (s.runHead q opCtxConfig fun s e =>
    let v := fld e[2] 19 0
    if v = 0 || 600000 < v then s.complete q stBadValue 0#64 0#64
    else
      match s.ctx e.ctx with
      | none => s.complete q stBadContext 0#64 0#64
      | some x => (s.setCtx e.ctx { x with faultTimeout := v }).complete q stOk 0#64 0#64)

/-! ### MAP (R310, R373) -/

/-- Fields of MAP's word 1. -/
structure MapFields where
  reserve : Bool
  host : Bool
  rp : Bool
  wlevel : BitVec 2
  c : Bool
  w : Bool
  r : Bool
  psize : Nat
deriving DecidableEq, Repr

def mapFields (x : Word) : MapFields where
  reserve := x.getLsbD 25
  host := x.getLsbD 24
  rp := x.getLsbD 21
  wlevel := x.extractLsb' 19 2
  c := x.getLsbD 18
  w := x.getLsbD 17
  r := x.getLsbD 16
  psize := fld x 13 12

/-- The leaf of frame `fr` (Table 10.4), or a placeholder. -/
def leafWord (f : MapFields) (fr : Nat) : Word :=
  let b (x : Bool) (i : Nat) : Nat := if x then 2 ^ i else 0
  if f.reserve then placeholder
  else word (fr * 65536 + b f.rp 9 + b f.c 8 + f.wlevel.toNat * 64 + b f.w 5 + b f.r 4 + 3)

/-- The lowest region index that is free for use (R373). -/
def State.freeRegion (s : State) (ctx : Nat) (x : Ctx) : Option Nat :=
  (List.range 4096).find? fun r => (mapFind r x.regions).isNone && !s.hb.regionRetired.contains (ctx * 4096 + r)

/-- Tags frames with a context. -/
def State.tagFrames (s : State) (ctx first : Nat) : Nat → State
  | 0 => s
  | n + 1 => (s.setFrameTag (first + n) { retired := false, ctx := ctx }).tagFrames ctx first n

/-- The status of MAP, and the state that it leaves when that is OK: RESULT0 and RESULT1. -/
def State.mapRange (s : State) (e : Entry) : Nat × State × Word × Word :=
  let f := mapFields e[1]
  let ctx := e.ctx
  let va := fld e[2] 55 0
  let len := fld e[3] 42 0
  let dpa := fld e[4] 41 0
  let lv := 4 - f.psize
  let sz := pageSize lv
  let bad (n : Nat) : Nat × State × Word × Word := (n, s, 0#64, 0#64)
  if f.psize = 3 || f.wlevel = 3#2 || (f.host && f.reserve) || (f.reserve && (dpa != 0 || f.r || f.w || f.c)) then bad stBadValue
  else
    match s.ctx ctx with
    | none => bad stBadContext
    | some x =>
      let last := dpa + len - 1
      if 2 ^ 42 < len then bad stLength
      else if va % sz != 0 || len % sz != 0 || dpa % sz != 0 || vaTop < va + len ||
          (!f.reserve && len != 0 && (tierOf dpa != tierOf last || dpaEnd ≤ last)) then bad stRange
      else if len = 0 then (stOk, s, 0#64, 0#64)
      else if (s.entriesOf x va (va + len)).any fun y => isLeaf y.2.2.2 then bad stMapped
      else if !f.reserve && (s.framesTagged (frameOf dpa) (frameOf last) (fun t => t.ctx = 0 || t.ctx = ctx) ||
          s.framesPooled (frameOf dpa) (frameOf last)) then bad stBusy
      else if !f.reserve && nearOrMid dpa && !s.framesInPart x.part (frameOf dpa) (frameOf last) then bad stPartition
      else
        match mapPages lv (fun i => leafWord f (frameOf dpa + i * (sz / 65536))) (len / sz) 0 va s x with
        | none => bad stNoSpace
        | some (s, x) =>
          let s := if f.reserve then s else s.tagFrames ctx (frameOf dpa) (len / 65536)
          if !f.host then (stOk, s.setCtx ctx x, 0#64, 0#64)
          else
            match s.freeRegion ctx x with
            | none => bad stNoSpace
            | some r =>
              (stOk, s.setCtx ctx { x with regions := mapSet r { base := va, len := len } x.regions }, word (r * 2 ^ 48),
                keyOf ctx r (s.generation ctx r))

/-- MAP (R310, R373). -/
def execMap (q : QueueId) (s : State) : Out :=
  .next (s.runHead q opMap fun s e =>
    let r := s.mapRange e
    r.2.1.complete q r.1 r.2.2.1 r.2.2.2)

/-! ### UNMAP (R312, R374) -/

/-- Writes back the modified L1 lines of a range, or not (ABORT), and invalidates them (R312 step 5): in every core, whatever context it
serves now, and by the address that allocated a line as well as by the frames `ranges` that the cleared leaves mapped. -/
def State.purgeL1 (s : State) (ctx va len : Nat) (ranges : List (Nat × Nat)) (writeBack : Bool) : State :=
  s.cores.foldl (fun s k =>
    let c := coreOf k.1
    let hit (y : L1Line) : Bool := y.ctx == ctx &&
      ((decide (va < y.line * 64 + 64) && decide (y.line * 64 < va + len)) ||
        ranges.any fun r => decide (r.1 ≤ y.dpaLine * 64) && decide (y.dpaLine * 64 < r.1 + r.2))
    if !((s.sc c).l1.any fun t => t.2.ways.any fun y => y.any hit) then s
    else
      let lines := (s.sc c).l1.flatMap fun t => t.2.ways.toList.filterMap fun y => y.filter hit
      let s := if writeBack then lines.foldl (fun s y => s.writeBack c y) s else s
      s.updSc c fun x =>
        { x with l1 := x.l1.map fun t => (t.1, { t.2 with ways := t.2.ways.map fun y => y.filter fun z => !hit z }) }) s

/-- Refuses the buffered stores of a range: their launches fail with UNMAPPED (R312 step 6). -/
def State.refuseStores (s : State) (ctx va len : Nat) : State :=
  s.cores.foldl (fun s k =>
    let c := coreOf k.1
    let hit (b : BufferedStore) : Bool := b.ctx == ctx && decide (va ≤ b.ea.toNat) && decide (b.ea.toNat < va + len)
    match (s.sc c).stores.find? hit with
    | none => s
    | some b =>
      (s.updSc c fun x => { x with stores := x.stores.filter fun b => !hit b }).failCore c.val clsTranslation
        (xlateDetail 6 b.ea.toNat)) s

/-- Clears leaves of a range, and placeholders with CLEAR_RP (R312 step 3). -/
def State.clearEntries (s : State) (es : List (Nat × Nat × Nat × Word)) (va len : Nat) (clearRp : Bool) : State :=
  es.foldl (fun s e =>
    let x := e.2.2.2
    if isLeaf x then s.putEntry e.1 (if leafRp x && !clearRp then placeholder else 0#64)
    else if clearRp && va ≤ e.2.1 && e.2.1 + e.2.2.1 ≤ va + len then s.putEntry e.1 0#64
    else s) s

/-- Steps 3 to 6 of R312 over a range of context `ctx`, run by queue `q`; step 7 waits for EPOCH_RETIRE. -/
def State.unmapRange (s : State) (q : QueueId) (ctx : Nat) (x : Ctx) (va len : Nat) (clearRp abort release closing : Bool) : State :=
  let es := s.entriesOf x va (va + len)
  let leaves := es.filter fun e => isLeaf e.2.2.2
  let ranges := leaves.map fun e => (leafFrame e.2.2.2 * 65536, e.2.2.1)
  let s := s.clearEntries es va len clearRp
  let u : Unmapping :=
    { queue := q.val, closing := closing, epoch := x.epoch, cleared := leaves.length, ranges := if release then ranges else [] }
  let s := s.setCtx ctx { x with epoch := x.epoch + 1#16, unmapping := x.unmapping ++ [u] }
  let s := s.purgeL1 ctx va len ranges (!abort)
  if abort then (s.refuseStores ctx va len).refuseFerries ctx va len else s

/-- UNMAP (R312, R374): an earlier UNMAP of the context holds it at the head. -/
def execUnmap (q : QueueId) (s : State) : Out :=
  .next (s.runHead q opUnmap fun s e =>
    let ctx := e.ctx
    let va := fld e[2] 55 0
    let len := fld e[3] 42 0
    match s.ctx ctx with
    | none => s.complete q stBadContext 0#64 0#64
    | some x =>
      let es := s.entriesOf x va (va + len)
      let partly := es.any fun y => isLeaf y.2.2.2 && (y.2.1 < va || va + len < y.2.1 + y.2.2.1)
      let inWindow := s.isles.any fun i => i.windows.any fun w =>
        w.2.opened && w.2.ctx = ctx && fld w.2.base 55 0 < va + len && va < fld w.2.base 55 0 + 128 * w.2.lines
      if 2 ^ 42 < len then s.complete q stLength 0#64 0#64
      else if va % 65536 != 0 || len % 65536 != 0 then s.complete q stRange 0#64 0#64
      else if len = 0 then s.complete q stOk 0#64 0#64
      else if partly then s.complete q stRange 0#64 0#64
      else if !x.unmapping.isEmpty then s
      else if inWindow then s.complete q stBusy 0#64 0#64
      else
        (s.unmapRange q ctx x va len (e[1].getLsbD 17) (e[1].getLsbD 16) (e[1].getLsbD 18) false).startHead q 0)

/-- Whether a request of an epoch of a context is outstanding: a buffered store (R311). -/
def State.epochBusy (s : State) (ctx : Nat) (ep : BitVec 16) : Bool :=
  s.cores.any fun k => k.2.sc.stores.any fun b => b.ctx == ctx && b.epoch == ep

/-- Gives frames back (R298): those tagged with the context in `rs` that it maps nowhere else read zero and have tag 0. -/
def State.releaseFrames (s : State) (ctx : Nat) (p : Nat → Bool) : State :=
  let fs := (s.frames.filter fun f => f.2.ctx = ctx && !f.2.retired && p f.1).map Prod.fst
  fs.foldl (fun s f =>
    ({ s.dropLines (f * 65536) 65536 with
        mem := zeroBytes s.mem (f * 65536) 65536
        marks := s.marks.filter fun b => b * 64 / 65536 != f
        deep := { s.deep with lost := s.deep.lost.filter fun p => frameOf (deepBase + p * 4096) != f } }).setFrameTag f { retired := false, ctx := 0 }) s

def State.releaseRanges (s : State) (ctx : Nat) (rs : List (Nat × Nat)) : State :=
  match s.ctx ctx with
  | none => s
  | some x =>
    let kept := s.mappedOf x
    s.releaseFrames ctx fun f => holdsFrame rs f && !holdsFrame kept f

/-! ### REGION_DROP (R375) -/

/-- Drops a region: its generation advances, or its index is retired. -/
def State.dropRegion (s : State) (ctx r : Nat) : State :=
  let g := s.generation ctx r
  let k := ctx * 4096 + r
  let s := s.updCtx ctx fun x => { x with regions := mapErase r x.regions }
  if g < 255 then s.updHb fun h => { h with regionGen := mapSet k (g + 1) h.regionGen }
  else s.updHb fun h => { h with regionRetired := addOnce k h.regionRetired }

/-- REGION_DROP (R375). -/
def execRegionDrop (q : QueueId) (s : State) : Out :=
  .next (s.runHead q opRegionDrop fun s e =>
    let r := fld e[1] 43 32
    match s.ctx e.ctx with
    | none => s.complete q stBadContext 0#64 0#64
    | some x =>
      if (mapFind r x.regions).isNone then s.complete q stBadHandle 0#64 0#64
      else
        let s := s.dropRegion e.ctx r
        s.complete q stOk (word (s.generation e.ctx r)) 0#64)

end Sys2Proof.Machine
end

