-- ==== Sys2Proof/Machine/Watts.lean ====
section
/-! DEFINITION. Profiles, the effective cap, frequency ceilings and wake tokens (R420-R425, R433, R434). -/

namespace Sys2Proof.Machine

/-- Module limit of a profile, W (Table 14.1). -/
def profileLimit (p : Nat) : Nat := [400, 1600, 2700, 3000].getD p 400

/-- Guaranteed frequency of a profile, MHz; Bench guarantees none (Table 14.1). -/
def profileMhz (p : Nat) : Nat := [0, 2200, 3000, 3200].getD p 0

/-- The frequency that a profile holds its deterministic launches at: in Bench every launch runs at 0.8 GHz (R422, R425). -/
def guaranteedMhz (p : Nat) : Nat := if p = 0 then 800 else profileMhz p

/-- The highest operating point at or below a frequency: a multiple of 100 MHz (R423). -/
def opFloor (mhz : Nat) : Nat := mhz / 100 * 100

/-- Default floors of a profile (Table 14.3). -/
def defaultFloors (p : Nat) : Shares :=
  [{ links := 150, memory := 200, compute := 50 }, { links := 310, memory := 520, compute := 770 },
    { links := 310, memory := 738, compute := 1427 }, { links := 310, memory := 738, compute := 1671 }].getD p
    { links := 150, memory := 200, compute := 50 }

/-- The module limit of the profile in force. -/
def Power.limit (x : Power) : Nat := profileLimit x.profile

/-- The effective cap (R421, R513): the smallest of POWER_CAP's value, the profile limit and the top's rating. A top that gives no
rating sets no bound (log 15). -/
def Power.capEff (x : Power) : Nat :=
  let c := min (x.cap.getD x.limit) x.limit
  match x.rating with
  | some r => min c r
  | none => c

/-- The floors in force. -/
def Power.floorsNow (x : Power) : Shares := x.floors.getD (defaultFloors x.profile)

/-- The isle ceiling F without throttling for stack heat: boost, its ageing cut and the compute grant (R424, R428, R438). -/
def State.ceilingF (s : State) (i : IsleId) : Nat :=
  if s.power.profile = 0 then 800 else max 800 (min s.power.ceiling (3300 - 100 * (s.isle i).heat.ageingCut))

/-- The hotter stack's band and temperature (R288). -/
def IsleHeat.hotter (h : IsleHeat) : Nat × Nat :=
  if h.band0 < h.band1 || (h.band0 = h.band1 && h.t0 < h.t1) then (h.band1, h.t1) else (h.band0, h.t0)

/-- A frequency as the isle's stack heat leaves it. -/
def State.underStacks (s : State) (i : IsleId) (f : Nat) : Nat :=
  let b := (s.isle i).heat.hotter
  stackCeiling f b.1 b.2

/-- The isle's frequency ceiling (FREQCAP): under stack heat, and from 100 °C junction 100 MHz lower for each whole degree above 99 °C
(R433). -/
def State.isleCeiling (s : State) (i : IsleId) : Nat :=
  let h := (s.isle i).heat
  let f := s.underStacks i (s.ceilingF i)
  if h.stopped then 0
  else if h.junctionStep = 0 then f
  else min f (max 800 (f - 100 * (h.junction.toNat / 8 - 99)))

/-- The highest operating point that an isle's ceiling allows (R423, R424). -/
def State.ceilingPoint (s : State) (i : IsleId) : Nat := opFloor (s.isleCeiling i)

/-- The point in MHz at which a core works for a launch (R422, R424, R425). -/
def State.pointFor (s : State) (c : CoreId) (l : Launch) : Nat :=
  let i := isleOf c
  if l.deterministic then opFloor (min l.gfreq (s.underStacks i (max l.gfreq (s.ceilingF i)))) else s.ceilingPoint i

/-- Wake tokens of a core at a point (R423, Table 14.2); none while gated. -/
def wakeTokensAt (mhz : Nat) : Nat :=
  if mhz = 0 then 0
  else if mhz = 800 then 1
  else if mhz = 2200 then 4
  else if mhz = 3000 then 5
  else if mhz = 3200 || mhz = 3300 then 6
  else Config.wakeTokens mhz

/-- Whether a core that works for launch `l` runs above the guaranteed frequency; Bench guarantees none (R425, Table 14.1). -/
def State.boosts (s : State) (l : Launch) : Bool :=
  !l.deterministic && s.power.profile != 0 && l.posted.any fun c => decide (profileMhz s.power.profile < (s.core (coreOf c)).pw.point)

/-- Notes BOOST with every launch that has a boosted core (R29, Tables 1.3 and 11.3). -/
def State.noteBoosts (s : State) : State :=
  s.updHb fun h => { h with launches := h.launches.map fun x =>
    if (s.boosts x.2) then (x.1, { x.2 with timing := { x.2.timing with boost := true } }) else x }

/-- Asks for the tokens of a rise of core `c` to a point; a fall takes effect at once (R434, R435). -/
def State.wantPoint (s : State) (c : CoreId) (mhz : Nat) : State :=
  s.updCore c fun x =>
    { x with pw := if x.pw.point < mhz then { x.pw with want := some mhz } else { x.pw with point := mhz, want := none } }

/-- Every core by number. -/
def allCores : List CoreId := List.finRange 1200

/-- Sets a bit of PWREVT on a core (Table 14.7). -/
def State.powerEvent (s : State) (bit : Nat) (c : CoreId) : State :=
  s.updCore c fun x => { x with pw := { x.pw with evt := x.pw.evt ||| (1#6 <<< bit) } }

def evProfile : Nat := 0
def evCap : Nat := 1
def evDuty : Nat := 2
def evShed : Nat := 3
def evJthrot : Nat := 4
def evAge : Nat := 5

/-- Sets a bit of PWREVT on every core. -/
def State.powerEventAll (s : State) (bit : Nat) : State := allCores.foldl (fun s c => s.powerEvent bit c) s

/-- Changes the power state; a change of the effective cap sets PWREVT.CAPCHG and restarts the count of unmet groups (R432). -/
def State.setPower (s : State) (x : Power) : State :=
  if x.capEff = s.power.capEff then { s with power := x }
  else ({ s with power := { x with unmet := none, lastShed := none } }).powerEventAll evCap

/-- The cores of an isle. -/
def coresOf (i : IsleId) : List CoreId := (List.range 150).map (isleCore i)

end Sys2Proof.Machine
end

