-- ==== Sys2Proof/Machine/Timetable.lean ====
section
/-! DEFINITION. Timetables (R401-R404, R415): the flits of slot runs, the checks of an image, effective ticks, and the cells that travel
between devices for a launch (R400, R409, R411). -/

namespace Sys2Proof.SlotRun

def isSend (r : SlotRun) : Bool := r.kind = 0#4
def isRecv (r : SlotRun) : Bool := r.kind = 1#4
def isReduce (r : SlotRun) : Bool := r.kind = 2#4
def isForward (r : SlotRun) : Bool := r.kind = 3#4

/-- Slots that a run uses, rising. -/
def slots (r : SlotRun) : List Nat := (List.range 32).filter fun n => r.slotmask.getLsbD n

/-- Flits of a run (R402). -/
def flits (r : SlotRun) : Nat := r.slots.length * r.tcount

/-- FIDX of the flit in slot `n` of the run's tick `x`, counted from TSTART (R402). -/
def fidx (r : SlotRun) (x n : Nat) : Option Nat :=
  if x < r.tcount then (r.slots.idxOf? n).map fun j => x * r.slots.length + j else none

/-- The tick of flit `f`, counted from TSTART, and its slot. -/
def place (r : SlotRun) (f : Nat) : Nat × Nat := (f / r.slots.length, r.slots.getD (f % r.slots.length) 0)

/-- The uses a run makes of ports: port, whether it sends, and ticks after its send ticks (R402). -/
def uses (r : SlotRun) : List (Nat × Bool × Nat) :=
  if r.isSend then [(r.port.toNat, true, 0)]
  else if r.isForward then [(r.port.toNat, false, 0), (r.oport.toNat, true, 8)]
  else [(r.port.toNat, false, 0)]

/-- Whether two uses claim a slot of one port, direction and tick; a run of no ticks claims none. -/
def clash (a b : SlotRun) (ua ub : Nat × Bool × Nat) : Bool :=
  a.tcount != 0 && b.tcount != 0 && ua.1 = ub.1 && ua.2.1 = ub.2.1 && a.slotmask &&& b.slotmask != 0#32 &&
  decide (a.tstart + ua.2.2 < b.tstart + ub.2.2 + b.tcount) && decide (b.tstart + ub.2.2 < a.tstart + ua.2.2 + a.tcount)

/-- Bytes of flit `f` (R402): the last flit is padded with zeros. -/
def flitBytes (f : Nat) (bs : List Byte) : List Byte :=
  let p := (bs.drop (240 * f)).take 240
  p ++ List.replicate (240 - p.length) 0#8

/-- Whether a run's fields hold what R401 and R403 ask of one run by itself. -/
def sound (r : SlotRun) : Bool :=
  r.rsv = 0#34 && decide (r.kind.toNat ≤ 3) && decide (r.port.toNat < 12) && !r.slotmask.getLsbD 0 &&
  (if r.isForward then decide (r.oport.toNat < 12) && r.buf = 0#56 else r.oport = 0#4) &&
  decide (r.bytes ≤ 240 * r.flits) && decide (r.flits ≤ 65536) &&
  (!r.isReduce || (r.buf.toNat % 128 = 0 && r.bytes % 128 = 0))

end Sys2Proof.SlotRun

namespace Sys2Proof.ImageHeader

open Sys2Proof.Machine

/-- The device core indices that an image uses. -/
def cores (h : ImageHeader) : List Nat := h.coreMap.eraseDups

def phase (h : ImageHeader) (k : Nat) : Option PhaseEntry := h.phases[k]?

def hasMark (h : ImageHeader) : Bool := h.phases.any PhaseEntry.mark

/-- Whether a run lies within phase `p` (R403). -/
def runIn (r : SlotRun) (p : PhaseEntry) : Bool :=
  decide (p.s ≤ r.tstart) && decide (r.tstart + r.tcount + (if r.isForward then 40 else 32) ≤ p.b)

/-- The phase that a run lies in. -/
def phaseOf (h : ImageHeader) (r : SlotRun) : Nat := (h.phases.findIdx? fun p => runIn r p).getD 0

/-- Pairs of runs that claim the same slot of one port, direction and tick. -/
def clashes (rs : List SlotRun) : Bool :=
  match rs with
  | [] => false
  | a :: t => (a.uses.any fun u => t.any fun b => b.uses.any fun v => a.clash b u v) || clashes t

/-- Slots claimed of a port and direction at a tick. -/
def claimed (h : ImageHeader) (p : Nat) (out : Bool) (tick : Nat) : Nat :=
  (h.runs.map fun r =>
    if r.uses.any fun u => u.1 = p && u.2.1 = out && decide (r.tstart + u.2.2 ≤ tick) && decide (tick < r.tstart + u.2.2 + r.tcount)
    then r.slots.length else 0).foldl (· + ·) 0

/-- Whether no port, direction and tick has more than 30 slots claimed; the claims rise only where a use begins. -/
def within30 (h : ImageHeader) : Bool :=
  h.runs.all fun r => r.uses.all fun u => h.claimed u.1 u.2.1 (r.tstart + u.2.2) ≤ 30

/-- Whether the phases stand in order (R403). -/
def phasesOk (v : Nat) : List PhaseEntry → Bool
  | [] => true
  | [p] => p.rsv = 0#46 && decide (p.s < p.b)
  | p :: q :: t => p.rsv = 0#46 && decide (p.s < p.b) && decide (p.b + v ≤ q.s) && phasesOk v (q :: t)

/-- Whether a named patch point exists with its size. -/
def pointOk (h : ImageHeader) (o : Option Nat) (size : Nat) : Bool :=
  match o with
  | none => true
  | some i => (h.points[i]?.map PatchPoint.size) = some size

/-- The consistency of an image header (R341, R363 step 4, R401, R403). -/
def consistent (h : ImageHeader) : Bool :=
  let top := topLevel h
  decide (h.scratchW ≤ 4) && decide (h.blockLen ≤ 65536) && decide (h.points.length ≤ 4096) &&
  (h.points.all fun p =>
    decide (1 ≤ p.size) && decide (p.size ≤ 4096) && decide (p.offset + p.size ≤ h.blockLen) && (!p.resolve || p.size = 8)) &&
  h.snapBase.toNat % 65536 = 0 && decide (1 ≤ h.snapSlots) && decide (h.snapSlots ≤ 16) && decide (minLead top ≤ h.lead) &&
  decide (1 ≤ h.phases.length) && decide (h.phases.length ≤ 4096) && decide (h.runs.length ≤ 8192) &&
  decide (h.rank < 1024) && decide (h.shapeSound ≤ 8) && decide (h.shapeChannel ≤ 8) && decide (h.shapeReach ≤ 16) &&
  phasesOk (voteWindow top) h.phases &&
  (h.runs.all fun r => r.sound && h.phases.any fun p => runIn r p) && !clashes h.runs && h.within30 &&
  h.pointOk h.keyPoint 8 && h.pointOk h.resumePoint 4 && h.pointOk h.neighboursPoint 96 &&
  (top = 0 || (h.keyPoint.isSome && h.neighboursPoint.isSome)) &&
  (!h.hasMark || (h.markLog.toNat % 64 = 0 && decide (1 ≤ h.markSlots) && decide (h.markSlots ≤ 256)))

/-- The value of a patch point in a block, as a number. -/
def pointValue (h : ImageHeader) (o : Option Nat) (block : List Byte) : Option Nat :=
  match o.bind fun i => h.points[i]? with
  | some p => some (leNat ((block.drop p.offset).take p.size))
  | none => none

/-- VA of snapshot slot `k` (R344). -/
def snapVa (h : ImageHeader) (k : Nat) : Nat := h.snapBase.toNat + k * 0x20000

/-- The task's entry address and argument on a core (Table 11.7). -/
def taskOf (h : ImageHeader) (c : Nat) : Word × Word :=
  h.entry.getD (h.coreMap.idxOf c) (0#64, 0#64)

end Sys2Proof.ImageHeader

namespace Sys2Proof.Machine

/-! ### Effective ticks (R410, R412, R415) -/

/-- The current phase of a launch. -/
def Launch.phaseNow (l : Launch) (h : ImageHeader) : Option PhaseEntry := h.phase l.phase

/-- The effective tick of schedule tick `x`. The slips of the current phase move the ticks from its boundary on, and no tick before it, which
has passed by then (R412). -/
def Launch.eff (l : Launch) (h : ImageHeader) (x : Nat) : Word :=
  let b := ((l.phaseNow h).map PhaseEntry.b).getD 0
  l.startTick + word (x + (if x < b then l.offset - 1024 * l.phaseSlips else l.offset)) - word l.base

/-- The effective boundary of the current phase. -/
def Launch.boundary (l : Launch) (h : ImageHeader) : Word := l.eff h (((l.phaseNow h).map PhaseEntry.b).getD 0)

/-- The runs of a launch that the Strait dies hold, with their numbers (R404): none before its key's phases and none once unloaded. -/
def Launch.loaded (l : Launch) (h : ImageHeader) : List (Nat × SlotRun) :=
  if l.unloaded then [] else (h.runs.zipIdx.map fun x => (x.2, x.1)).filter fun x => l.first ≤ h.phaseOf x.2

/-- Flit indices that a run has received and sent. -/
def Launch.got (l : Launch) (r : Nat) : List Nat := mapGet [] (2 * r) l.flits
def Launch.sent (l : Launch) (r : Nat) : List Nat := mapGet [] (2 * r + 1) l.flits

/-- Whether a run is complete (R410): every flit sent, or received and written, with every line contributed. -/
def Launch.runDone (l : Launch) (x : Nat × SlotRun) : Bool :=
  let r := x.2
  if r.isSend || r.isForward then decide (r.flits ≤ (l.sent x.1).length)
  else decide (r.flits ≤ (l.got x.1).length) && (l.heldRx.all fun y => y.1 != x.1) && (!r.isReduce || decide (r.bytes / 128 ≤ (mapGet [] x.1 l.lines).length))

/-- Whether a launch is of a level above the device. -/
def spans (h : ImageHeader) : Bool := topLevel h != 0

/-! ### Cells (R400) -/

/-- Traces a cell in ring 2. -/
def State.traceCell (s : State) (src : Nat) (x : Cell) : State :=
  s.trace 2 (BitVec.ofNat 16 src) (x.kind.setWidth 16) x.key (x.tick.setWidth 64)

/-- The launch of a key; key 0 names none. -/
def State.launchOfKey (s : State) (key : Word) : Option (Nat × Launch) :=
  s.hb.launches.find? fun x => x.2.key = key && match s.image x.2 with
    | some h => spans h
    | none => false

/-- The full tick that a cell names: the one nearest the device's own tide (R399). -/
def State.fullTick (s : State) (t : BitVec 32) : Word := s.tide + (t - s.tide.setWidth 32).signExtend 64

/-- Sends a cell toward rank 0 on the launch's VOTE_PORT. -/
def State.toRank0 (s : State) (h : ImageHeader) (x : Cell) : State :=
  let s := s.sawCell x
  if hp : h.votePort.toNat < 12 then s.queueCell ⟨h.votePort.toNat, hp⟩ x else s

/-- START_AT has reached the device (R409): the launch record header takes START_TICK and work items can be posted. -/
def State.takeStartAt (s : State) (k : Nat) (h : ImageHeader) (tick : Word) : State :=
  match s.launch k with
  | none => s
  | some l =>
    if l.agreed then s
    else
      let s := s.setLaunch k { l with startTick := tick, agreed := true }
      (s.harbourWrite l.ctx (h.snapVa l.snapSlot + 0x18) (leBytes 8 tick.toNat)).getD s

/-- Rank 0 collects a START (R409); the last of the shape's ranks fixes START_TICK, which it floods and takes itself. -/
def State.collectStart (s : State) (k : Nat) (h : ImageHeader) (rank : BitVec 10) (tick : Word) : State :=
  match s.launch k with
  | none => s
  | some l =>
    if l.agreed || l.stop.isSome || (l.starts.any fun x => x.rank = rank) then s
    else
      let xs := l.starts ++ [{ rank := rank, tick := tick, arrived := s.tide }]
      let s := s.setLaunch k { l with starts := xs }
      if xs.length < shapeRanks h then s
      else
        let most := xs.foldl (fun a x => if a < x.tick then x.tick else a) 0#64
        let least := s.tide + word (propBound (topLevel h) + 64)
        let t := if most < least then least else most
        (s.flood h none (mkCell cellStartAt l.key t h.rank (h.uid.setWidth 128))).takeStartAt k h t

/-- Rank 0 records a VOTE of the launch's current phase and boundary (R411). -/
def State.recordVote (s : State) (k : Nat) (h : ImageHeader) (x : Cell) : State :=
  match s.launch k with
  | none => s
  | some l =>
    if x.body.extractLsb' 0 16 != BitVec.ofNat 16 l.phase || s.fullTick x.tick != l.boundary h || (l.votes.any fun v => v.1 = x.origin)
    then s
    else s.setLaunch k { l with votes := l.votes ++ [(x.origin, x.body.getLsbD 16)] }

/-- A START or VOTE cell of launch `k` (R400): rank 0 acts on it, any other device forwards it on its VOTE_PORT. -/
def State.inbound (s : State) (k : Nat) (h : ImageHeader) (x : Cell) : State :=
  if h.rank != 0 then
    if x.hops = 15#4 then s.sawCell x else s.toRank0 h { x with hops := x.hops + 1#4 }
  else
    let s := s.sawCell x
    if x.kind = cellStart then
      if x.body.extractLsb' 0 64 = h.uid then s.collectStart k h x.origin (s.fullTick x.tick) else s
    else s.recordVote k h x

/-- Cells held for a launch's key are handled once it is here (R400). -/
def State.releaseHeld (s : State) (k : Nat) (h : ImageHeader) (key : Word) : State :=
  let mine := s.strait.held.filter fun x => x.cell.key = key
  let s := { s with strait := { s.strait with held := s.strait.held.filter fun x => x.cell.key != key } }
  mine.foldl (fun s x => s.inbound k h x.cell) s

end Sys2Proof.Machine
end

