-- ==== Sys2Proof/Machine/Launches.lean ====
section
/-! DEFINITION. Stored graphs, launches and moorings (R338-R351, R363-R365, R401-R406, R409, R415). -/

namespace Sys2Proof.Machine

/-! ### What refers to a graph slot (R341, R364) -/

/-- Whether a queued or dispatched launch refers to a slot. -/
def State.slotInUse (s : State) (slot : Nat) : Bool :=
  (s.waitingEntries.any fun x => x.2.2.op == opGraphLaunch && x.2.2.slot == slot) || s.hb.launches.any fun l => l.2.slot == slot

/-- Bound moorings that `p` selects by graph slot: core and slot number. -/
def State.boundWhere (s : State) (p : Nat → Bool) : List (CoreId × Nat) :=
  s.hb.moorings.filterMap fun x =>
    match x.2.graph with
    | some g => if p g then some (coreOf (x.1 / 8), x.1 % 8) else none
    | none => none

/-- Unbinds every IDLE mooring bound to a graph that `p` selects. -/
def State.unbindWhere (s : State) (p : Nat → Bool) : State :=
  (s.boundWhere p).foldl (fun s x => s.unbind x.1 x.2) s

/-! ### GRAPH_STORE and GRAPH_DROP (R341, R342, R363, R364, R473) -/

/-- GRAPH object type, and the magic of a signed object (Tables 16.3, 16.4). -/
def objGraph : Nat := 0x0010
def objMagic : Nat := 0x4f53464b

end Sys2Proof.Machine

namespace Sys2Proof.SignedHeader

open Sys2Proof.Machine

/-- Check 1 of R473: MAGIC, TYPE and the reserved fields. -/
def wellMarked (h : SignedHeader) (types : List Nat) : Bool :=
  fld h.word0 31 0 = objMagic && types.contains (fld h.word0 47 32) && fld h.word0 63 48 = 0 && fld h.len 63 40 = 0 && h.reservedZero

end Sys2Proof.SignedHeader

namespace Sys2Proof.Machine

/-- Checks 1, 3, 4 and 5 of R473 over a graph image; a device without an owner accepts none. -/
def State.graphSigned (s : State) (h : SignedHeader) (v : Signatures) : Bool :=
  s.flash.owner.isSome && h.wellMarked [objGraph] && v.ecdsa && v.hss && (h.target = 0#64 || h.target = Config.straitId)

/-- The DIGEST field of an object's header (Table 16.3). -/
def digestOf (bs : List Byte) : BitVec 384 := BitVec.ofNat 384 (leNat ((bs.drop 0x20).take 48))

/-- Checks 2 and 6: the object's header, body and two signatures fill LEN bytes, DIGEST matches the body, whose SHA-384 is `body`, and its
SVN is 0 (Table 16.4). -/
def graphWhole (h : SignedHeader) (digest body : BitVec 384) (len : Nat) : Bool :=
  fld h.len 39 0 + 3828 = len && digest = body && fld h.ver 63 32 = 0

/-- Whether the whole snapshot area is mapped readable and not cacheable (R342). -/
def State.snapMapped (s : State) (ctx : Nat) (h : ImageHeader) : Bool :=
  (rangePieces h.snapBase.toNat (h.snapSlots * 0x20000)).all fun p =>
    match s.walk ctx p.1 with
    | .ok _ leaf => leafR leaf && !leafC leaf
    | _ => false

/-- The live block that an image starts with (R343). -/
def initialBlock (h : ImageHeader) : List Byte :=
  let p := h.initial.take h.blockLen
  p ++ List.replicate (h.blockLen - p.length) 0#8

/-- RESULT0 and RESULT1 of GRAPH_STORE (Table 12.8). -/
def storeResults (h : ImageHeader) : Word × Word :=
  (word (h.blockLen * 2 ^ 32 + h.points.length), word h.cores.length)

/-- The header at the start of a signed object (Table 16.3); bytes that an object cut short does not hold read as zero. -/
def headerOf (bs : List Byte) : SignedHeader :=
  let w (o : Nat) : Word := word (leNat ((bs.drop o).take 8))
  { word0 := w 0, ver := w 8, len := w 16, target := w 24, reservedZero := ((bs.drop 0x50).take 48).all (· == 0#8), bytes := bs.length }

/-- The status of GRAPH_STORE with an image, its checks in order; the header and its DIGEST are what the buffer's bytes hold. -/
def State.storeStatus (s : State) (e : Entry) (img : ImageHeader) (body : BitVec 384) (v : Signatures) : Nat :=
  let len := fld e[3] 31 0
  match s.ctx e.ctx with
  | none => stBadContext
  | some x =>
    if (s.graph e.slot).any fun g => g.ctx != e.ctx then stBadContext
    else
      match (s.buffer e.ctx e[2] len).bind fun va => s.harbourRead e.ctx va len with
      | none => stBadHandle
      | some (_, bs) =>
        if s.slotInUse e.slot then stBusy
        else if !s.graphSigned (headerOf bs) v then stBadSignature
        else if !graphWhole (headerOf bs) (digestOf bs) body len || !img.consistent then stBadImage
        else if img.cores.any fun c => 1200 ≤ c || !s.inPart x.part (c / 150) then stPartition
        else if !s.snapMapped e.ctx img then stSnapUnmapped
        else stOk

/-- GRAPH_STORE (R363): it completes once no mooring is bound to the slot's previous image. `img` is what Harbour reads from the object's body,
whose layout is Grinomen's, `body` its SHA-384, and `v` what its signatures say (log 81). With LEN 0 there is nothing to store, and it succeeds (R16). -/
def execGraphStore (q : QueueId) (img : ImageHeader) (body : BitVec 384) (v : Signatures) (s : State) : Out :=
  .next (
    match (s.queue q).running with
    | some r =>
      if r.entry.op != opGraphStore || !(s.boundWhere (· == r.entry.slot)).isEmpty then s
      else
        match s.graph r.entry.slot with
        | some g => s.finishRunning q stOk (storeResults g.img).1 (storeResults g.img).2
        | none => s
    | none => s.runHead q opGraphStore fun s e =>
      let len := fld e[3] 31 0
      let st := if 0x40000000 < len then stLength else if len = 0 then stOk else s.storeStatus e img body v
      if st != stOk || len = 0 then s.complete q st 0#64 0#64
      else
        let bound := !(s.boundWhere (· == e.slot)).isEmpty
        let g : Graph := { ctx := e.ctx, img := img, live := initialBlock img }
        let s := (s.unbindWhere (· == e.slot)).updHb fun y => { y with graphs := mapSet e.slot g y.graphs }
        if bound then s.startHead q 0 else s.complete q stOk (storeResults img).1 (storeResults img).2)

/-- GRAPH_DROP (R364): it completes once the slot's moorings are unbound. -/
def execGraphDrop (q : QueueId) (s : State) : Out :=
  .next (
    match (s.queue q).running with
    | some r =>
      if r.entry.op != opGraphDrop || !(s.boundWhere (· == r.entry.slot)).isEmpty then s else s.finishRunning q stOk 0#64 0#64
    | none => s.runHead q opGraphDrop fun s e =>
      if (s.graph e.slot).isNone then s.complete q stNoGraph 0#64 0#64
      else if s.slotInUse e.slot then s.complete q stBusy 0#64 0#64
      else
        let bound := !(s.boundWhere (· == e.slot)).isEmpty
        let s := (s.unbindWhere (· == e.slot)).updHb fun y => { y with graphs := mapErase e.slot y.graphs }
        if bound then s.startHead q 0 else s.complete q stOk 0#64 0#64)

/-! ### PARAM_PATCH (R343, R365) -/

/-- A record of a patch list. -/
structure PatchRec where
  point : Nat
  size : Nat
  value : List Byte
  clean : Bool
deriving DecidableEq, Repr

/-- The records of a patch list in order, and whether the list is whole: it is not when a record runs past the end or fewer than 8 bytes are
left over. A record that is cut short is given with the bytes that are there. -/
def patchRecords : Nat → List Byte → List PatchRec × Bool
  | 0, _ => ([], false)
  | fuel + 1, bs =>
    if bs.isEmpty then ([], true)
    else if bs.length < 8 then ([], false)
    else
      let w := leNat (bs.take 8)
      let size := nbits w 16 13
      let room := (size + 7) / 8 * 8
      let body := bs.drop 8
      let pad := (body.take room).drop size
      let r : PatchRec :=
        { point := nbits w 0 16, size := size, value := body.take size, clean := w < 2 ^ 29 && pad.all (· == 0#8) }
      if body.length < room then ([r], false)
      else
        let t := patchRecords fuel (body.drop room)
        (r :: t.1, t.2)

/-- The patch point that a record names, with the bytes it stores: those of a RESOLVE point are its handle's VA. -/
def State.patchValue (s : State) (g : Graph) (r : PatchRec) : Option (List Byte) :=
  match g.img.points[r.point]? with
  | some p =>
    if p.resolve && r.size = 8 then (s.handle g.ctx (word (leNat r.value))).map fun x => leBytes 8 x.1 else some r.value
  | none => some r.value

def patchFits (g : Graph) (r : PatchRec) : Bool := (g.img.points[r.point]?.map PatchPoint.size) = some r.size

/-- Writes a value into the live block. -/
def patchBlock (img : ImageHeader) (block : List Byte) (r : PatchRec × List Byte) : List Byte :=
  match img.points[r.1.point]? with
  | some p => block.take p.offset ++ r.2 ++ block.drop (p.offset + r.2.length)
  | none => block

/-- PARAM_PATCH (R343, R365): every value or none. -/
def execParamPatch (q : QueueId) (s : State) : Out :=
  .next (s.runHead q opParamPatch fun s e =>
    let len := fld e[3] 31 0
    let bad (st : Nat) : State := s.complete q st 0#64 0#64
    if 0x100000 < len then bad stLength
    else
      match s.graph e.slot with
      | none => bad stNoGraph
      | some g =>
        if len = 0 then bad stOk
        else
          match (s.buffer g.ctx e[2] len).bind fun va => s.harbourRead g.ctx va len with
          | none => bad stBadHandle
          | some (s, bs) =>
            let (rs, whole) := patchRecords (len / 8 + 1) bs
            let vs := rs.map fun r => (r, s.patchValue g r)
            if rs.any fun r => !r.clean then s.complete q stReserved 0#64 0#64
            else if !whole then s.complete q stLength 0#64 0#64
            else if vs.any fun x => x.2.isNone then s.complete q stBadHandle 0#64 0#64
            else if rs.any fun r => !patchFits g r then s.complete q stBadPoint 0#64 0#64
            else
              let live := (vs.map fun x => (x.1, x.2.getD [])).foldl (patchBlock g.img) g.live
              let s := s.updHb fun y => { y with graphs := mapSet e.slot { g with live := live } y.graphs }
              s.complete q stOk (word rs.length) 0#64)

/-! ### The end of a launch (R340, R252, R335, R417) -/

/-- Stops the engines of a core of a failed launch; what the core waits for of them or of a fault record is over. Descriptors that have ended,
and a sink that waits for its ferry's report, keep the records that they are due (R139, R322). -/
def State.stopEngines (s : State) (c : CoreId) : State :=
  s.updCore c fun x =>
    { x with
      mx := { x.mx with seq := none, drains := Vector.replicate 2 none, restores := Vector.replicate 2 none, discardWait := false }
      ew := { x.ew with
        queue := []
        job := x.ew.job.filter fun j => j.sinking && x.streams.any fun t => t.2.items.any fun i => i.sink.isSome && i.phase = .ended }
      streams := x.streams.map fun t => (t.1, { t.2 with items := t.2.items.filter fun i => i.phase = .ended })
      sc := { x.sc with run := if x.sc.run = .quarantined || x.sc.run = .waiting then x.sc.run else .running } }

/-- Takes a core and its streams off every fault record and every ferry (R308). -/
def State.dropWaiters (s : State) (c : CoreId) : State :=
  (s.dropWaitersWhere fun w => w.cls != clsStraitWaiter && w.core = c.val).updIsle (isleOf c) fun x =>
    { x with ferries := x.ferries.filter fun f => f.2.core != c.val }

/-- Harbour begins to wait for every slot of a core that is not EMPTY (R351; log 74). -/
def State.awaitSlots (s : State) (c : CoreId) : State :=
  (List.range 8).foldl (fun s m =>
    if (s.sc c).mooringState m = mEmpty then s else s.setMooring c m { s.mooring c m with since := s.tide }) s

/-- Stops a core of a failed launch (R340): its lagoon is filled once its slots are EMPTY, and it is free only then (R351; log 74). -/
def State.freeCore (s : State) (c : CoreId) : State :=
  let s := ((s.stopEngines c).dropWaiters c).awaitSlots c
  (s.updHb fun h => { h with unclean := addOnce c.val h.unclean }).cleanCore c

/-- The state of every trained port (Table 13.5): COASTING while a stopped launch's runs are loaded on it, SCHEDULED while others are,
and otherwise IDLE. -/
def State.settlePorts (s : State) : State :=
  let claims := s.hb.launches.flatMap fun l =>
    match s.image l.2 with
    | some h => (l.2.loaded h).flatMap fun r => r.2.uses.map fun u => (u.1, l.2.stopped)
    | none => []
  let next (i : Nat) : BitVec 3 := if claims.contains (i, true) then 4#3 else if claims.contains (i, false) then 3#3 else 2#3
  { s with strait := { s.strait with ports := s.strait.ports.mapFinIdx fun i p _ =>
      if p.state = 2#3 || p.state = 3#3 || p.state = 4#3 then { p with state := next i } else p } }

/-- The windows that launch `k` armed belong to no launch any more. -/
def Isle.forget (x : Isle) (k : Nat) : Isle :=
  let f (w : Window) : Window := if w.launch = some k then { w with launch := none } else w
  { x with windows := x.windows.map fun w => (w.1, f w.2) }

/-- Ends launch `k` (R340): its record and snapshot slot are free, a failed one's cores are freed, and its completion is posted
(Table 11.3). -/
def State.endLaunch (s : State) (k : Nat) : State :=
  match s.launch k with
  | none => s
  | some l =>
    let failed := l.failure.isSome
    let q : QueueId := Fin.ofNat 6 l.queue
    let s := s.dropWaitersWhere fun w => w.cls = clsStraitWaiter && w.core = k
    let s := if failed then
        (l.cores.foldl (fun s c => s.freeCore (coreOf c)) s).updHb fun h => { h with freeing := h.freeing ++ [l.cores] }
      else s
    let s := s.settleSets
    let s := s.updHb fun h => { h with launches := mapErase k h.launches }
    let s := { s with isles := s.isles.map fun (x : Isle) => x.forget k }
    let s := s.settlePorts
    let s := if failed then s.updQueue q fun x => { x with failedSince := true } else s
    let r1 := (l.failure.map Failure.result).getD 0#64
    (s.postCompletion q (completion q l.tag opGraphLaunch (if failed then stLaunchFailed else stOk) l.seq l.id r1 l.srTide
      l.dispatchTide s.tide l.timing.word)).step1 q

/-- Whether a core's engines and streams have completed all they were given. -/
def State.coreIdle (s : State) (c : CoreId) : Bool :=
  let x := s.core c
  x.mx.seq.isNone && x.mx.drains.toList.all Option.isNone && x.mx.restores.toList.all Option.isNone && x.ew.queue.isEmpty &&
  x.ew.job.isNone && x.streams.all fun t => t.2.items.all fun i => i.phase = .ended

/-- Whether a launch has completed all that it started (R340); one that spans devices has also ended its last phase (log 50). -/
def State.launchComplete (s : State) (l : Launch) (h : ImageHeader) : Bool :=
  (l.cores.all fun c => l.done.contains c && s.coreIdle (coreOf c)) && (l.loaded h).all l.runDone &&
  (!spans h || decide (h.phases.length ≤ l.phase))

/-- LAUNCH_END (R340): a failed launch that does not coast ends, and so does one whose work has completed. -/
def execLaunchEnd (launch : BitVec 6) (s : State) : Out :=
  .next (
    match s.launch launch.toNat with
    | none => s
    | some l =>
      if !s.harbourRuns || l.stop.isSome then s
      else if l.failure.isSome then s.endLaunch launch.toNat
      else
        match s.image l with
        | some h => if s.launchComplete l h then s.endLaunch launch.toNat else s
        | none => s)

/-! ### Dispatch (R338, R342-R346, R406, R409, R415, R457) -/

/-- Whether a core is unavailable (R457): withdrawn, or of an isle whose margin is short at the guaranteed frequency (R438). -/
def State.unavailable (s : State) (c : CoreId) : Bool := (s.core c).health.withdrawn || (s.isle (isleOf c)).heat.worn

/-- Whether a core is free for a launch (R338): no launch holds it, it is not quarantined or in self-test (R455), it is in service mode, and
no failed launch's core set that is yet to be filled holds it (R340). -/
def State.coreFree (s : State) (c : CoreId) : Bool :=
  (s.launchOfCore c.val).isNone &&
  (s.unavailable c || (!(s.core c).health.testing && (s.sc c).run != .quarantined && (s.sc c).opmode = opService &&
    !s.hb.unclean.contains c.val && !s.hb.freeing.any fun set => set.contains c.val))

/-- The core set of a queue's head, when that is a GRAPH_LAUNCH. -/
def State.headCores (s : State) (q : QueueId) : List Nat :=
  match s.front q with
  | some e =>
    if e.op = opGraphLaunch && !e.reserved then
      match s.graph e.slot with
      | some g => g.img.cores
      | none => []
    else []
  | none => []

/-- The cores awaited by the heads of the queues above `q`: a head that itself meets cores awaited above it awaits none (R338). -/
def State.awaited (s : State) (q : QueueId) : List Nat :=
  ((List.finRange 6).filter fun p => p.val < q.val).foldl (fun reserved p =>
    let c := s.headCores p
    if c.any reserved.contains then reserved else reserved ++ c) []

/-- The lowest free snapshot slot of a graph (R344). -/
def State.freeSnap (s : State) (slot : Nat) (h : ImageHeader) : Option Nat :=
  (List.range h.snapSlots).find? fun k => !s.hb.launches.any fun l => l.2.slot = slot && l.2.snapSlot = k

/-- Whether every resource that graph `g` needs is free for queue `q` (R338). -/
def State.launchFits (s : State) (q : QueueId) (slot : Nat) (g : Graph) : Bool :=
  (g.img.cores.all fun c => s.coreFree (coreOf c) && !(s.awaited q).contains c) &&
  (s.freeSnap slot g.img).isSome && (mapFree 64 s.hb.launches).isSome && s.ringRoom q

/-- Whether the head of queue `q` is a GRAPH_LAUNCH that could be dispatched now. -/
def State.headFits (s : State) (q : QueueId) : Bool :=
  match s.head q with
  | some e =>
    e.op = opGraphLaunch && !e.reserved &&
      match s.graph e.slot with
      | some g => s.launchFits q e.slot g
      | none => false
  | none => false

/-- Whether nothing keeps queue `q` from dispatching graph `g` (R338): heads are evaluated from Q0 upward, so one above `q` that could be
dispatched goes first. -/
def State.mayDispatch (s : State) (q : QueueId) (slot : Nat) (g : Graph) : Bool :=
  s.launchFits q slot g && (List.finRange 6).all fun p => !(decide (p.val < q.val) && s.headFits p)

/-- Detail of a STRAIT failure (Table 15.3). -/
def straitDetail (reason rank port : Nat) : BitVec 56 := detail [(reason, 48), (rank, 32), (port, 0)]

/-- What the checks of R406 find for the runs that a launch would load: reason and port. -/
def State.straitCheck (s : State) (l : Launch) (h : ImageHeader) (block : List Byte) : Option (Nat × Nat) :=
  let mine := (l.loaded h).map Prod.snd
  let ports := (mine.flatMap fun r => r.uses.map fun u => u.1).eraseDups
  let others := s.hb.launches.flatMap fun x =>
    match s.image x.2 with
    | some h => (x.2.loaded h).map Prod.snd
    | none => []
  let conflict := ports.find? fun p => mine.any fun r => others.any fun o =>
    r.slotmask &&& o.slotmask != 0#32 && r.uses.any fun u => o.uses.any fun v => u.1 = p && v.1 = p && u.2.1 = v.2.1
  let state (p : Nat) : BitVec 3 := (s.port (Fin.ofNat 12 p)).state
  match conflict with
  | some p => some (0x11, p)
  | none =>
    match ports.find? fun p => state p != 2#3 && state p != 3#3 with
    | some p => some (0x12, p)
    | none =>
      match h.pointValue h.neighboursPoint block with
      | none => none
      | some n =>
        (ports.find? fun p => nbits n (64 * p) 64 != (s.port (Fin.ofNat 12 p)).neighbour.toNat).map fun p => (0x13, p)

/-- The launch record header of Table 11.6, and the slot's header and block areas (R344). -/
def snapshotBytes (l : Launch) (blockLen : Nat) (live : List Byte) : List Byte :=
  let origin := l.slot * 2 ^ 48 + l.queue * 2 ^ 32 + l.seq.toNat
  let head := leBytes 8 l.id.toNat ++ leBytes 8 l.srTide.toNat ++ leBytes 8 l.dispatchTide.toNat ++ leBytes 8 l.startTick.toNat ++
    leBytes 8 origin ++ leBytes 8 blockLen
  head ++ List.replicate (0x10000 - head.length) 0#8 ++ live ++ List.replicate (0x10000 - live.length) 0#8

/-- A launch as it is dispatched, from its queue's head. -/
def State.newLaunch (s : State) (q : QueueId) (e : Entry) (seq : BitVec 32) (g : Graph) (snap first base : Nat) : Launch :=
  let h := g.img
  { id := s.hb.nextLaunch, slot := e.slot, ctx := g.ctx, queue := q.val, seq := seq, tag := e.tag
    deterministic := h.deterministic, gfreq := guaranteedMhz s.power.profile
    srTide := if e[1].getLsbD 0 then s.tide else e[2]
    dispatchTide := s.tide
    startTick := if spans h then 0#64 else s.tide + word h.lead
    agreed := !spans h, snapSlot := snap, cores := h.cores, posted := [], done := []
    key := word ((h.pointValue h.keyPoint g.live).getD 0)
    first := first, phase := first, base := base, offset := 0, phaseSlips := 0, voted := [], starts := [], votes := [], sampled := false
    outcome := none, stop := none, ownStop := none, stopped := false, unloaded := false, flits := [], rx := [], lines := [], heldRx := []
    mark := none
    timing := { boost := false, wake := false, throttle := 0#8, retries := 0, duty := 0, slip := 0 }
    failure := none }

/-- The phase that a launch begins with (R415): `none` for a resume point that names no MARK phase. -/
def firstPhase (h : ImageHeader) (block : List Byte) : Option Nat :=
  match h.pointValue h.resumePoint block with
  | none => some 0
  | some v =>
    if v = 0xffffffff then some 0
    else
      match h.phase v with
      | some p => if p.mark then some (v + 1) else none
      | none => none

/-- The isles of a launch's cores are active again before dispatch, and before a work item is posted (R440, R441). -/
def State.wakeIsles (s : State) (cores : List Nat) : State :=
  { s with isles := s.isles.mapFinIdx fun i x _ =>
      if (cores.any fun c => c / 150 = i) && x.idle != 0 then { x with idle := 0, idleSince := s.tide } else x }

/-- Each device sends START toward rank 0 after the checks of R406; rank 0 collects its own (R409). -/
def State.sendStart (s : State) (k : Nat) (l : Launch) (h : ImageHeader) : State :=
  let tick := s.tide + word h.lead
  if h.rank = 0 then s.collectStart k h 0#10 tick
  else s.toRank0 h (mkCell cellStart l.key tick h.rank (h.uid.setWidth 128))

/-- Dispatches the head of queue `q` (R338, R344). -/
def State.dispatch (s : State) (q : QueueId) (e : Entry) (g : Graph) (snap k : Nat) : State :=
  let h := g.img
  let seq := (s.queue q).started
  let first := firstPhase h g.live
  let f := first.getD 0
  let base := if f = 0 then 0 else ((h.phase f).map PhaseEntry.s).getD 0
  let l := s.newLaunch q e seq g snap f base
  let strait := s.straitCheck l h g.live
  let s := s.wakeIsles h.cores
  let s := s.setQueue q { (s.queue q).free seq with started := seq + 1#32 }
  let s := (s.updHb fun y => { y with nextLaunch := y.nextLaunch + 1#64 }).setLaunch k l
  let s := s.trace 1 (BitVec.ofNat 16 q.val) 1#16 l.id (word e.slot)
  let gone := h.cores.filter fun c => s.unavailable (coreOf c)
  let snapped := s.harbourWrite g.ctx (h.snapVa snap) (snapshotBytes l h.blockLen g.live)
  let fail (s : State) (cls : BitVec 8) (d : BitVec 56) : State := s.failLaunch k cls d false
  let setup (s : State) (n : Nat) : State := fail s clsSetup (detail [(n, 48)])
  let s := match snapped with
    | some s => s
    | none => setup s 1
  let s := if h.hasMark && !s.presentAll g.ctx h.markLog.toNat (32 * h.markSlots) then setup s 2 else s
  let s := if first.isNone then setup s 3 else s
  let s := match gone with
    | c :: _ => fail s clsSetup (detail [(4, 48), (c, 0)])
    | [] => s
  let s := match strait with
    | some (r, p) => fail s clsStrait (straitDetail r h.rank p)
    | none => s
  match s.launch k with
  | none => s
  | some l' =>
    if l'.failure.isSome || h.phases.length ≤ f then (s.endLaunch k).step1 q
    else
      let s := s.settlePorts
      let s := if spans h then (s.sendStart k l h).releaseHeld k h l.key else s
      s.step1 q

/-- Whether Harbour refuses a GRAPH_LAUNCH at its queue head with the SAFETY class (R447, R451): the detail. -/
def State.launchRefused (s : State) : Option (BitVec 56) :=
  if s.lh.clamp != 0 then some (s.lh.code.setWidth 56) else if s.lh.fault then some 0#56 else none

/-- GRAPH_LAUNCH at the head of its queue (R338, R364, R447, R451): it waits for its dispatch unless Harbour ends it here. -/
def execGraphLaunch (q : QueueId) (s : State) : Out :=
  .next (s.runHead q opGraphLaunch fun s e =>
    match s.launchRefused with
    | some d => (s.updQueue q fun x => { x with failedSince := true }).complete q stLaunchFailed 0#64 (failWord clsSafety d)
    | none => if (s.graph e.slot).isNone then s.complete q stNoGraph 0#64 0#64 else s)

/-- DISPATCH (R338): the GRAPH_LAUNCH at the head of a queue, once all it needs is free. -/
def execDispatch (q : QueueId) (s : State) : Out :=
  .next (s.runHead q opGraphLaunch fun s e =>
    if s.launchRefused.isSome then s
    else
      match s.graph e.slot with
      | none => s
      | some g =>
        match s.freeSnap e.slot g.img, mapFree 64 s.hb.launches with
        | some snap, some k => if s.mayDispatch q e.slot g then s.dispatch q e g snap k else s
        | _, _ => s)

/-! ### Work items and moorings (R347-R351) -/

/-- Converts the ways that a launch declares to scratch (R246): their modified lines are written back, they are invalid and zeroed; ways
returned to the cache come back invalid. -/
def State.convertWays (s : State) (c : CoreId) (w : Nat) : State :=
  let old := (s.sc c).scratchW
  if old = w then s
  else
    let taken (i : Nat) : Bool := decide (8 ≤ i + w)
    let lines := (s.sc c).l1.flatMap fun t => t.2.ways.toList.zipIdx.filterMap fun y => if taken y.2 then y.1 else none
    let s := lines.foldl (fun s y => s.writeBack c y) s
    s.updSc c fun x =>
      { x with
        scratchW := w
        scratch := zeroBytes x.scratch (8192 * min old w) (8192 * 4)
        scratchBad := x.scratchBad.filter fun b => decide (b < 1024 * min old w)
        l1 := x.l1.map fun t => (t.1, { t.2 with ways := t.2.ways.mapFinIdx fun i y _ => if taken i then none else y }) }

/-- Writes a work item with the launch's START_TICK (R409) into slot `m` (Table 11.7), POSTED last, and asks for the core's wake tokens (R435). -/
def State.postSlot (s : State) (c : CoreId) (m k : Nat) (l : Launch) (h : ImageHeader) : State :=
  let x := s.sc c
  let posts := fld (x.mooringWord m 0) 63 32 + 1
  let a (w : Nat) : Nat := mooringAddr m w
  let lag := writeNat x.lagoon (a 2) 8 l.id.toNat
  let lag := writeNat lag (a 3) 8 (h.snapVa l.snapSlot)
  let lag := writeNat lag (a 4) 8 l.startTick.toNat
  let lag := writeNat lag (a 5) 8 (h.taskOf c.val).2.toNat
  let lag := writeNat lag (a 0) 8 (posts % 2 ^ 32 * 2 ^ 32 + l.slot * 2 ^ 16 + mPosted.toNat)
  let s := s.setSc c { x with lagoon := lag, lagoonBad := stillBad x.lagoonBad (a 0) 48 }
  let s := s.setMooring c m { s.mooring c m with lastPost := s.tide }
  let s := s.setLaunch k { l with posted := addOnce c.val l.posted }
  let s := (s.wantPoint c (s.pointFor c l)).noteBoosts.noteThrottle (isleOf c)
  s.trace 1 (BitVec.ofNat 16 c.val) 2#16 l.id (word m)

/-- Writes BIND to an EMPTY slot for the graph's task. -/
def State.bindSlot (s : State) (c : CoreId) (m : Nat) (l : Launch) (h : ImageHeader) : State :=
  let x := s.sc c
  let lag := zeroBytes x.lagoon (mooringAddr m 0) 64
  let lag := writeNat lag (mooringAddr m 1) 8 (h.taskOf c.val).1.toNat
  let lag := writeNat lag (mooringAddr m 0) 8 (l.slot * 2 ^ 16 + mBind.toNat)
  (s.setSc c { x with lagoon := lag, lagoonBad := stillBad x.lagoonBad (mooringAddr m 0) 64 }).setMooring c m { graph := some l.slot, lastPost := 0#64, since := s.tide }

/-- The IDLE slot whose last work item was posted longest ago. -/
def State.oldestIdle (s : State) (c : CoreId) : Option Nat :=
  ((s.sc c).slotsIn mIdle).foldl (fun a m =>
    match a with
    | none => some m
    | some b => if (s.mooring c m).lastPost < (s.mooring c b).lastPost then some m else a) none

/-- Posts in the graph's IDLE slot, or binds one; an UNBIND or BIND that is under way is awaited (R349). -/
def State.postOrBind (s : State) (c : CoreId) (k : Nat) (l : Launch) (h : ImageHeader) : State :=
  let x := s.sc c
  match (List.range 8).find? fun m => (s.mooring c m).graph = some l.slot && x.mooringState m != mUnbind with
  | some m => if x.mooringState m = mIdle then s.postSlot c m k l h else s
  | none =>
    match x.slotsIn mEmpty with
    | m :: _ => s.bindSlot c m l h
    | [] =>
      if !(x.slotsIn mUnbind).isEmpty then s
      else
        match s.oldestIdle c with
        | some m => s.unbind c m
        | none => s

/-- WORK_ITEM_POST (R349, R351): a core of another context is first unbound and filled; its CTXID and scratch ways are set; and the
work item is posted at least 64 ticks before its START_TICK. -/
def execWorkItemPost (launch : BitVec 6) (c : CoreId) (s : State) : Out :=
  .next (
    match s.launch launch.toNat with
    | none => s
    | some l =>
      match s.image l with
      | none => s
      | some h =>
        if !s.powered || !s.harbourRuns || !l.cores.contains c.val || l.posted.contains c.val || !l.agreed || l.failure.isSome ||
            l.stop.isSome || l.startTick < s.tide + 64#64 then s
        else
          let s := s.wakeIsles [c.val]
          if mapFind c.val s.hb.lastCtx != some l.ctx then
            let bound := (List.range 8).filter fun m => (s.sc c).mooringState m != mEmpty
            if !bound.isEmpty then bound.foldl (fun s m => s.unbind c m) s
            else
              let s := ((s.convertWays c h.scratchW).fillLagoon c).updSc c fun x => { x with ctxid := BitVec.ofNat 12 l.ctx }
              (s.updHb fun y => { y with lastCtx := mapSet c.val l.ctx y.lastCtx }).postOrBind c launch.toNat l h
          else
            ((s.convertWays c h.scratchW).updSc c fun x => { x with ctxid := BitVec.ofNat 12 l.ctx }).postOrBind c launch.toNat l h)

/-- A core in WAIT goes on once an enabled line is pending (R233). -/
def State.endWait (s : State) (c : CoreId) : State :=
  if (s.sc c).run = .waiting && s.irqEnabled c && s.clocked c then s.updSc c fun x => { x with run := .running } else s

/-- MOORING (R350): the tide has reached the START_TICK of a POSTED slot: the line, which the slot's state and the tide give, is asserted
and ends the core's WAIT; a core without its wake tokens takes it late, which TIMING.WAKE reports (R435). -/
def execMooring (c : CoreId) (s : State) : Out :=
  .next (
    if !mooringLine s (s.sc c) then s
    else if (s.core c).pw.want.isSome then
      match s.launchOfCore c.val with
      | some (k, l) => s.setLaunch k { l with timing := { l.timing with wake := true } }
      | none => s
    else s.endWait c)

/-- MOORING_WRITE (R347, R348, R350): the core's own write of word 0 of a slot, which Harbour checks. -/
def execMooringWrite (c : CoreId) (slot : BitVec 3) (v : Word) (s : State) : Out :=
  .next (s.issue c alwaysGuard false fun s =>
    let o := mooringAddr slot.toNat 0
    if s.engineHolds c o 8 then .hold s else .done (s.storeLagoon c o (leBytes 8 v.toNat)))

/-- Puts the registers of Table 6.3 back to their reset values (R351), with MODE as a core starts, so that the core takes no work until its
monitor firmware has brought it to service mode again (log 74). The matrix banks and every other unit stay as they are (R90). -/
def State.resetCore (s : State) (c : CoreId) : State :=
  let z := Core.reset
  s.updCore c fun x =>
    { x with
      sc := { x.sc with g := z.sc.g, p := z.sc.p, c := z.sc.c, pc := z.sc.pc, priv := z.sc.priv, opmode := z.sc.opmode, run := z.sc.run }
      vec := { x.vec with v := z.vec.v, k := z.vec.k } }

/-- MOORING_TIMEOUT (R349, R351): a slot that is not IDLE 20 µs after BIND, or not EMPTY 20 µs after UNBIND, quarantines the core. When
the core was to change its context or be filled, a slot in any state that has not reached EMPTY in that time resets it, its moorings are
cleared, and a fill that waited for them takes place. -/
def execMooringTimeout (c : CoreId) (slot : BitVec 3) (s : State) : Out :=
  .next (
    let m := slot.toNat
    let st := (s.sc c).mooringState m
    let fill := s.hb.unclean.contains c.val
    let change := fill || match s.launchOfCore c.val with
      | some (_, l) => mapFind c.val s.hb.lastCtx != some l.ctx
      | none => false
    let stuck := st = mBind || st = mUnbind
    if !s.harbourRuns || !(stuck || (change && st != mEmpty)) || !s.passedUs (s.mooring c m).since 20 then s
    else
      let pc := (s.sc c).pc
      let s := if change then s.resetCore c else s
      let s := if stuck then s.quarantine c clsCore (coreDetail 0xff c pc) 0#64 else s
      let s := (List.range 8).foldl (fun s m => s.harbourMooring c m mEmpty) s
      let s := s.updHb fun h => { h with moorings := h.moorings.filter fun x => x.1 / 8 != c.val }
      if fill then s.fillLagoon c else s)

end Sys2Proof.Machine
end

