-- ==== Sys2Proof/Machine/Power.lean ====
section
/-! DEFINITION. Meanings of the power and thermal commands (ch. 14), and the stacks' heat (R288). -/

namespace Sys2Proof.Machine

/-! ### What holds the cores' frequency -/

/-- The point that core `c` is to run at: its launch's once it has a work item, and otherwise its own, as far as its isle's ceiling allows
it (R423, R424). -/
def State.targetPoint (s : State) (c : CoreId) : Nat :=
  let own := min (s.core c).pw.point (s.ceilingPoint (isleOf c))
  match s.launchOfCore c.val with
  | some (_, l) => if l.posted.contains c.val then s.pointFor c l else own
  | none => own

/-- Brings core `c` to its point (R423, R424, R434): none while its clock is stopped; a rise goes through the wake governor, and one that is
no longer asked for is dropped. -/
def State.settleCore (s : State) (c : CoreId) : State :=
  let x := (s.core c).pw
  if !s.clockFree c then
    if x.point = 0 && x.want.isNone then s else s.updCore c fun y => { y with pw := { y.pw with point := 0, want := none } }
  else
    let t := s.targetPoint c
    if x.point = t && x.want.isNone then s else s.wantPoint c t

/-- Settles cores in order. -/
def State.settleCores (s : State) (cs : List CoreId) : State := cs.foldl State.settleCore s

/-- Codes of trace ring 3 (log 40): grants, duty patterns, ceilings, wake waits. -/
def traceGrant : BitVec 16 := 1#16
def traceDuty : BitVec 16 := 2#16
def traceCeiling : BitVec 16 := 3#16
def traceWake : BitVec 16 := 4#16

/-! ### Sharing the cap (R426-R428) -/

/-- Shares by ORDER's code: links, memory, compute. -/
def Shares.at (x : Shares) (k : Nat) : Nat := if k = 0 then x.links else if k = 1 then x.memory else x.compute

def Shares.add (x : Shares) (k n : Nat) : Shares :=
  if k = 0 then { x with links := x.links + n }
  else if k = 1 then { x with memory := x.memory + n }
  else { x with compute := x.compute + n }

/-- The grants before ORDER takes the rest: each share's demand up to its floor, links at least the base draw; what is left, and a
lack of it taken off compute (R427). -/
def firstGrants (cap base : Nat) (d f : Shares) : Shares × Nat :=
  let l := max (min d.links f.links) base
  let m := min d.memory f.memory
  let c := min d.compute f.compute
  let left : Int := (cap : Int) - l - m - c
  if left < 0 then ({ links := l, memory := m, compute := ((c : Int) + left).toNat }, 0)
  else ({ links := l, memory := m, compute := c }, left.toNat)

/-- One turn of ORDER: a share takes what it still demands from the rest. -/
def grantTurn (d : Shares) (a : Shares × Nat) (k : Nat) : Shares × Nat :=
  let add := min (d.at k - a.1.at k) a.2
  (a.1.add k add, a.2 - add)

/-- The grants of a duty window (R427). -/
def grants (cap base : Nat) (order : BitVec 6) (d f : Shares) : Shares :=
  ([0, 2, 4].foldl (fun a i => grantTurn d a ((order >>> i) &&& 3#6).toNat) (firstGrants cap base d f)).1

/-- A frequency ceiling as an operating point: a multiple of 100 MHz from 800 to 3300. -/
def opPoint (mhz : Nat) : Nat := opFloor (max 800 (min 3300 mhz))

/-- Index of the current duty window in its group (R430). -/
def State.windowIndex (s : State) : Nat := s.tide.toNat / 1024 % 16

/-- The pattern that gates core `c`: its class's, and 15 on an isle whose junction has reached 102 °C (R431, R433). -/
def State.patternOf (s : State) (c : CoreId) : Nat :=
  let det := match s.launchOfCore c.val with
    | some (_, l) => l.deterministic
    | none => false
  if 2 ≤ (s.isle (isleOf c)).heat.junctionStep then 15 else if det then s.power.dutyDet else s.power.duty

/-- Begins or ends a core's gated window; each gated window is counted (R430). -/
def State.gateCore (s : State) (c : CoreId) : State :=
  let g := s.patternOf c
  let on := decide (16 ≤ s.windowIndex + g)
  let x := (s.core c).pw
  if !on && !x.gated then s
  else s.updCore c fun y => { y with pw := { y.pw with gated := on, dutyCnt := if on then satInc y.pw.dutyCnt else y.pw.dutyCnt } }

/-- Counts the window with every launch that has a gated core. -/
def State.countDuty (s : State) : State :=
  s.updHb fun h => { h with launches := h.launches.map fun x =>
    if (x.2.cores.any fun c => (s.core (coreOf c)).pw.gated) then
      (x.1, { x.2 with timing := { x.2.timing with duty := x.2.timing.duty + 1 } })
    else x }

/-- The ageing step of an isle at a window boundary (R438): 2.5 mV at most once an hour; at its limit the boost ceiling falls. -/
def State.ageIsle (s : State) (i : IsleId) : State :=
  let h := (s.isle i).heat
  if !h.ageingDue || (match h.ageingAt with
    | some t => decide (s.since t < 3600 * second)
    | none => false) then s
  else
    let s := s.updIsle i fun x => { x with heat := { x.heat with ageing := x.heat.ageing + 1, ageingAt := some s.tide, ageingDue := false } }
    { s with flash := { s.flash with ageing := mapSet i.val (h.ageing + 1) s.flash.ageing } }

/-- A residue mismatch in ballast on core `c` (R437): a hardware fault of the core. -/
def State.ballastFault (s : State) (c : CoreId) : State :=
  s.quarantine c clsCheck (detail [(4, 48), (c.val, 32)]) 0#64

/-- The draws of the windows of the last second, this one's last. -/
def State.noteDraw (s : State) (w : Nat) : State :=
  { s with power := { s.power with draws := (s.power.draws.filter fun x => s.since x.1 < second) ++ [(s.tide, w)] } }

/-- DUTY_WINDOW (R427, R428, R430, R437): at a duty-window boundary the shares take their grants, ageing steps are made, and gated windows
begin and end; cores that go on rise under the wake governor. A core whose ballast showed a residue mismatch in the window before is
quarantined (log 115). -/
def execDutyWindow (r : PowerReading) (s : State) : Out :=
  .next (
    if !s.powered || !s.harbourRuns || s.tide.toNat % 1024 != 0 then s
    else
      let d : Shares := { links := r.demandLinks, memory := r.demandMemory, compute := r.demandCompute }
      let g := grants s.power.capEff r.base s.power.order d s.power.floorsNow
      let ceil := if d.compute ≤ g.compute then 3300 else opPoint r.ceiling
      let s := { s with power := { s.power with demand := d, grant := g, ceiling := ceil } }
      let s := (s.noteDraw r.draw)
      let s := s.trace 3 0#16 traceGrant (word (g.links + g.memory * 2 ^ 16 + g.compute * 2 ^ 32)) (word ceil)
      let s := (List.finRange 8).foldl State.ageIsle s
      let s := (allCores.foldl State.gateCore s).countDuty
      r.ballast.foldl State.ballastFault (s.settleCores allCores))

/-! ### Duty groups and an unreachable cap (R430-R432) -/

/-- The next pattern of a class: up to what is needed, down by at most 1 (R430). -/
def nextPattern (g need : Nat) : Nat := if g < need then need else if need < g then g - 1 else g

/-- PWREVT.DUTY on the cores of a class whose gating begins. -/
def State.dutyBegan (s : State) (det : Bool) : State :=
  allCores.foldl (fun s c =>
    let mine := match s.launchOfCore c.val with
      | some (_, l) => l.deterministic
      | none => false
    if mine = det then s.powerEvent evDuty c else s) s

/-- DUTY_GROUP (R430-R432): at a group boundary the patterns follow the last group's measurement; deterministic cores are gated only
while the others stand at 15; a group whose mean exceeds the cap with every class that has cores at 15 is unmet. -/
def execDutyGroup (need needDet : BitVec 4) (mean : Nat) (s : State) : Out :=
  .next (
    if !s.powered || !s.harbourRuns || s.tide.toNat % 16384 != 0 then s
    else
      let p := s.power
      let det := nextPattern p.dutyDet (if need = 15#4 && p.duty = 15 then needDet.toNat else 0)
      let g := if 0 < det then 15 else nextPattern p.duty need.toNat
      let unmet := decide (p.capEff < mean) && p.duty = 15 &&
        (p.dutyDet = 15 || s.hb.launches.all fun x => !x.2.deterministic)
      let s := { s with power :=
        { p with
          duty := g, dutyDet := det
          unmet := if unmet then some (p.unmet.getD (s.tide - 16384#64)) else none
          lastShed := if unmet then p.lastShed else none } }
      let s := s.trace 3 0#16 traceDuty (word g) (word det)
      let s := if p.duty = 0 && 0 < g then s.dutyBegan false else s
      if p.dutyDet = 0 && 0 < det then s.dutyBegan true else s)

/-- Sheds a queue (R432): its dispatched launches fail in the power class, and it halts. -/
def State.shedQueue (s : State) (q : QueueId) : State :=
  let mine := (s.hb.launches.filter fun x => x.2.queue = q.val).map Prod.fst
  let s := mine.foldl (fun s k => s.failLaunch k clsPower (detail [(1, 48)])) s
  let s := s.updQueue q fun x => { x with halted := true }
  let s := { s with power := { s.power with shed := addOnce q.val s.power.shed, lastShed := some s.tide } }
  (s.alarm alarmCap (BitVec.ofNat 16 q.val) (word s.power.capEff)).powerEventAll evShed

/-- Whether it is time to shed: 500 ms of unmet groups, or 100 ms after the last shedding (R432). -/
def State.shedDue (s : State) : Bool :=
  match s.power.unmet, s.power.lastShed with
  | some _, some t => s.passedUs t 100000
  | some t, none => s.passedUs t 500000
  | none, _ => false

/-- CAP_UNREACHABLE (R432): the lowest queue that has dispatched work is shed. -/
def execCapUnreachable (s : State) : Out :=
  .next (
    if !s.powered || !s.harbourRuns || !s.shedDue then s
    else
      match (List.finRange 6).reverse.find? fun q => s.launchesOf q with
      | some q => s.shedQueue q
      | none => s)

/-! ### The thermal top (R420, R421, R512, R513) -/

/-- Whether a record is neither corrupt nor unreadable (R512). -/
def topValid (r : TopRecord) : Bool := r.magic = 0x5054#16 && r.version = 1#8 && r.crcOk

/-- The profile that a read of the record selects: Bench for no valid record, any other kind, or a kind that differs from the straps'
(R420, R513). -/
def State.topProfile (s : State) (r : Option TopRecord) : Nat :=
  match r with
  | some x => if topValid x && x.kind.toNat = s.lh.kind && x.kind.toNat < 4 then x.kind.toNat else 0
  | none => 0

/-- Whether a valid record disagrees with the straps (R513). -/
def State.topDisagrees (s : State) (r : Option TopRecord) : Bool :=
  match r with
  | some x => topValid x && x.kind.toNat != s.lh.kind
  | none => false

/-- The rating of a read record. -/
def topRating (r : Option TopRecord) : Option Nat :=
  match r with
  | some x => if topValid x then some x.ratingW.toNat else none
  | none => none

/-- Floors that a lower limit leaves: scaled down in proportion when their sum exceeds it (R429). -/
def scaleFloors (limit : Nat) (f : Shares) : Shares :=
  let t := f.links + f.memory + f.compute
  if t ≤ limit then f else { links := f.links * limit / t, memory := f.memory * limit / t, compute := f.compute * limit / t }

/-- MODE.OPMODE of all cores when they agree, 0b11 otherwise. -/
def State.commonMode (s : State) : Nat :=
  let m := (s.sc 0).opmode
  if allCores.all fun c => (s.sc c).opmode = m then m.toNat else 3

/-- Measurement 7 (Table 16.6): 16 bytes with the cores' common operating mode and the profile code. -/
def configDigest (mode profile : Nat) : BitVec 384 := Config.sha384 (leBytes 16 (mode + profile * 2 ^ 8))

/-- Takes measurement 7, at stage 3 and on a profile change (R478). -/
def State.measureConfig (s : State) : State :=
  { s with boot := { s.boot with config := configDigest s.commonMode s.power.profile } }

/-- Applies a profile (R421). -/
def State.setProfile (s : State) (p : Nat) : State :=
  let x := { s.power with profile := p }
  let s := (s.setPower { x with floors := x.floors.map (scaleFloors x.limit) }).measureConfig
  (s.noteBoosts.alarm alarmProfile (BitVec.ofNat 16 p) (word p)).powerEventAll evProfile

/-- THERMAL_TOP_READ (R421, R512, R513): a new rating changes the cap at once; a new profile takes effect when a second read at least
100 ms later agrees. -/
def execThermalTopRead (r : Option TopRecord) (s : State) : Out :=
  .next (
    if !s.harbourRuns then s
    else
      let p := s.topProfile r
      let s := if s.topDisagrees r then s.log 0#8 0x1002#16 0#16 0 [word s.lh.kind] else s
      let s := s.setPower { s.power with rating := topRating r }
      if p = s.power.profile then { s with power := { s.power with topPending := none } }
      else
        match s.power.topPending with
        | some (q, t) =>
          if q != p then { s with power := { s.power with topPending := some (p, s.tide) } }
          else if s.passedUs t 100000 then ({ s with power := { s.power with topPending := none } }).setProfile p
          else s
        | none => { s with power := { s.power with topPending := some (p, s.tide) } })

/-! ### Heat (R288, R433) -/

/-- A junction temperature's step (R433): entered at 100, 102 and 105 °C, left 2 °C below its entry point. -/
def junctionEntry (k : Nat) : Int := [0, 800, 816, 840].getD k 0

def nextJunction (cur : Nat) (t : Int) : Nat :=
  let up := if 840 ≤ t then 3 else if 816 ≤ t then 2 else if 800 ≤ t then 1 else 0
  let held := ((List.range (cur + 1)).reverse.find? fun k => k = 0 || junctionEntry k - 16 < t).getD 0
  max up held

/-- JUNCTION_TEMPERATURE (R433): the isle takes its step; 105 °C raises THERMAL_JUNCTION, and JTHROT is set where throttling or gating
begins. -/
def execJunctionTemperature (isle : IsleId) (t : BitVec 16) (s : State) : Out :=
  .next (
    if !s.powered then s
    else
      let old := (s.isle isle).heat.junctionStep
      let new := nextJunction old t.toInt
      let s := s.updIsle isle fun y => { y with heat := { y.heat with junction := t, junctionStep := new } }
      let s := if old = new then s else s.trace 3 (BitVec.ofNat 16 isle.val) traceCeiling (word new) (t.setWidth 64)
      let s := if (old = 0 && 0 < new) || (old < 2 && 2 ≤ new) then (coresOf isle).foldl (fun s c => s.powerEvent evJthrot c) s else s
      let s := if old < 3 && new = 3 then s.alarm alarmJunction (BitVec.ofNat 16 isle.val) (t.setWidth 64) else s
      s.settleCores (coresOf isle))

/-- NEAR_TEMPERATURE_READ (R288): both stacks take their bands; entering the highest raises THERMAL_STACK. -/
def execNearTemperatureRead (isle : IsleId) (t0 t1 : BitVec 8) (s : State) : Out :=
  .next (
    if !s.powered then s
    else
      let h := (s.isle isle).heat
      let b0 := nextBand h.band0 t0.toNat
      let b1 := nextBand h.band1 t1.toNat
      let s := s.updIsle isle fun y => { y with heat := { y.heat with t0 := t0.toNat, t1 := t1.toNat, band0 := b0, band1 := b1 } }
      let raise (s : State) (k old new t : Nat) : State :=
        if old != 3 && new = 3 then s.alarm alarmStack (BitVec.ofNat 16 (2 * isle.val + k)) (word t) else s
      ((raise (raise s 0 h.band0 b0 t0.toNat) 1 h.band1 b1 t1.toNat).noteThrottle isle).settleCores (coresOf isle))

/-! ### Wake tokens (R434, R435) -/

/-- The place of a waiting core in the governor's order: its launch's queue, then its index (R434). -/
def State.wakeRank (s : State) (c : CoreId) : Nat :=
  match s.launchOfCore c.val with
  | some (_, l) => l.queue * 1200 + c.val
  | none => 6 * 1200 + c.val

/-- Whether a core that waits for tokens stands before core `c`. -/
def State.wakeBefore (s : State) (c : CoreId) : Bool :=
  s.cores.any fun x => x.2.pw.want.isSome && x.1 != c.val && decide (s.wakeRank (coreOf x.1) < s.wakeRank c)

/-- What a granted rise says in its launch's TIMING: WAKE when the core starts late (Table 11.3, R435). -/
def Launch.noteRise (l : Launch) (late : Bool) : Launch :=
  { l with timing := { l.timing with wake := l.timing.wake || late } }

/-- WAKE_TOKEN_GRANT (R434, R435): the first core that waits rises to its point once both buckets hold its tokens. -/
def execWakeTokenGrant (c : CoreId) (mhz : Nat) (s : State) : Out :=
  .next (
    let x := (s.core c).pw
    let i := isleOf c
    let n := wakeTokensAt mhz - wakeTokensAt x.point
    if x.want != some mhz || !s.clockFree c || s.wakeBefore c || (s.isle i).tokens < n || s.power.tokens < 2 * n then s
    else
      let late := mooringLine s (s.sc c)
      let s := s.updCore c fun y => { y with pw := { y.pw with point := mhz, want := none } }
      let s := s.updIsle i fun y => { y with tokens := y.tokens - n }
      let s := { s with power := { s.power with tokens := s.power.tokens - 2 * n } }
      let s := s.trace 3 (BitVec.ofNat 16 c.val) traceWake (word mhz) (word n)
      match s.launchOfCore c.val with
      | some (k, l) => (s.setLaunch k (l.noteRise late)).noteBoosts.endWait c
      | none => s)

/-! ### Ageing (R438) -/

/-- AGEING_CHECK (R438): short margin asks for a step of the adder at the next window boundary, or at its limit lowers the boost ceiling
by 100 MHz; margin short at the guaranteed frequency takes the isle's cores out of use. -/
def execAgeingCheck (isle : IsleId) (short shortAtGuaranteed : Bool) (s : State) : Out :=
  .next (
    if !s.powered || !s.harbourRuns then s
    else
      let h := (s.isle isle).heat
      let s :=
        if !short then s.updIsle isle fun y => { y with heat := { y.heat with ageingDue := false } }
        else if h.ageing < 10 then s.updIsle isle fun y => { y with heat := { y.heat with ageingDue := true } }
        else
          let s := s.updIsle isle fun y => { y with heat := { y.heat with ageingCut := min 25 (y.heat.ageingCut + 1) } }
          ((coresOf isle).foldl (fun s c => s.powerEvent evAge c) s).settleCores (coresOf isle)
      if shortAtGuaranteed && !h.worn then
        (s.updIsle isle fun y => { y with heat := { y.heat with worn := true } }).alarm alarmAgeing (BitVec.ofNat 16 isle.val) (word h.ageing)
      else s)

/-! ### Idle states (R440, R441) -/

/-- Whether an isle has no work item POSTED or TAKEN and no open reduction window. -/
def State.isleIdle (s : State) (i : IsleId) : Bool :=
  (s.isle i).windows.all (fun w => !w.2.opened) &&
  (coresOf i).all fun c => (List.range 8).all fun m => (s.sc c).mooringState m != mPosted && (s.sc c).mooringState m != mTaken

/-- S1 (R440): an isle without work clock-gates its cores. -/
def execS1 (isle : IsleId) (s : State) : Out :=
  .next (
    if !s.powered || !s.harbourRuns || (s.isle isle).idle != 0 || s.power.tolerance < 2 || !s.isleIdle isle then s
    else (s.updIsle isle fun x => { x with idle := 1, idleSince := s.tide }).settleCores (coresOf isle))

/-- Whether a core holds nothing that S2 loses: no byte, line, mark or fill in its lagoon, L1 and scratch ways, and no bound mooring. -/
def State.coreEmpty (s : State) (c : CoreId) : Bool :=
  let x := s.sc c
  x.lagoon.isEmpty && x.lagoonBad.isEmpty && x.l1.isEmpty && x.miss = .none && x.scratch.isEmpty && x.scratchBad.isEmpty &&
    s.hb.moorings.all fun y => y.1 / 8 != c.val

/-- What a core loses as its isle enters S2: lagoon, L1 and scratch ways; its moorings are unbound (R440). -/
def State.drainCore (s : State) (c : CoreId) : State :=
  if s.coreEmpty c then s
  else (s.fillLagoon c).updSc c fun x => { x with l1 := [], miss := .none }

/-- S2 (R440): an isle 1 ms in S1. -/
def execS2 (isle : IsleId) (s : State) : Out :=
  .next (
    let x := s.isle isle
    if !s.powered || !s.harbourRuns || x.idle != 1 || s.power.tolerance < 80 || !s.passedUs x.idleSince 1000 then s
    else
      let s := s.updIsle isle fun x => { x with idle := 2, idleSince := s.tide }
      (coresOf isle).foldl State.drainCore s)

/-- Whether the device has nothing to do (R440): no committed unstarted entry, no launch, no waiting fault record. -/
def State.deviceIdle (s : State) : Bool :=
  s.waitingEntries.isEmpty && s.hb.launches.isEmpty && s.hb.faults.isEmpty && s.hb.queues.toList.all fun q => q.running.isNone

/-- S3 (R440): the device with every isle 1 s in S2; the coves' modified lines have been written back, and the coves are lost. -/
def execS3 (s : State) : Out :=
  .next (
    if !s.powered || !s.harbourRuns || s.power.idle != 0 || s.power.tolerance < 15000 || !s.deviceIdle ||
        !(s.isles.toList.all fun x => x.idle = 2 && s.passedUs x.idleSince 1000000) then s
    else { s with coves := [], power := { s.power with idle := 3, idleSince := s.tide } })

/-- S4 (R440): the device 10 s in S3; its Strait ports go DOWN. -/
def execS4 (s : State) : Out :=
  .next (
    if !s.powered || !s.harbourRuns || s.power.idle != 3 || s.power.tolerance < 400000 || !s.passedUs s.power.idleSince 10000000 then s
    else
      { s with
        power := { s.power with idle := 4, idleSince := s.tide }
        strait := { s.strait with ports := s.strait.ports.map fun p => { p with state := 0#3 } } })

end Sys2Proof.Machine
end

