-- ==== Sys2Proof/Machine/Strait.lean ====
section
/-! DEFINITION. Tide and Strait (R387-R418): ports, flits, side cells, phases, marks and coast-down. -/

namespace Sys2Proof.Machine

/-! ### Ports (R389, R395, R398, R405, R416) -/

/-- A port whose training has succeeded: IDLE, SCHEDULED or COASTING. -/
def Port.trained (p : Port) : Bool := p.state = 2#3 || p.state = 3#3 || p.state = 4#3

/-- Reasons of Table 13.6. -/
def prLane : BitVec 4 := 1#4
def prWiring : BitVec 4 := 2#4
def prTooLong : BitVec 4 := 3#4
def prSilent : BitVec 4 := 4#4
def prCrc : BitVec 4 := 5#4
def prMismatch : BitVec 4 := 6#4

/-- The peer port of Table 13.4. -/
def peerPort (p : PortId) : Nat := if p.val < 7 then 6 - p.val else if p.val < 10 then p.val else 21 - p.val

/-- Traces a port's state change in ring 2. -/
def State.tracePort (s : State) (p : PortId) : State :=
  s.trace 2 (BitVec.ofNat 16 p.val) 0x100#16 ((s.port p).state.setWidth 64) ((s.port p).reason.setWidth 64)

/-- The election of R389 over the device's own ID and what its trained ports carry: root, hops, parent. -/
def State.elect (s : State) : Word × Nat × Option PortId :=
  let own := Config.straitId
  let best := (List.finRange 12).foldl (fun (a : Word × Nat × Option PortId) p =>
    let t := s.port p
    if !t.trained || t.rootId = 0#64 || 255 ≤ t.rootHops then a
    else if t.rootId < a.1 || (t.rootId = a.1 && t.rootHops + 1 < a.2.1) then (t.rootId, t.rootHops + 1, some p)
    else a) (own, 0, none)
  best

/-- The ROOT cell that a device sends on its ports (Table 13.9). -/
def State.rootCell (s : State) : Cell :=
  mkCell cellRoot 0#64 s.tide 0 ((BitVec.ofNat 128 s.strait.hops <<< 64) ||| s.strait.root.setWidth 128)

/-- Runs the election again; a new parent begins a new estimate of its tide (R390). -/
def State.runElection (s : State) : State :=
  let e := s.elect
  let t := s.strait
  { s with strait :=
      { t with id := Config.straitId, root := e.1, hops := e.2.1, parent := e.2.2, errors := if e.2.2 = t.parent then t.errors else [] } }

/-- Launches whose runs or VOTE_PORT use a port, and that have not been unloaded. -/
def State.launchesOn (s : State) (p : PortId) : List Nat :=
  s.hb.launches.filterMap fun l =>
    match s.image l.2 with
    | some h => if spans h && !l.2.unloaded && (launchPorts h).contains p then some l.1 else none
    | none => none

/-- Fails a port (R395-R405, R416): the alarm is raised, launches that use it coast down, the election runs again. -/
def State.failPort (s : State) (p : PortId) (reason : BitVec 4) : State :=
  let on := s.launchesOn p
  let s := s.updPort p fun t => { t with state := 5#3, reason := reason, failedAt := s.tide, cells := [], rootId := 0#64, rootHops := 0 }
  let s := (s.tracePort p).alarm alarmStrait (BitVec.ofNat 16 p.val) (reason.setWidth 64)
  (on.foldl (fun s k => s.startCoast k 2#8) s).runElection

/-- PORT_TRAINING (R395): lanes, wiring and latency are checked in order; a port that passes is IDLE and joins the tide. One without a cable
stays DOWN (R502), and so does every port in S4 (R440). -/
def execPortTraining (p : PortId) (r : TrainingResult) (s : State) : Out :=
  .next (
    let t := s.port p
    if !s.powered || s.power.idle = 4 || !(t.state = 0#3 || t.state = 1#3) then s
    else if !r.cable then
      if t.state = 0#3 then s else (s.updPort p fun t => { t with state := 0#3 }).tracePort p
    else
      let s := s.updPort p fun t => { t with crcErr := 0#32, mismatch := 0#8, crcTimes := [], missTimes := [], kept := [], lost := [] }
      if r.lanes != 0xff#8 then s.failPort p prLane
      else
        let s := s.updPort p fun t => { t with neighbour := r.peerId }
        if r.peerPort.toNat != peerPort p then s.failPort p prWiring
        else if 4 < r.latency then s.failPort p prTooLong
        else
          let d := BitVec.ofNat 3 (max 1 r.latency)
          let s := s.updPort p fun t => { t with state := 2#3, d := d, lastSide := s.tide, cells := [], rootId := 0#64, rootHops := 0 }
          (s.tracePort p).runElection)

/-- PORT_RETRAIN (R395): a FAILED port trains again after 1 s, once no launch claims it. -/
def execPortRetrain (p : PortId) (s : State) : Out :=
  .next (
    let t := s.port p
    if !s.powered || t.state != 5#3 || s.since t.failedAt < second || !(s.launchesOn p).isEmpty then s
    else (s.updPort p fun t => { t with state := 1#3 }).tracePort p)

/-- SILENT (R416): no valid side flit for 4 consecutive ticks. -/
def execSilent (p : PortId) (s : State) : Out :=
  .next (if s.powered && (s.port p).trained && 4 ≤ s.since (s.port p).lastSide then s.failPort p prSilent else s)

/-- Times of the last 1,024 ticks. -/
def State.recent (s : State) (ts : List Word) : List Word := ts.filter fun t => s.since t < 1024

/-- Counts a CRC failure of a port; 16 within 1,024 ticks fail it (R398). -/
def State.crcFailure (s : State) (p : PortId) : State :=
  let ts := s.recent (s.port p).crcTimes ++ [s.tide]
  let s := s.updPort p fun t => { t with crcErr := satInc t.crcErr, crcTimes := ts }
  if 16 ≤ ts.length then s.failPort p prCrc else s

/-- Counts a discarded DATA flit; 16 within 1,024 ticks fail the port (R405). -/
def State.mismatched (s : State) (p : PortId) : State :=
  let ts := s.recent (s.port p).missTimes ++ [s.tide]
  let s := s.updPort p fun t => { t with mismatch := satInc t.mismatch, missTimes := ts }
  if 16 ≤ ts.length then s.failPort p prMismatch else s

end Sys2Proof.Machine

/-! ### Flits (Table 13.7) -/

namespace Sys2Proof.Flit

open Sys2Proof.Machine

def type (f : Flit) : Nat := fld f.header 63 60
def rpl (f : Flit) : Bool := f.header.getLsbD 59
def slot (f : Flit) : Nat := fld f.header 58 54
def tick (f : Flit) : BitVec 16 := f.header.extractLsb' 38 16
def stream (f : Flit) : BitVec 12 := f.header.extractLsb' 26 12
def fidx (f : Flit) : Nat := fld f.header 25 10

/-- The CRC-64 over a flit's bytes 0-247 (R397). -/
def crcOf (header : Word) (payload : List Byte) : Word := crc64 (leBytes 8 header.toNat ++ payload)

def crcOk (f : Flit) : Bool := crcOf f.header f.payload = f.crc

/-- A flit as it is sent, with its CRC-64. -/
def make (header : Word) (payload : List Byte) : Flit := { header := header, payload := payload, crc := crcOf header payload }

/-- A side flit's sender's tide and seven cells (R399, Table 13.8). -/
def peerTide (f : Flit) : Word := word (leNat (f.payload.take 8))

def cell (f : Flit) (i : Nat) : Cell :=
  let x := leNat ((f.payload.drop (16 + 32 * i)).take 32)
  { body := BitVec.ofNat 128 (x / 2 ^ 128), key := BitVec.ofNat 64 (x / 2 ^ 64), tick := BitVec.ofNat 32 (x / 2 ^ 32)
    origin := BitVec.ofNat 10 (x / 2 ^ 22), hops := BitVec.ofNat 4 (x / 2 ^ 18), rsv := BitVec.ofNat 10 (x / 2 ^ 8)
    kind := BitVec.ofNat 8 x }

def cells (f : Flit) : List Cell := (List.range 7).map f.cell

end Sys2Proof.Flit

namespace Sys2Proof.Machine

/-- A flit header. -/
def flitHeader (type : Nat) (rpl : Bool) (slot : Nat) (tick : Word) (stream : BitVec 12) (fidx : Nat) : Word :=
  word (type * 2 ^ 60 + (if rpl then 2 ^ 59 else 0) + slot * 2 ^ 54 + (tick.toNat % 2 ^ 16) * 2 ^ 38 + stream.toNat * 2 ^ 26 + fidx * 2 ^ 10)

/-- The full tick nearest the device's own tide with these low 16 bits. -/
def State.nearTick (s : State) (t : BitVec 16) : Word := s.tide + (t - s.tide.setWidth 16).signExtend 64

/-- FILLER (R397): it carries nothing; one whose CRC fails is counted (R398). -/
def execFiller (p : PortId) (f : Flit) (s : State) : Out :=
  .next (if s.powered && (s.port p).trained && !f.crcOk then s.crcFailure p else s)

/-! ### Receiving DATA (R402, R405, R407, R408) -/

/-- A loaded run that expects a flit: launch, run number, run, the flit's send tick. -/
structure Expected where
  launch : Nat
  run : Nat
  r : SlotRun
  at_ : Word
deriving DecidableEq, Repr

/-- Whether a receiver of launch `l` accepts a flit sent at tick `t` (R405, R417): in its window, or resent before the phase's boundary
vote; after a stop, only what was sent before tc, until the drain bound. -/
def State.acceptsAt (s : State) (p : PortId) (l : Launch) (h : ImageHeader) (r : SlotRun) (rpl : Bool) (t : Word) : Bool :=
  let d : Word := (s.port p).d.setWidth 64
  let skew := word (skewBound (topLevel h))
  let inTime :=
    if rpl then s.tide < l.eff h (((h.phase (h.phaseOf r)).map PhaseEntry.b).getD 0)
    else t + d ≤ s.tide + skew && s.tide ≤ t + d + skew
  let live := match l.stop with
    | some x => t < x.tc && s.tide < x.tc + word (drainBound (topLevel h))
    | none => true
  inTime && live

/-- The loaded run of port `p` that expects a flit (R405). -/
def State.expects (s : State) (p : PortId) (f : Flit) : Option Expected :=
  s.hb.launches.findSome? fun k =>
    let l := k.2
    match s.image l with
    | none => none
    | some h =>
      if !l.agreed then none
      else (l.loaded h).findSome? fun x =>
        let r := x.2
        let at_ := r.place f.fidx
        let t := l.eff h (r.tstart + at_.1)
        if !r.isSend && r.port.toNat = p.val && r.stream = f.stream && decide (f.fidx < r.flits) && at_.2 = f.slot &&
            t.setWidth 16 = f.tick && s.acceptsAt p l h r f.rpl t then
          some { launch := k.1, run := x.1, r := r, at_ := t }
        else none

/-- A translation fault of a launch's Strait access (R309). -/
def State.straitFault (s : State) (k ctx va reason : Nat) : State :=
  (s.failLaunch k clsTranslation (xlateDetail reason va)).postFatal ctx va reason []

/-- The waiter of a launch's Strait access (R306, log 204). -/
def straitWaiter (k : Nat) (write : Bool) : Waiter := { cls := clsStraitWaiter, core := k, stream := 0, write := write, read := !write }

/-- What a Strait access that did not succeed does to its launch (R407): a replayable fault waits on its record (R305), once for a page;
everything else fails the launch. -/
def State.straitMeets {α : Type} (s : State) (k ctx : Nat) (m : Mv α) : State :=
  match m with
  | .ok s _ => s
  | .fault va r rp w =>
    if replays r rp ((s.launch k).map fun l => (k, l)) then
      let me := straitWaiter k w
      if s.waitsOn ctx va me then s else s.replayFault ctx va me
    else s.straitFault k ctx va r
  | .refused _ dpa => (s.crossAlarm ctx dpa).failLaunch k clsCross (crossDetail s ctx dpa)
  | .bad _ dpa w => (if w then s else s.memAlarm dpa).failLaunch k clsMemory (memDetail dpa)
  | .badWord _ _ => s
  | .cross _ => s
  | .order s => s.failLaunch k clsTask (detail [(4, 48)])
  | .full => s

/-- One line of a RECV_REDUCE run as a contribution to its window (R260, R408). -/
def State.straitContribute (s : State) (ctx va : Nat) (r : SlotRun) (bs : List Byte) : Mv Unit :=
  match s.translate ctx va .write privTask true with
  | .fault x rp => .fault va x rp true
  | .bad d => .bad va d false
  | .ok dpa _ =>
    if !s.tagOk ctx dpa then .refused va dpa
    else if !nearOrMid dpa then .order s
    else
      match s.contribute (Fin.ofNat 8 (isleOfDpa dpa)) r.rwin.toNat dpa r.ridx.toNat bs with
      | .ok s => .ok s ()
      | .rejected s => .order s
      | .bad write => .bad va dpa write
      | .full => .full

/-- The bytes of line `j` of a RECV_REDUCE run, once every flit of it is here. -/
def Launch.lineBytes (l : Launch) (x : Nat × SlotRun) (j : Nat) : Option (List Byte) :=
  let fs := (List.range ((128 * j + 127) / 240 + 1)).filter fun f => 128 * j / 240 ≤ f
  if fs.all fun f => (l.got x.1).contains f then
    some (((fs.flatMap fun f => mapGet [] (65536 * x.1 + f) l.rx).drop (128 * j % 240)).take 128)
  else none

/-- Contributes the lines of a RECV_REDUCE run that are complete and not yet contributed, in order; a full staging area holds the rest
(R262). -/
def State.deliverLines (s : State) (k : Nat) (x : Nat × SlotRun) : State :=
  (List.range (x.2.bytes / 128)).foldl (fun s j =>
    match s.launch k with
    | none => s
    | some l =>
      if (mapGet [] x.1 l.lines).contains j then s
      else
        match l.lineBytes x j with
        | none => s
        | some bs =>
          match s.straitContribute l.ctx (x.2.buf.toNat + 128 * j) x.2 bs with
          | .ok s _ => s.updLaunch k fun l => { l with lines := mapSet x.1 (mapGet [] x.1 l.lines ++ [j]) l.lines }
          | m => s.straitMeets k l.ctx m) s

/-- Flits of RECV_REDUCE runs of a port whose bytes are not all contributed. -/
def State.backlog (s : State) (p : PortId) : Nat :=
  (s.hb.launches.map fun k =>
    match s.image k.2 with
    | none => 0
    | some h =>
      ((k.2.loaded h).map fun x =>
        if x.2.isReduce && x.2.port.toNat = p.val then
          (k.2.got x.1).length - 128 * (mapGet [] x.1 k.2.lines).length / 240
        else if x.2.isRecv && x.2.port.toNat = p.val then (k.2.heldRx.filter fun y => y.1 = x.1).length
        else 0).foldl (· + ·) 0).foldl (· + ·) 0

/-- A port buffers 64 ticks of received data; a launch whose flit overflows them fails (R407). -/
def State.overflow (s : State) (p : PortId) (k : Nat) (l : Launch) : State :=
  if 64 * 30 < s.backlog p then
    match s.image l with
    | some h => s.failLaunch k clsStrait (straitDetail 0x14 h.rank p.val)
    | none => s
  else s

/-- Whether an access ends in a fault that replays for launch `k`. -/
def State.straitWaits {α : Type} (s : State) (k : Nat) (m : Mv α) : Bool :=
  match m with
  | .fault _ r rp _ => replays r rp ((s.launch k).map fun l => (k, l))
  | _ => false

/-- Writes flit `i` of a RECV run; one whose fault replays is held until its record is resolved (R305, R307). -/
def State.storeRecv (s : State) (k : Nat) (l : Launch) (x : Nat × SlotRun) (i : Nat) (payload : List Byte) : State :=
  let bs := payload.take (x.2.bytes - 240 * i)
  if bs.isEmpty then s
  else
    let m := s.writeVa l.ctx (x.2.buf.toNat + 240 * i) privTask bs
    if s.straitWaits k m then
      (s.straitMeets k l.ctx m).updLaunch k fun l =>
        { l with heldRx := l.heldRx ++ [(x.1, i)], rx := mapSet (65536 * x.1 + i) payload l.rx }
    else s.straitMeets k l.ctx m

/-- Tries again what the RECV and RECV_REDUCE runs of launch `k` hold (R262, R308). -/
def State.redeliver (s : State) (k : Nat) : State :=
  match s.launch k with
  | none => s
  | some l =>
    match s.image l with
    | none => s
    | some h =>
      if l.failure.isSome then s
      else
        let s := (l.loaded h).foldl (fun s x => if x.2.isReduce then s.deliverLines k x else s) s
        let held := (l.loaded h).flatMap fun x => (l.heldRx.filter fun y => y.1 = x.1).map fun y => (x, y.2)
        held.foldl (fun s y =>
          let key := 65536 * y.1.1 + y.2
          let s := s.updLaunch k fun l => { l with heldRx := l.heldRx.filter (· != (y.1.1, y.2)), rx := mapErase key l.rx }
          s.storeRecv k l y.1 y.2 (mapGet [] key l.rx)) s

/-- Delivers an accepted flit to its run. -/
def State.deliver (s : State) (p : PortId) (e : Expected) (f : Flit) : State :=
  match s.launch e.launch with
  | none => s
  | some l =>
    let i := f.fidx
    if (l.got e.run).contains i then s
    else
      let keep := e.r.isForward || e.r.isReduce
      let l := { l with
        flits := mapSet (2 * e.run) (l.got e.run ++ [i]) l.flits
        rx := if keep then mapSet (65536 * e.run + i) f.payload l.rx else l.rx }
      let s := s.setLaunch e.launch l
      if e.r.isForward then s
      else if e.r.isReduce then
        (s.deliverLines e.launch (e.run, e.r)).overflow p e.launch l
      else (s.storeRecv e.launch l (e.run, e.r) i f.payload).overflow p e.launch l

/-- The key under which the failures of one flit are counted. -/
def lostKey (f : Flit) : Nat := f.stream.toNat * 2 ^ 37 + f.tick.toNat * 2 ^ 21 + f.slot * 2 ^ 16 + f.fidx

/-- The REPLAY cell for a lost flit (Table 13.9). -/
def State.replayCell (s : State) (f : Flit) : Cell :=
  mkCell cellReplay 0#64 (s.nearTick f.tick) 0
    (BitVec.ofNat 128 (f.stream.toNat + f.fidx * 2 ^ 12 + f.slot * 2 ^ 28))

/-- DATA (R398, R402, R405, R407): a flit whose CRC fails is asked for again, its third failure fails the port; a flit that no loaded run
expects is counted in MISMATCH. -/
def execData (p : PortId) (f : Flit) (s : State) : Out :=
  .next (
    if !s.powered || !(s.port p).trained then s
    else if !f.crcOk then
      let n := mapGet 0 (lostKey f) (s.port p).lost + 1
      let s := s.updPort p fun t => { t with lost := mapSet (lostKey f) n t.lost }
      if 3 ≤ n then (s.updPort p fun t => { t with crcErr := satInc t.crcErr }).failPort p prCrc
      else (s.queueCell p (s.replayCell f)).crcFailure p
    else if f.type != 1 then s
    else
      match s.expects p f with
      | some e => s.deliver p e f
      | none => s.mismatched p)

/-! ### Side flits and their cells (R399, R400) -/

/-- Floods a cell that came by `p`, one hop further (R400). -/
def State.passOn (s : State) (h : ImageHeader) (p : PortId) (x : Cell) : State :=
  if x.hops = 15#4 then s.sawCell x else s.flood h (some p) { x with hops := x.hops + 1#4 }

/-- A START or VOTE that names no launch here is held for 1 s (R400). -/
def State.holdCell (s : State) (p : PortId) (x : Cell) : State :=
  { s with strait := { s.strait with held := s.strait.held ++ [{ cell := x, port := some p, since := s.tide }] } }

/-- A START or VOTE cell. -/
def State.takeInbound (s : State) (p : PortId) (x : Cell) : State :=
  match s.launchOfKey x.key with
  | none => (s.sawCell x).holdCell p x
  | some (k, l) =>
    match s.image l with
    | some h => s.inbound k h x
    | none => s

/-- A START_AT, OUTCOME or COAST cell acts on its launch and floods. -/
def State.takeFlood (s : State) (p : PortId) (x : Cell) (act : State → Nat → Launch → ImageHeader → State) : State :=
  match s.launchOfKey x.key with
  | none => s
  | some (k, l) =>
    match s.image l with
    | some h => act (s.passOn h p x) k l h
    | none => s

/-- A cell of one of the travelling kinds is acted on once (R400). -/
def State.onceCell (s : State) (x : Cell) (act : State → State) : State := if s.strait.seen.contains (cellId x) then s else act s

/-- START_AT (R409). -/
def State.takeStartAtCell (s : State) (p : PortId) (x : Cell) : State :=
  s.onceCell x fun s => s.takeFlood p x fun s k _ h =>
    if x.body.extractLsb' 0 64 = h.uid then s.takeStartAt k h (s.fullTick x.tick) else s

/-- OUTCOME (R411): held for the boundary that it names. -/
def State.takeOutcome (s : State) (p : PortId) (x : Cell) : State :=
  s.onceCell x fun s => s.takeFlood p x fun s k l h =>
    if x.body.extractLsb' 0 16 = BitVec.ofNat 16 l.phase && s.fullTick x.tick = l.boundary h then
      s.setLaunch k { l with outcome := some { slip := x.body.getLsbD 16, commit := x.body.getLsbD 17 } }
    else s

/-- COAST (R417): the smallest tc received counts. -/
def State.takeCoast (s : State) (p : PortId) (x : Cell) : State :=
  s.onceCell x fun s => s.takeFlood p x fun s k l _ =>
    s.setLaunch k (l.takeStop { tc := s.fullTick x.tick, reason := x.body.extractLsb' 0 8, origin := x.origin })

/-- REPLAY (R398): the flit is sent again, at most twice. -/
def State.takeReplay (s : State) (p : PortId) (x : Cell) : State :=
  let stream := x.body.extractLsb' 0 12
  let fidx := (x.body.extractLsb' 12 16).toNat
  let slot := (x.body.extractLsb' 28 5).toNat
  let hit (y : SentFlit) : Bool := y.stream = stream && y.fidx = fidx && y.slot = slot && y.tick.setWidth 32 = x.tick
  s.updPort p fun t => { t with kept := t.kept.map fun y => if hit y && decide (y.resends < 2) then { y with due := true } else y }

/-- ROOT (R389). -/
def State.takeRoot (s : State) (p : PortId) (x : Cell) : State :=
  (s.updPort p fun t => { t with rootId := x.body.extractLsb' 0 64, rootHops := (x.body.extractLsb' 64 8).toNat }).runElection

/-- Acts on a received cell; one of a reserved kind is discarded. -/
def State.takeCell (s : State) (p : PortId) (x : Cell) : State :=
  let s := if x.kind = 0#8 then s else s.traceCell p.val x
  if x.kind = cellStart || x.kind = cellVote then s.onceCell x fun s => s.takeInbound p x
  else if x.kind = cellStartAt then s.takeStartAtCell p x
  else if x.kind = cellOutcome then s.takeOutcome p x
  else if x.kind = cellCoast then s.takeCoast p x
  else if x.kind = cellReplay then s.takeReplay p x
  else if x.kind = cellRoot then s.takeRoot p x
  else s

/-- A cell of one kind received on a trained port. -/
def State.cellRow (s : State) (p : PortId) (kind : BitVec 8) (x : Cell) : State :=
  if s.powered && (s.port p).trained && x.kind = kind then s.takeCell p x else s

/-- SIDE (R398, R399): the sender's tide, and its seven cells; one whose CRC fails is discarded. -/
def execSide (p : PortId) (f : Flit) (s : State) : Out :=
  .next (
    if !s.powered || !(s.port p).trained then s
    else if !f.crcOk then s.crcFailure p
    else if f.type != 2 then s
    else
      let s := s.updPort p fun t => { t with peerTide := f.peerTide, lastSide := s.tide }
      f.cells.foldl (fun s x => s.takeCell p x) s)

/-- START (R400, R409). -/
def execStart (p : PortId) (x : Cell) (s : State) : Out := .next (s.cellRow p cellStart x)

/-- START_AT (R409). -/
def execStartAt (p : PortId) (x : Cell) (s : State) : Out := .next (s.cellRow p cellStartAt x)

/-- VOTE (R400, R411). -/
def execVote (p : PortId) (x : Cell) (s : State) : Out := .next (s.cellRow p cellVote x)

/-- OUTCOME (R411). -/
def execOutcome (p : PortId) (x : Cell) (s : State) : Out := .next (s.cellRow p cellOutcome x)

/-- COAST (R417). -/
def execCoast (p : PortId) (x : Cell) (s : State) : Out := .next (s.cellRow p cellCoast x)

/-- REPLAY (R398). -/
def execReplay (p : PortId) (x : Cell) (s : State) : Out := .next (s.cellRow p cellReplay x)

/-- ROOT (R389). -/
def execRoot (p : PortId) (x : Cell) (s : State) : Out := .next (s.cellRow p cellRoot x)

/-- HARBOUR (Table 13.9): a firmware message, traced like every cell; it is no part of the programming interface. -/
def execHarbour (p : PortId) (x : Cell) (s : State) : Out := .next (s.cellRow p cellHarbour x)

/-- CELL_HOLD_EXPIRY (R400): a held VOTE or START is discarded after 1 s. -/
def execCellHoldExpiry (key : BitVec 64) (s : State) : Out :=
  .next { s with strait := { s.strait with held := s.strait.held.filter fun x => !(x.cell.key = key && decide (second ≤ s.since x.since)) } }

/-! ### Transmission (R397-R400, R402, R404, R407, R417) -/

/-- Priority of a cell kind on a side flit (R400), the highest first. -/
def cellOrder : List (BitVec 8) :=
  [cellCoast, cellOutcome, cellStartAt, cellReplay, cellVote, cellStart, cellRoot, cellHarbour]

/-- Cells that a device repeats on a port: its own COAST until tc, rank 0's OUTCOME until B + V. -/
def State.repeated (s : State) (p : PortId) : List Cell :=
  s.hb.launches.flatMap fun k =>
    match s.image k.2 with
    | none => []
    | some h =>
      if !spans h || !(launchPorts h).contains p then []
      else
        let l := k.2
        let coast := match l.ownStop with
          | some x => if s.tide < x.tc then [mkCell cellCoast l.key x.tc h.rank (x.reason.setWidth 128)] else []
          | none => []
        let out := match l.outcome with
          | some o =>
            if h.rank = 0 && s.tide < l.boundary h + word (voteWindow (topLevel h)) then
              [mkCell cellOutcome l.key (l.boundary h) 0
                (BitVec.ofNat 128 (l.phase + (if o.slip then 2 ^ 16 else 0) + (if o.commit then 2 ^ 17 else 0)))]
            else []
          | none => []
        coast ++ out

/-- The bytes of a cell (Table 13.8). -/
def Cell_bytes (x : Cell) : List Byte :=
  leBytes 32 (x.body.toNat * 2 ^ 128 + x.key.toNat * 2 ^ 64 + x.tick.toNat * 2 ^ 32 + x.origin.toNat * 2 ^ 22 + x.hops.toNat * 2 ^ 18 +
    x.rsv.toNat * 2 ^ 8 + x.kind.toNat)

/-- Records a transmitted flit. -/
def State.transmit (s : State) (p : PortId) (slot : Nat) (f : Flit) : State :=
  { s with strait := { s.strait with sent := s.strait.sent ++ [(p, { tick := s.tide, slot := slot, flit := f })] } }

/-- Sends the side flit of a port: seven cells in priority order, the others wait (R399, R400). -/
def State.sendSide (s : State) (p : PortId) : State :=
  let own := s.repeated p
  let waiting := own ++ (s.port p).cells.filter fun x => !(own.any fun y => cellId y == cellId x)
  let ordered := (cellOrder.flatMap fun k => waiting.filter fun x => x.kind = k) ++ [s.rootCell]
  let now := ordered.take 7
  let s := s.updPort p fun t => { t with cells := t.cells.filter fun x => !now.contains x && !(own.any fun y => cellId y == cellId x) }
  let s := now.foldl (fun s x => s.traceCell p.val x) s
  let cells := now.flatMap Cell_bytes
  let bytes := leBytes 8 s.tide.toNat ++ leBytes 8 s.strait.id.toNat ++ cells ++ List.replicate (224 - cells.length) 0#8
  s.transmit p 0 (Flit.make (flitHeader 2 false 0 s.tide 0#12 0) bytes)

/-- The bytes that a run sends as flit `i` now: those of BUF, or of the flit that a FORWARD holds. -/
def State.flitData (s : State) (l : Launch) (x : Nat × SlotRun) (i : Nat) : Mv (List Byte) :=
  if x.2.isForward then
    match mapFind (65536 * x.1 + i) l.rx with
    | some bs => .ok s bs
    | none => .full
  else
    let n := min 240 (x.2.bytes - 240 * i)
    (s.readVa l.ctx (x.2.buf.toNat + 240 * i) n privTask).bind fun s bs => .ok s (SlotRun.flitBytes 0 bs)

/-- Sends flit `i` of a run on port `p` in `slot`, as a first transmission or late (R407), and keeps it for 64 ticks (R398). -/
def State.sendFlit (s : State) (p : PortId) (k : Nat) (x : Nat × SlotRun) (i slot : Nat) (at_ : Word) (rpl : Bool) : State :=
  match s.launch k with
  | none => s
  | some l =>
    match s.flitData l x i with
    | .ok s bs =>
      let own := (x.2.place i).2
      let f := Flit.make (flitHeader 1 rpl own at_ x.2.stream i) bs
      let y : SentFlit := { launch := k, tick := at_, sentAt := s.tide, slot := own, stream := x.2.stream, fidx := i, payload := bs, resends := 0, due := false }
      let s := s.updLaunch k fun l => { l with flits := mapSet (2 * x.1 + 1) (l.sent x.1 ++ [i]) l.flits }
      (s.updPort p fun t => { t with kept := t.kept ++ [y] }).transmit p slot f
    | m => s.straitMeets k l.ctx m

/-- The ports and shifts at which a run sends. -/
def sendUses (r : SlotRun) : List (Nat × Nat) := r.uses.filterMap fun u => if u.2.1 then some (u.1, u.2.2) else none

/-- Whether a launch may still send a flit whose first-hop tick is `t` (R417): SEND runs until tc, FORWARD runs what was sent before it. -/
def Launch.maySend (l : Launch) (r : SlotRun) (now t : Word) : Bool :=
  match l.stop with
  | none => true
  | some x => if r.isForward then t < x.tc else now < x.tc

/-- The flits that loaded runs send on port `p` in this tick: launch, run, flit. -/
def State.dueFlits (s : State) (p : PortId) : List (Nat × (Nat × SlotRun) × Nat) :=
  s.hb.launches.flatMap fun k =>
    let l := k.2
    match s.image l with
    | none => []
    | some h =>
      if !l.agreed then []
      else (l.loaded h).flatMap fun x =>
        (sendUses x.2).flatMap fun u =>
          let t0 := l.eff h (x.2.tstart + u.2)
          let off := (s.tide - t0).toNat
          if u.1 = p.val && h.phaseOf x.2 ≤ l.phase && decide (off < x.2.tcount) && l.maySend x.2 s.tide (s.tide - word u.2) then
            (x.2.slots.filterMap fun n => (x.2.fidx off n)).filterMap fun i =>
              if (l.sent x.1).contains i then none else some (k.1, x, i)
          else []

/-- Slots 1-31 of port `p` in which nothing has been sent in this tick and no loaded run sends. -/
def State.freeSlots (s : State) (p : PortId) : List Nat :=
  let used := s.strait.sent.filterMap fun x => if x.1 = p && x.2.tick = s.tide then some x.2.slot else none
  let runs := (s.dueFlits p).map fun x => (x.2.1.2.place x.2.2).2
  (List.range 32).filter fun n => n != 0 && !used.contains n && !runs.contains n

/-- Sends again the kept flits that were asked for (R398), except those of a launch that has stopped (R417). -/
def State.resendFlits (s : State) (p : PortId) : State :=
  let stopped (y : SentFlit) : Bool := match s.launch y.launch with
    | some l => match l.stop with
      | some x => x.tc ≤ s.tide
      | none => false
    | none => true
  let due := ((s.port p).kept.filter fun y => y.due && !stopped y).zip (s.freeSlots p)
  let s := due.foldl (fun s y =>
    s.transmit p y.2 (Flit.make (flitHeader 1 true y.1.slot y.1.tick y.1.stream y.1.fidx) y.1.payload)) s
  let sent := due.map Prod.fst
  let after (y : SentFlit) : SentFlit := if sent.contains y then { y with due := false, resends := y.resends + 1 } else y
  s.updPort p fun t => { t with kept := t.kept.map after }

/-- One port's tick: the side flit, the scheduled flits, the resends; every other slot carries FILLER. -/
def State.portTick (s : State) (p : PortId) : State :=
  let done := s.strait.sent.any fun x => x.1 = p && x.2.tick = s.tide && x.2.slot = 0
  if !(s.port p).trained || done then s
  else
    let s := s.updPort p fun t => { t with kept := t.kept.filter fun y => s.since y.sentAt < 64 }
    let s := s.sendSide p
    let s := (s.dueFlits p).foldl (fun s x => s.sendFlit p x.1 x.2.1 x.2.2 (x.2.1.2.place x.2.2).2 s.tide false) s
    s.resendFlits p

/-- SLOT_TRANSMISSION (R397): each trained port sends its flits of this tick, once; held contributions are tried again. -/
def execSlotTransmission (s : State) : Out :=
  .next (
    if s.powered then
      let t := (List.finRange 12).foldl State.portTick s
      t.hb.launches.foldl (fun u k => u.redeliver k.1) t
    else s)

/-- The flits whose slot has passed unsent on port `p`, oldest first: launch, run, flit, scheduled tick. -/
def State.lateFlits (s : State) (p : PortId) : List (Nat × (Nat × SlotRun) × Nat × Word) :=
  s.hb.launches.flatMap fun k =>
    let l := k.2
    match s.image l with
    | none => []
    | some h =>
      if !l.agreed then []
      else (l.loaded h).flatMap fun x =>
        (sendUses x.2).flatMap fun u =>
          (List.range x.2.flits).filterMap fun i =>
            let t := l.eff h (x.2.tstart + u.2 + (x.2.place i).1)
            let here := !x.2.isForward || (mapFind (65536 * x.1 + i) l.rx).isSome
            if u.1 = p.val && h.phaseOf x.2 = l.phase && t < s.tide && !(l.sent x.1).contains i && here &&
                l.maySend x.2 s.tide (t - word u.2) then
              some (k.1, x, i, t)
            else none

/-- LATE_FLIT (R407): a flit that its slot did not carry is sent with RPL set, under its scheduled TICK and SLOT, in the lowest unassigned
data slot. -/
def execLateFlit (p : PortId) (s : State) : Out :=
  .next (
    if !s.powered || !(s.port p).trained then s
    else
      match s.lateFlits p, s.freeSlots p with
      | (k, x, i, t) :: _, n :: _ => s.sendFlit p k x i n t true
      | _, _ => s)

/-! ### Phases (R410-R415) -/

/-- Sets TSTAT bits on the cores of a launch (Table 13.2). -/
def State.tstatLaunch (s : State) (l : Launch) (bits : BitVec 5) : State :=
  l.cores.foldl (fun s c => s.updCore (coreOf c) fun x => { x with tp := { x.tp with tstat := x.tp.tstat ||| bits } }) s

/-- A write of TVOTE (R410). -/
def State.tvote (s : State) (c : CoreId) (v : Word) : State :=
  let rej (s : State) : State := s.updCore c fun x => { x with tp := { x.tp with tstat := x.tp.tstat ||| 1#5 } }
  match s.launchOfCore c.val with
  | none => rej s
  | some (k, l) =>
    match s.image l with
    | none => rej s
    | some h =>
      if fld v 15 0 = l.phase && decide (l.phase < h.phases.length) then
        s.setLaunch k { l with voted := if (mapFind c.val l.voted).isSome then l.voted else mapSet c.val s.tide l.voted }
      else rej s

/-- TVOTE (R410): an OUT of TVOTE. -/
def execTvote (c : CoreId) (v : Word) (s : State) : Out := .next (outPort c privRuntime 0x1006 (fun s => s.tvote c v) s)

/-- TWAKE_EXPIRY (R388): the TIDE line, which TWAKE and the tide give at any time, is asserted and ends the core's WAIT. -/
def execTwakeExpiry (c : CoreId) (s : State) : Out :=
  .next (
    let t := (s.core c).tp
    if t.wakeEn && t.wakeTick.setWidth 64 ≤ s.tide then s.endWait c else s)

/-- Whether the device is ready at the boundary (R410): a TVOTE of its tick or later is for the next check. -/
def Launch.ready (l : Launch) (h : ImageHeader) : Bool :=
  (l.cores.all fun c => (mapFind c l.voted).any fun t => t < l.boundary h) && (l.loaded h).all fun x => h.phaseOf x.2 != l.phase || l.runDone x

/-- A launch with a phase under way: agreed, not failed, not stopped. -/
def Launch.phaseRuns (l : Launch) (h : ImageHeader) : Bool :=
  l.agreed && l.failure.isNone && l.stop.isNone && decide (l.phase < h.phases.length)

/-- Runs `f` on launch record `n` and its image. -/
def State.onLaunch (s : State) (n : BitVec 6) (f : Nat → Launch → ImageHeader → State) : State :=
  match s.launch n.toNat with
  | none => s
  | some l =>
    match s.image l with
    | some h => if s.powered then f n.toNat l h else s
    | none => s

/-- The VOTE of a device (Table 13.9). -/
def Launch.voteCell (l : Launch) (h : ImageHeader) (ready : Bool) : Cell :=
  mkCell cellVote l.key (l.boundary h) h.rank (BitVec.ofNat 128 (l.phase % 2 ^ 16 + (if ready then 2 ^ 16 else 0)))

/-- VOTE_SAMPLE (R410, R411): at the effective boundary, readiness is sampled once and sent toward rank 0. -/
def execVoteSample (launch : BitVec 6) (s : State) : Out :=
  .next (s.onLaunch launch fun k l h =>
    if !l.phaseRuns h || l.sampled || s.tide < l.boundary h then s
    else
      let ready := l.ready h
      let s := if ready then s else s.tstatLaunch l 4#5
      let s := s.setLaunch k { l with sampled := true }
      let x := l.voteCell h ready
      if h.rank = 0 || !spans h then s.recordVote k h x else s.toRank0 h x)

/-- Ends a launch's phases with OVERRUN or NO_OUTCOME: a coast-down, or for a launch that holds no Strait slots its failure (log 51). -/
def State.phaseFails (s : State) (k : Nat) (l : Launch) (h : ImageHeader) (reason : BitVec 8) : State :=
  if spans h then s.startCoast k reason
  else
    (s.tstatLaunch l (if reason = 3#8 then 16#5 else 0#5)).failLaunch k clsStrait (straitDetail reason.toNat h.rank 0)

/-- DECISION_TICK (R411): rank 0 floods the OUTCOME of the boundary, or COAST with OVERRUN. -/
def execDecisionTick (launch : BitVec 6) (s : State) : Out :=
  .next (s.onLaunch launch fun k l h =>
    let top := topLevel h
    let tick := l.boundary h + word (voteWindow top) - word (propBound top)
    if !l.phaseRuns h || (h.rank != 0 && spans h) || l.outcome.isSome || !l.sampled || s.tide < tick then s
    else
      let all := decide (shapeRanks h ≤ (l.votes.filter fun v => v.2).length)
      let p := (l.phaseNow h).getD { s := 0, b := 0, maxSlip := 0, mark := false, elastic := false, rsv := 0#46 }
      if !all && p.maxSlip ≤ l.phaseSlips then s.phaseFails k l h 3#8
      else
        let o : HeldOutcome := { slip := !all, commit := all && p.mark }
        let s := s.setLaunch k { l with outcome := some o }
        if spans h then
          s.flood h none (mkCell cellOutcome l.key (l.boundary h) 0
            (BitVec.ofNat 128 (l.phase + (if o.slip then 2 ^ 16 else 0) + (if o.commit then 2 ^ 17 else 0))))
        else s)

/-- The mark record of Table 13.13, as four words. -/
def Launch.markRecord (l : Launch) (h : ImageHeader) (commit : Word) : List Byte :=
  leBytes 8 (l.phase % 2 ^ 16 * 2 ^ 48 + l.timing.slip % 2 ^ 32) ++ leBytes 8 l.key.toNat ++ leBytes 8 (l.boundary h).toNat ++
    leBytes 8 commit.toNat

/-- A launch that begins its next phase check after a slip (R411, R412). -/
def Launch.slipped (l : Launch) : Launch :=
  { l with
    offset := l.offset + 1024, phaseSlips := l.phaseSlips + 1, sampled := false, votes := [], outcome := none
    timing := { l.timing with slip := l.timing.slip + 1 } }

/-- A launch that has ended its phase (R411). -/
def Launch.nextPhase (l : Launch) (commit : Bool) : Launch :=
  { l with
    phase := l.phase + 1, phaseSlips := 0, sampled := false, votes := [], voted := [], outcome := none
    mark := if commit then some l.phase else l.mark }

/-- OUTCOME_APPLY (R411, R414, R418): at B + V a slip moves the launch by 1,024 ticks, a commit writes the mark record and ends the phase; with
no outcome a coast-down starts; a stop at or before B + V voids it, and one after it does not, even where the device's own failure began
it. -/
def execOutcomeApply (launch : BitVec 6) (s : State) : Out :=
  .next (s.onLaunch launch fun k l h =>
    let at_ := l.boundary h + word (voteWindow (topLevel h))
    let void := match l.stop with
      | some x => x.tc ≤ at_
      | none => false
    if !l.agreed || (l.failure.isSome && l.stop.isNone) || void || h.phases.length ≤ l.phase || s.tide < at_ then s
    else
      match l.outcome with
      | none => if l.failure.isSome then s else s.phaseFails k l h 4#8
      | some o =>
        if o.slip then (s.setLaunch k l.slipped).tstatLaunch l 2#5
        else
          let s := s.setLaunch k (l.nextPhase o.commit)
          if o.commit then
            (s.harbourWrite l.ctx (h.markLog.toNat + 32 * (l.phase % h.markSlots)) (l.markRecord h at_)).getD s
          else s)

/-- START_TIMEOUT (R409): no agreed START_TICK within 1 s of dispatch. -/
def execStartTimeout (launch : BitVec 6) (s : State) : Out :=
  .next (s.onLaunch launch fun k l h =>
    if l.agreed || l.failure.isSome || l.stop.isSome || s.since l.dispatchTide < second then s
    else s.failLaunch k clsStrait (straitDetail 0x10 h.rank 0) false)

/-! ### Coast-down (R416-R418) -/

/-- COAST_STOP (R417): at tc the launch's DATA flits end, and its ports coast. -/
def execCoastStop (launch : BitVec 6) (s : State) : Out :=
  .next (s.onLaunch launch fun k l _ =>
    match l.stop with
    | some x => if l.stopped || s.tide < x.tc then s else (s.setLaunch k { l with stopped := true }).settlePorts
    | none => s)

/-- COAST_UNLOAD (R417, R454): at tc and the drain bound, the runs are unloaded and the launch ends in the STRAIT class. -/
def execCoastUnload (launch : BitVec 6) (s : State) : Out :=
  .next (s.onLaunch launch fun k l h =>
    match l.stop with
    | none => s
    | some x =>
      if s.tide < x.tc + word (drainBound (topLevel h)) then s
      else
        let d := straitDetail x.reason.toNat x.origin.toNat 0
        let s := s.abortWindows k
        let s := s.setLaunch k
          { l with stopped := true, unloaded := true, failure := some { result := failWord clsStrait d, tide := s.tide } }
        let s := s.log 1#8 0x1000#16 (BitVec.ofNat 16 l.queue) l.ctx [l.id, failWord clsStrait d]
        (s.tstatLaunch l (if x.reason = 3#8 then 24#5 else 8#5)).endLaunch k)

/-! ### The tide (R390, R391) -/

/-- The newest estimate of the parent's tide against the device's own, and the mean of the last 256. -/
def State.tideError (s : State) (p : PortId) : Int :=
  let t := s.port p
  (t.peerTide + t.d.setWidth 64 - t.lastSide).toInt

/-- The launches of a level (R391). -/
def State.launchesAt (s : State) (lv : Nat) : List Nat :=
  s.hb.launches.filterMap fun l =>
    match s.image l.2 with
    | some h => if topLevel h = lv && !l.2.unloaded then some l.1 else none
    | none => none

/-- Moves the tide forward, and the ports' marks of it with it. -/
def State.stepTide (s : State) (n : Word) : State :=
  { s with
    tide := s.tide + n
    strait := { s.strait with
      errors := []
      ports := s.strait.ports.map fun t => { t with lastSide := t.lastSide + n, failedAt := t.failedAt + n } } }

/-- TIDE_ADJUST (R390, R391): the error joins the mean over 256 ticks; away from SCHEDULED and COASTING ports a device more than one tick
behind steps forward by the mean, in whole ticks (log 206). Slewing and holding change how long a tick lasts, not the count. A level whose skew the mean has exceeded
twice over for 256 ticks coasts its launches down. -/
def execTideAdjust (s : State) : Out :=
  .next (
    match s.strait.parent with
    | none => s
    | some p =>
      if !s.powered then s
      else
        let es := (s.strait.errors ++ [s.tideError p]).drop (s.strait.errors.length + 1 - 256)
        let sum := es.foldl (· + ·) 0
        let full := es.length = 256
        let exceeds (lv : Nat) : Bool := full && decide (512 * skewBound lv < sum.natAbs)
        let skew : Vector Nat 4 := s.strait.skew.mapFinIdx fun i n _ => if exceeds i then n + 1 else 0
        let s := { s with strait := { s.strait with errors := es, skew := skew } }
        let busy := s.strait.ports.any fun t => t.state = 3#3 || t.state = 4#3
        let s := [1, 2, 3].foldl (fun s lv =>
          if 256 ≤ skew.get (Fin.ofNat 4 lv) then (s.launchesAt lv).foldl (fun s k => s.startCoast k 6#8) s else s) s
        if full && !busy && 256 < sum then s.stepTide (BitVec.ofInt 64 (sum / 256)) else s)

end Sys2Proof.Machine
end

