-- ==== Sys2Proof/Machine/Commands.lean ====
section
/-! DEFINITION. Harbour commands over contexts, faults, frames, reports, partitions and power (R308, R371-R386), and EPOCH_RETIRE (R312). -/

namespace Sys2Proof.Machine

/-! ### Fault records (R308, R376) -/

/-- Fails the launch of every waiter of a record, and ends the ferry descriptors among them (R308, R319). -/
def State.failWaiters (s : State) (r : FaultRec) (timeout : Bool) : State :=
  let reason := if timeout then 5 else 7
  r.waiters.foldl (fun s w =>
    let c := coreOf w.core
    let d := xlateDetail reason r.va
    let s := if w.cls = clsStraitWaiter then s.failLaunch w.core clsTranslation d else s.failCore w.core clsTranslation d
    if w.cls = 0 || w.cls = clsStraitWaiter then s
    else
      let mine := (s.isle (isleOf c)).ferries.filter fun f =>
        f.2.core == w.core && f.2.stream == w.stream && f.2.waitAt == some (r.va / 65536)
      mine.foldl (fun s f =>
        match (s.streamOf c w.stream).find f.2.seq with
        | some x => if x.phase = .ended then s else s.ferryFail c w.stream x (if timeout then feFaultTimeout else feFault)
        | none => s) s) s

/-- Resolves record `id` as FAIL. -/
def State.resolveFail (s : State) (id : Nat) (r : FaultRec) (timeout : Bool) : State :=
  State.drainFaults 256 ((s.updHb fun h => { h with faults := mapErase id h.faults }).failWaiters r timeout)

/-- Resolves record `id` as REPLAY: its waiters translate again (R307, R308). -/
def State.resolveReplay (s : State) (id : Nat) (r : FaultRec) : State :=
  let s := s.updHb fun h => { h with faults := mapErase id h.faults }
  let s := r.waiters.foldl (fun s w =>
    if w.cls = 0 then s.updSc (coreOf w.core) fun x => { x with run := if x.run = .faultWait then .running else x.run }
    else if w.cls = clsStraitWaiter then s.redeliver w.core
    else s) s
  State.drainFaults 256 s

/-- FAULT_RESOLVE with its action (R308, R376): the other action's row does nothing. -/
def State.faultResolve (s : State) (q : QueueId) (fail : Bool) : State :=
  match s.head q with
  | none => s
  | some e =>
    if e[1].getLsbD 24 != fail then s
    else s.runHead q opFaultResolve fun s e =>
      if (s.ctx e.ctx).isNone then s.complete q stBadContext 0#64 0#64
      else
        let id := fld e[1] 23 16
        match mapFind id s.hb.faults with
        | none => s.complete q stNoRecord 0#64 0#64
        | some r =>
          if r.ctx != e.ctx then s.complete q stNoRecord 0#64 0#64
          else
            let s := if fail then s.resolveFail id r false else s.resolveReplay id r
            s.complete q stOk (word r.waiters.length) 0#64

/-- FAULT_RESOLVE, REPLAY. -/
def execFaultResolveReplay (q : QueueId) (s : State) : Out := .next (s.faultResolve q false)

/-- FAULT_RESOLVE, FAIL. -/
def execFaultResolveFail (q : QueueId) (s : State) : Out := .next (s.faultResolve q true)

/-- FAULT_TIMEOUT (R308): a record that has waited for its context's FAULT_TIMEOUT is resolved as FAIL. -/
def execFaultTimeout (id : BitVec 8) (s : State) : Out :=
  .next (
    match mapFind id.toNat s.hb.faults with
    | some r => if s.harbourRuns && s.passedUs r.firstTide (1000 * r.timeout) then s.resolveFail id.toNat r true else s
    | none => s)

/-! ### CTX_RESET, CTX_CLOSE and EPOCH_RETIRE (R312, R371, R372) -/

/-- Whether a graph slot belongs to a context. -/
def State.slotOf (s : State) (ctx slot : Nat) : Bool := (s.graph slot).any fun g => g.ctx = ctx

/-- Flushes the committed launches of a context that have not been dispatched (R371 step 1). -/
def State.flushLaunches (s : State) (ctx : Nat) : State :=
  let es := s.waitingEntries.filter fun x => x.2.2.op == opGraphLaunch && s.slotOf ctx x.2.2.slot
  let nums := es.map fun x => (x.1, (s.queue (Fin.ofNat 6 x.1)).started + BitVec.ofNat 32 x.2.1)
  let s := nums.foldl (fun s x => s.dropEntry (Fin.ofNat 6 x.1) x.2 stFlushed 0#64) s
  (List.finRange 6).foldl State.step1 s

/-- The steps of CTX_RESET (R371), and the dispatched launches that it ends. -/
def State.resetContext (s : State) (ctx : Nat) : State × Nat :=
  let s := s.flushLaunches ctx
  let ls := s.hb.launches.filter fun l => l.2.ctx = ctx
  let s := ls.foldl (fun s l => (s.startCoast l.1 5#8).failLaunch l.1 clsContext (BitVec.ofNat 56 ctx)) s
  let rs := s.hb.faults.filter fun r => r.2.ctx = ctx
  let s := rs.foldl (fun s r => s.resolveFail r.1 r.2 false) s
  (s.unbindWhere (s.slotOf ctx), ls.length)

/-- Whether every launch of a context has ended and no mooring is bound to a graph of it. -/
def State.contextQuiet (s : State) (ctx : Nat) : Bool :=
  (s.hb.launches.all fun l => l.2.ctx != ctx) && (s.boundWhere (s.slotOf ctx)).isEmpty

/-- The end of CTX_CLOSE (R372): frames still tagged are released, regions dropped, slots emptied; the pool returns and the context
closes. -/
def State.closeContext (s : State) (ctx : Nat) : State :=
  let s := s.releaseFrames ctx fun _ => true
  let rs := match s.ctx ctx with
    | some x => x.regions.map Prod.fst
    | none => []
  let s := rs.foldl (fun s r => s.dropRegion ctx r) s
  s.updHb fun h => { h with graphs := h.graphs.filter fun g => g.2.ctx != ctx, ctxs := mapErase ctx h.ctxs }

/-- What a running CTX_RESET or CTX_CLOSE does once its context is quiet. -/
def State.contextNext (s : State) (q : QueueId) (close : Bool) (r : Running) : State :=
  let ctx := r.entry.ctx
  if !s.contextQuiet ctx then s
  else if !close then s.finishRunning q stOk (word r.count) 0#64
  else
    match s.ctx ctx with
    | some x => if x.unmapping.isEmpty then s.unmapRange q ctx x 0 vaTop false false true true else s
    | none => s

/-- CTX_RESET and CTX_CLOSE: the entry starts, and goes on once its context is quiet. -/
def State.contextCommand (s : State) (q : QueueId) (op : Nat) : State :=
  match (s.queue q).running with
  | some r => if r.entry.op = op then s.contextNext q (op = opCtxClose) r else s
  | none => s.runHead q op fun s e =>
    if (s.ctx e.ctx).isNone then s.complete q stBadContext 0#64 0#64
    else
      let (s, n) := s.resetContext e.ctx
      let s := s.startHead q n
      match (s.queue q).running with
      | some r => s.contextNext q (op = opCtxClose) r
      | none => s

/-- CTX_RESET (R371). -/
def execCtxReset (q : QueueId) (s : State) : Out := .next (s.contextCommand q opCtxReset)

/-- CTX_CLOSE (R372). -/
def execCtxClose (q : QueueId) (s : State) : Out := .next (s.contextCommand q opCtxClose)

/-- EPOCH_RETIRE (R312 step 7): once no request of the retired epoch is outstanding, RELEASE is applied and the UNMAP completes. -/
def execEpochRetire (ctx : BitVec 12) (s : State) : Out :=
  .next (
    match s.ctx ctx.toNat with
    | none => s
    | some x =>
      match x.unmapping with
      | [] => s
      | u :: t =>
        if !s.harbourRuns || s.epochBusy ctx.toNat u.epoch then s
        else
          let q : QueueId := Fin.ofNat 6 u.queue
          let s := (s.setCtx ctx.toNat { x with unmapping := t }).releaseRanges ctx.toNat u.ranges
          let s := s.trace 5 (ctx.setWidth 16) 2#16 (word u.cleared) (u.epoch.setWidth 64)
          if u.closing then
            let n := ((s.queue q).running.map Running.count).getD 0
            (s.closeContext ctx.toNat).finishRunning q stOk (word n) 0#64
          else s.finishRunning q stOk (word u.cleared) 0#64)

/-! ### RETIRE (R296, R377) -/

/-- RETIRE (R377). -/
def execRetire (q : QueueId) (s : State) : Out :=
  .next (s.runHead q opRetire fun s e =>
    let f := fld e[2] 41 16
    let t := s.frameTag f
    if s.hb.ctxs.any fun x => holdsFrame (s.mappedOf x.2) f then s.complete q stMapped 0#64 0#64
    else if s.framesPooled f f then s.complete q stBusy 0#64 0#64
    else if t.retired then s.complete q stOk 0#64 0#64
    else
      let s := s.setFrameTag f { t with retired := true }
      ({ s with flash := { s.flash with retired := addOnce f s.flash.retired } }).complete q stOk 1#64 0#64)

/-! ### COPY (R378) -/

/-- What stopped a copy: its ferry status and VA, and the state with what the failure records. Every translation fault of a COPY is fatal and
posts its record (R309), whose waiter no core or ferry of a launch names (log 204); no launch fails. -/
def State.copyFailure {α : Type} (s : State) (ctx : Nat) (m : Mv α) : State × Nat × Nat :=
  match m with
  | .ok s _ => (s, feOk, 0)
  | .fault va r _ w => (s.postFatal ctx va r [{ cls := clsStraitWaiter, core := 64, stream := 0, write := w, read := !w }], feFault, va)
  | .refused va dpa => (s.crossAlarm ctx dpa, feCross, va)
  | .bad va dpa w => (if w then s else s.memAlarm dpa, feMemory, va)
  | .badWord _ _ => (s, feMemory, 0)
  | .cross _ => (s, feCross, 0)
  | .order s => (s, feOrder, 0)
  | .full => (s, feOk, 0)

/-- A source range of a copy: read now, with the bytes that it held in `s0`, before the copy wrote any. -/
def State.readFrom (s : State) (s0 : State) (ctx va n : Nat) : Mv (List Byte) :=
  (s.readVa ctx va n privTask).bind fun s bs =>
    match s0.readVa ctx va n privTask with
    | .ok _ old => .ok s old
    | _ => .ok s bs

/-- Moves pieces that cross no page of either side: the state, the bytes complete, and the failure if one stopped it. `s0` is the state in which
the copy began, whose source bytes it moves. -/
def State.copyPieces (s0 : State) (ctx src dst len : Nat) (s : State) : Nat → Nat → State × Nat × Option (Nat × Nat)
  | 0, done => (s, done, none)
  | fuel + 1, done =>
    if len ≤ done then (s, done, none)
    else
      let a := src + done
      let b := dst + done
      let n := min (len - done) (min (65536 - a % 65536) (65536 - b % 65536))
      match s.readFrom s0 ctx a n with
      | .ok s bs =>
        match s.writeVa ctx b privTask bs with
        | .ok s _ => s0.copyPieces ctx src dst len s fuel (done + n)
        | m =>
          let (s, st, va) := s.copyFailure ctx m
          (s, done, some (st, va))
      | m =>
        let (s, st, va) := s.copyFailure ctx m
        (s, done, some (st, va))

/-- The VAs that both ranges of a copy hold: first and length. -/
def copyOverlap (src dst len : Nat) : Nat × Nat := (max src dst, min (src + len) (dst + len) - max src dst)

/-- The overlapped bytes of a copy are undefined, however it ends (R378). -/
def State.scrambleOverlap (s : State) (ctx src dst len : Nat) : State :=
  let o := copyOverlap src dst len
  if o.2 = 0 then s else s.scrambleVa ctx o.1 o.2 privTask

/-- COPY (R378). -/
def execCopy (q : QueueId) (s : State) : Out :=
  .next (s.runHead q opCopy fun s e =>
    let ctx := e.ctx
    let src := e[2].toNat
    let dst := e[3].toNat
    let len := fld e[4] 36 0
    if (s.ctx ctx).isNone then s.complete q stBadContext 0#64 0#64
    else if 2 ^ 36 < len then s.complete q stLength 0#64 0#64
    else if s.deepBroken ctx dst len then s.complete q stUnit 0#64 0#64
    else
      match s.copyPieces ctx src dst len s (2 * (len / 65536) + 4) 0 with
      | (s, n, none) => (s.scrambleOverlap ctx src dst len).complete q stOk (word n) 0#64
      | (s, n, some (st, va)) =>
        ((s.scrambleOverlap ctx src dst len).scrambleVa ctx (dst + n) (len - n) privTask).complete q stCopyFailed (word n) (word (st * 2 ^ 56 + va % 2 ^ 56)))

/-! ### QUERY (R379, Table 12.6) -/

/-- The deepest idle state that a tolerance in µs allows (Table 14.4, R440). -/
def idleAllowed (tol : Nat) : Nat :=
  if 400000 ≤ tol then 4 else if 15000 ≤ tol then 3 else if 80 ≤ tol then 2 else if 2 ≤ tol then 1 else 0

/-- The number with bit i set where `p i`, over i below `n`. -/
def bitsWhere (n : Nat) (p : Nat → Bool) : Nat := (List.range n).foldl (fun a i => if p i then a + 2 ^ i else a) 0

/-- DEVICE, 21 words. -/
def State.queryDevice (s : State) : List Word :=
  let avail := bitsWhere 1200 fun d => !s.unavailable (coreOf d)
  let count := (List.range 1200).countP fun d => avail.testBit d
  let quar := (List.range 1200).countP fun d => (s.sc (coreOf d)).run = .quarantined
  let retired := s.frames.countP fun f => f.2.retired
  let parts := s.hb.partition.toList.zipIdx.foldl (fun a x => a + x.1 * 16 ^ x.2) 0
  word (s.power.profile * 2 ^ 40 + quar * 2 ^ 16 + count) :: word (sat 32 retired * 2 ^ 32 + parts) ::
    (List.range 19).map fun i => word (nbits avail (64 * i) 64)

/-- The module's draw in W, as the mean over the duty windows of the last second (Table 12.6), rounded down (log 114). -/
def State.meanDraw (s : State) : Nat :=
  let ds := (s.power.draws.filter fun x => s.since x.1 < second).map Prod.snd
  ds.sum / max 1 ds.length

def State.queryPower (s : State) : List Word :=
  let p := s.power
  [word (p.profile * 2 ^ 48 + sat 16 (s.meanDraw) * 2 ^ 32 + p.limit * 2 ^ 16 + p.capEff), word (idleAllowed p.tolerance * 2 ^ 32 + p.tolerance)]

/-- The words of a class, `none` for a reserved one. -/
def State.query (s : State) (cls : Nat) : Option (List Word) :=
  match cls with
  | 0 => some [feat0, feat1]
  | 1 => some s.queryDevice
  | 2 => some [word s.deep.hostWritten, word s.deep.mediaWritten, word s.deep.wear, word s.deep.spare, word s.deep.rebuilt]
  | 3 => some s.queryPower
  | 4 => some [s.hb.discarded, s.hb.roceNaks]
  | 5 => some (match s.boot.running with
      | some f => [word f.version, word f.svn]
      | none => [0#64, 0#64])
  | 6 => some ((List.range 8).map fun p =>
      word ((s.hb.ctxs.countP fun x => x.2.part = p) * 2 ^ 32 + (bitsWhere 8 fun i => s.inPart p i) * 2 ^ 8 +
        s.hb.staging.get (Fin.ofNat 8 p)))
  | _ => none

/-- Writes a result into an entry's buffer, or says with what status it cannot (R362): LENGTH_OVER, BAD_CONTEXT, BAD_HANDLE in order.
With LEN 0, neither CTX nor the handle is examined. -/
def State.toBuffer (s : State) (e : Entry) (limit : Nat) (bs : List Byte) : State × Nat :=
  let len := fld e[3] 31 0
  if limit < len then (s, stLength)
  else if len = 0 then (s, stOk)
  else if (s.ctx e.ctx).isNone then (s, stBadContext)
  else
    match s.buffer e.ctx e[2] len with
    | none => (s, stBadHandle)
    | some va =>
      if !s.presentAll e.ctx va len then (s, stBadHandle)
      else
        match s.harbourWrite e.ctx va (bs.take len) with
        | some s => (s, stOk)
        | none => (s, stBadHandle)

/-- Little-endian bytes of words. -/
def wordBytes (ws : List Word) : List Byte := ws.flatMap fun w => leBytes 8 w.toNat

/-- QUERY (R379). -/
def execQuery (q : QueueId) (s : State) : Out :=
  .next (s.runHead q opQuery fun s e =>
    match s.query (fld e[1] 23 16) with
    | none => s.complete q stBadValue 0#64 0#64
    | some ws =>
      let (s, st) := s.toBuffer e 0x10000 (wordBytes ws)
      if st = stOk then s.complete q stOk (ws.getD 0 0#64) (ws.getD 1 0#64) else s.complete q st 0#64 0#64)

/-! ### LOG_READ and TRACE_READ (R380, Tables 15.7, 15.8) -/

/-- A log record's 64 bytes. -/
def LogRec.words (r : LogRec) : List Word :=
  [word r.seq, r.tide, (r.cls.setWidth 64 <<< 56) ||| (r.code.setWidth 64 <<< 32) ||| (r.source.setWidth 64 <<< 16) ||| word (r.ctx % 4096)] ++
    (List.range 5).map fun i => r.data.getD i 0#64

/-- Completes a read of numbered records: those from FROM that fit, the next number to read, and how many numbers from FROM on are no
longer held. -/
def State.readRecords (s : State) (q : QueueId) (e : Entry) (size next : Nat) (held : List (Nat × List Word)) : State :=
  let from_ := e[4].toNat
  let n := fld e[3] 31 0 / size
  let out := (held.filter fun r => from_ ≤ r.1).take n
  let upTo := match out.getLast? with
    | some r => r.1 + 1
    | none => if n = 0 then ((held.map Prod.fst).find? fun k => from_ ≤ k).getD (max from_ next) else max from_ next
  let lost := (upTo - from_) - out.length
  let (s, st) := s.toBuffer e 0x100000 (wordBytes (out.flatMap Prod.snd))
  if st = stOk then s.complete q stOk (word upTo) (word (sat 32 lost)) else s.complete q st 0#64 0#64

/-- LOG_READ (R380). -/
def execLogRead (q : QueueId) (s : State) : Out :=
  .next (s.runHead q opLogRead fun s e => s.readRecords q e 64 s.rep.logNext (s.rep.log.map fun r => (r.seq, r.words)))

/-- TRACE_READ (R380, R465). -/
def execTraceRead (q : QueueId) (s : State) : Out :=
  .next (s.runHead q opTraceRead fun s e =>
    let r := fld e[1] 19 16
    if h : r < 7 then
      let g := s.rep.traces.get ⟨r, h⟩
      s.readRecords q e 32 g.next (g.entries.map fun x => (x.1, [x.2.1, x.2.2.1, x.2.2.2.1, x.2.2.2.2]))
    else s.complete q stBadValue 0#64 0#64)

/-! ### PART_SET and REG_SET (R280, R381, R382) -/

/-- MiB of a staging code. -/
def stagingOf (code : Nat) : Nat := 4 * code

/-- PART_SET (R381). -/
def execPartSet (q : QueueId) (s : State) : Out :=
  .next (s.runHead q opPartSet fun s e =>
    let part (i : Nat) : Nat := fld e[1] (4 * i + 3) (4 * i)
    let code (p : Nat) : Nat := fld e[2] (2 * p + 1) (2 * p)
    let isle8 := List.range 8
    let changed := isle8.filter fun p =>
      (isle8.any fun i => (part i == p) != s.inPart p i) || stagingOf (code p) != s.hb.staging.get (Fin.ofNat 8 p)
    if isle8.any fun i => 8 ≤ part i || code i = 3 then s.complete q stBadValue 0#64 0#64
    else if s.hb.ctxs.any fun x => changed.contains x.2.part then s.complete q stBusy 0#64 0#64
    else
      (s.updHb fun h => { h with
        partition := Vector.ofFn fun i => part i.val
        staging := Vector.ofFn fun p => stagingOf (code p.val)
        regulators := h.regulators.filter fun r => !changed.contains (r.1 / 64) }).complete q stOk 0#64 0#64)

/-- The full RATE of a bucket (Table 9.13): Near, Mid read, Mid write, Deep read, Deep write. -/
def fullRate (b : Nat) : Nat := [3500, 256, 256, 230, 40].getD b 0

/-- The key of a bucket: partition, bucket, isle (8 for Deep). -/
def bucketKey (p b i : Nat) : Nat := p * 64 + b * 9 + i

/-- A bucket in force, at its default when nothing has set it. -/
def State.bucket (s : State) (p b i : Nat) : Regulator :=
  let f := if 3 ≤ b then fullRate b * (s.partIsles p).length / 8 else 0
  mapGet { rate := fullRate b, burst := 4096, floor := f } (bucketKey p b i) s.hb.regulators

/-- REG_SET (R382). -/
def execRegSet (q : QueueId) (s : State) : Out :=
  .next (s.runHead q opRegSet fun s e =>
    let isles := (List.range 8).filter fun i => e[1].getLsbD (16 + i)
    let b := fld e[1] 7 4
    let p := fld e[1] 2 0
    let r : Regulator := { rate := fld e[2] 31 0, burst := fld e[2] 47 32, floor := fld e[3] 31 0 }
    let deep := 3 ≤ b
    let others := ((List.range 8).filter fun x => x != p).map fun x => (s.bucket x b 8).floor
    let bad := 5 ≤ b || (deep != isles.isEmpty) || fullRate b < r.rate || r.burst < r.rate || r.rate < r.floor ||
      (deep && fullRate b < others.foldl (· + ·) r.floor)
    if bad then s.complete q stBadValue 0#64 0#64
    else if isles.any fun i => !s.inPart p i then s.complete q stPartition 0#64 0#64
    else
      let keys := if deep then [bucketKey p b 8] else isles.map fun i => bucketKey p b i
      (s.updHb fun h => { h with regulators := keys.foldl (fun m k => mapSet k r m) h.regulators }).complete q stOk 0#64 0#64)

/-! ### POWER_TOL and POWER_CAP (R383, R384) -/

/-- POWER_TOL (R383). -/
def execPowerTol (q : QueueId) (s : State) : Out :=
  .next (s.runHead q opPowerTol fun s e =>
    let t := fld e[1] 31 0
    ({ s with power := { s.power with tolerance := t } }).complete q stOk (word (idleAllowed t)) 0#64)

/-- Whether ORDER names each share once. -/
def orderOk (o : Nat) : Bool := [0, 1, 2].all fun x => [nbits o 0 2, nbits o 2 2, nbits o 4 2].contains x

/-- POWER_CAP (R384). -/
def execPowerCap (q : QueueId) (s : State) : Out :=
  .next (s.runHead q opPowerCap fun s e =>
    let cap := fld e[1] 15 0
    let o := fld e[2] 5 0
    let f : Shares := { compute := fld e[3] 47 32, memory := fld e[3] 31 16, links := fld e[3] 15 0 }
    let force := min cap s.power.limit
    if e[1].getLsbD 16 then
      if cap != 0 || e[2] != 0#64 || e[3] != 0#64 then s.complete q stBadValue 0#64 0#64
      else
        let s := s.setPower { s.power with cap := none, order := 0x24#6, floors := none }
        s.complete q stOk (word s.power.limit) 0#64
    else if !orderOk o || force < f.links + f.memory + f.compute then s.complete q stBadValue 0#64 0#64
    else if cap < 350 then s.complete q stCapBelow 0#64 0#64
    else
      let s := s.setPower { s.power with cap := some force, order := BitVec.ofNat 6 o, floors := some f }
      s.complete q stOk (word force) 0#64)

end Sys2Proof.Machine
end

