-- ==== Sys2Proof/Machine/Roce.lean ====
section
/-! DEFINITION. The RoCE v2 responder (R302, R355, R441, R476). -/

namespace Sys2Proof.Machine

/-- Puts an answer on a path other than HMP. -/
def State.answer (s : State) (r : Reply) : State := { s with io := { s.io with replies := s.io.replies ++ [r] } }

/-- Sends a NAK and counts it (Table 12.6). -/
def State.roceNak (s : State) (r : Reply) : State := (s.updHb fun h => { h with roceNaks := satInc h.roceNaks }).answer r

/-- The VA that `n` bytes at a remote address reach with a key (R302): its generation is current, the address names the key's region,
and every byte's handle converts there. -/
def State.roceVa (s : State) (key : BitVec 32) (addr : Word) (off n : Nat) : Option Nat :=
  let ctx := (key.extractLsb' 20 12).toNat
  let r := (key.extractLsb' 8 12).toNat
  if fld addr 59 48 != r || (key.extractLsb' 0 8).toNat != s.generation ctx r then none
  else
    match s.handle ctx addr with
    | some (va, left) => if off + n ≤ left then some (va + off) else none
    | none => none

/-- What a failed access of a packet records (R283, R297). -/
def State.roceFailed {α : Type} (s : State) (ctx : Nat) (m : Mv α) : State :=
  match m with
  | .refused _ dpa => s.crossAlarm ctx dpa
  | .bad _ dpa w => if w then s else s.memAlarm dpa
  | _ => s

/-- The context of a key. -/
def keyCtx (key : BitVec 32) : Nat := (key.extractLsb' 20 12).toNat

/-- Writes packets in order; the first that fails moves no byte and is answered with the remote-access NAK. -/
def State.rocePackets (s : State) (qp : Nat) (key : BitVec 32) (addr : Word) (off : Nat) : List (List Byte) → State
  | [] => s.answer (.roceAck qp)
  | bs :: t =>
    match s.roceVa key addr off bs.length with
    | none => s.roceNak (.roceAccessNak qp)
    | some va =>
      if s.deepBroken (keyCtx key) va bs.length then s.roceNak (.roceAccessNak qp)
      else
        match s.writeVa (keyCtx key) va privTask bs with
        | .ok s _ => s.rocePackets qp key addr (off + bs.length) t
        | m => (s.roceFailed (keyCtx key) m).roceNak (.roceAccessNak qp)

/-- Reads `n` bytes in packets of at most `mtu`; `fuel` bounds the packets. -/
def State.roceRead (s : State) (qp : Nat) (key : BitVec 32) (addr : Word) (mtu : Nat) : Nat → Nat → Nat → State
  | 0, _, _ => s
  | fuel + 1, off, n =>
    if n = 0 then s
    else
      let k := min n mtu
      match s.roceVa key addr off k with
      | none => s.roceNak (.roceAccessNak qp)
      | some va =>
        match s.readVa (keyCtx key) va k privTask with
        | .ok s bs => (s.answer (.roceData qp bs)).roceRead qp key addr mtu fuel (off + k) (n - k)
        | m => (s.roceFailed (keyCtx key) m).roceNak (.roceAccessNak qp)

/-- Runs a request of an established connection; frames before the ready point are discarded (R476), and any request brings the device out
of S3 and S4 (R441). Under Clamp device memory is gone, and an access is refused. -/
def State.roce (s : State) (qp : BitVec 8) (body : State → QueuePair → State) : State :=
  match mapFind qp.toNat s.hb.qps with
  | none => s
  | some x =>
    if !s.harbourRuns then s
    else if s.lh.clamp != 0 then s.roceNak (.roceAccessNak qp.toNat)
    else body s.wake x

/-- RDMA_WRITE (R302). -/
def execRdmaWrite (qp : BitVec 8) (key : BitVec 32) (addr : BitVec 64) (data : List Byte) (s : State) : Out :=
  .next (s.roce qp fun s x => s.rocePackets qp.toNat key addr 0 (chunksOf x.mtu data.length data))

/-- RDMA_READ (R302); one of no bytes comes back empty. -/
def execRdmaRead (qp : BitVec 8) (key : BitVec 32) (addr : BitVec 64) (len : BitVec 32) (s : State) : Out :=
  .next (s.roce qp fun s x =>
    if len = 0#32 then s.answer (.roceData qp.toNat []) else s.roceRead qp.toNat key addr x.mtu (len.toNat / x.mtu + 1) 0 len.toNat)

/-- SEND (R355): SEND, atomic and other operations are refused with an invalid-request NAK. -/
def execSend (qp : BitVec 8) (s : State) : Out :=
  .next (
    match mapFind qp.toNat s.hb.qps with
    | none => s
    | some _ => if s.harbourRuns then (if s.lh.clamp != 0 then s else s.wake).roceNak (.roceInvalidNak qp.toNat) else s)

/-- CONNECTION_ESTABLISH (R355): a reliable connection with one of the three path MTUs, on a port that has an address (R507). -/
def execConnectionEstablish (qp : BitVec 8) (port : Bool) (mtu : BitVec 16) (s : State) : Out :=
  .next (
    if s.harbourRuns && s.hasIp port && [1024, 2048, 4096].contains mtu.toNat then
      (s.updHb fun h => { h with qps := mapSet qp.toNat { mtu := mtu.toNat, port := port } h.qps }).answer (.roceConnected qp.toNat)
    else s)

end Sys2Proof.Machine
end

