-- ==== Sys2Proof/Machine/Barriers.lean ====
section
/-! DEFINITION. Meanings of the barriers' commands, of reporting's timed commands and of self-tests (ch. 15). -/

namespace Sys2Proof.Machine

/-! ### The current limiter (R452) -/

/-- Whether an input current in hundredths of an ampere exceeds 1.10 × the module limit ÷ 48 V. -/
def overLimiter (limit amps100 : Nat) : Bool := decide (1100 * limit < 480 * amps100)

/-- Whether it lies below the module limit ÷ 48 V. -/
def underLimiter (limit amps100 : Nat) : Bool := decide (48 * amps100 < 100 * limit)

/-- LIMITER (R452): every core clock is gated; Harbour, while its processor runs (R448), ends every launch in the power class and raises
LIMITER. -/
def execLimiter (amps100 : Nat) (s : State) : Out :=
  .next (
    if !s.power.on || s.lh.limiter || !overLimiter (profileLimit s.power.profile) amps100 then s
    else
      let s := { s with lh := { s.lh with limiter := true } }
      let s :=
        if 2 ≤ s.lh.clamp then s
        else
          ((s.hb.launches.map Prod.fst).foldl (fun s k => s.failLaunch k clsPower (detail [(2, 48)])) s).alarm alarmLimiter 0#16
            (word amps100)
      s.settleCores allCores)

/-- LIMITER_RELEASE (R452). -/
def execLimiterRelease (amps100 : Nat) (s : State) : Out :=
  .next (
    if s.lh.limiter && underLimiter (profileLimit s.power.profile) amps100 then
      ({ s with lh := { s.lh with limiter := false } }).settleCores allCores
    else s)

/-! ### The Lighthouse (R446-R451) -/

/-- The stage that a trip code applies (Table 15.2): 3 is Shed. -/
def tripStage (code : BitVec 8) : Nat :=
  if code = 8#8 then 3 else if code = 5#8 || code = 6#8 || code = 7#8 then 2 else if 1#8 ≤ code && code ≤ 4#8 then 1 else 0

/-- Whether a trip's condition is met, as far as a reading and the state show it (Table 15.2): watts against the limit of the kind that
the Lighthouse decodes, eighths of a degree, the heartbeat's age, and for CLAMP_INEFFECTIVE a Clamp in force. -/
def State.tripMet (s : State) (code : BitVec 8) (reading : Nat) : Bool :=
  let limit := profileLimit s.lh.kind
  if code = 1#8 then decide (115 * limit < 100 * reading)
  else if code = 2#8 || code = 5#8 then decide (864 ≤ reading)
  else if code = 3#8 then decide (760 ≤ reading)
  else if code = 6#8 then s.passedUs s.lh.beat 250000
  else if code = 8#8 then (s.lh.clamp = 1 && decide (limit < reading)) || (s.lh.clamp = 2 && decide (450 < reading))
  else tripStage code != 0

/-- Stage 1 of Clamp closes an isle's open windows, and a core's lagoon is lost. -/
def Isle.clampWindows (x : Isle) : Isle := { x with windows := x.windows.map fun w => if w.2.opened then (w.1, w.2.abort) else w }
def Core.loseLagoon (x : Core) : Core := { x with sc := { x.sc with lagoon := [], lagoonBad := [] } }

/-- What stage 1 of Clamp loses (R447): Near, Mid, cove and lagoon contents. -/
def State.clampLoss (s : State) : State :=
  let s := { s with
    coves := []
    mem := s.mem.filter fun x => deepBase ≤ x.1
    marks := s.marks.filter fun b => deepBase ≤ 64 * b
    isles := s.isles.map Isle.clampWindows
    cores := s.cores.map fun (x : Nat × Core) => (x.1, x.2.loseLagoon) }
  s.updHb fun h => { h with moorings := [], unclean := [], freeing := [] }

/-- Harbour ends every dispatched launch in the safety class (R447). -/
def State.clampLaunches (s : State) (code : BitVec 8) : State :=
  (s.hb.launches.map Prod.fst).foldl (fun s k =>
    let s := s.failLaunch k clsSafety (code.setWidth 56) false
    if s.harbourRuns then s.endLaunch k else s) s

/-- LIGHTHOUSE_TRIP (R446-R450): the stage is applied and the trip recorded; the sideband hears of it at once. -/
def execLighthouseTrip (code : BitVec 8) (reading : BitVec 64) (s : State) : Out :=
  .next (
    if !s.power.on || tripStage code = 0 || !s.tripMet code reading.toNat then s
    else
      let stage := tripStage code
      let t : Trip := { code := code, stage := stage, tide := s.tide, reading := reading, posted := false }
      let first := s.lh.clamp = 0
      let l := s.lh
      let s := { s with lh :=
        { l with
          clamp := max l.clamp (min stage 2), shed := l.shed || stage = 3, code := code, count := l.count + 1
          trips := (l.trips ++ [t]).drop (l.trips.length - 15) } }
      let s := s.answer (.tripEvent t)
      if first then (s.clampLoss.clampLaunches code).settleCores allCores else s)

/-- HEARTBEAT (R446): Harbour writes its heartbeat while its processor runs. -/
def execHeartbeat (s : State) : Out :=
  .next (if s.power.on && s.lh.clamp < 2 then { s with lh := { s.lh with beat := s.tide } } else s)

/-- LIGHTHOUSE_SELF_CHECK (R451): a failed check raises LIGHTHOUSE_FAULT and ends later launches until module reset. -/
def execLighthouseSelfCheck (oscillatorOk supplyOk storeOk heartbeatOk : Bool) (s : State) : Out :=
  .next (
    if !s.power.on || 2 ≤ s.lh.clamp || (oscillatorOk && supplyOk && storeOk && heartbeatOk) then s
    else
      let bit (b : Bool) (n : Nat) : Nat := if b then 0 else 2 ^ n
      ({ s with lh := { s.lh with fault := true } }).alarm alarmLighthouse 0#16
        (word (bit oscillatorOk 0 + bit supplyOk 1 + bit storeOk 2 + bit heartbeatOk 3)))

/-! ### Timed reporting (R460, R463, R466) -/

/-- Whether an alarm identity closes (R460): its latest entry is acknowledged, and 1 s has passed since its last raise. -/
def State.alarmCloses (s : State) (a : Alarm) : Bool := a.acked && !a.pendingRepeat && decide (second ≤ s.since a.lastTide)

/-- ALARM_CLOSE (R460). -/
def execAlarmClose (source code : BitVec 16) (s : State) : Out :=
  .next (
    if !s.harbourRuns then s
    else s.updRep fun r =>
      { r with alarms := r.alarms.filter fun a => !(a.code = code && a.source = source && s.alarmCloses a) })

/-- Whether an event of kind `k` can be posted now. -/
def State.eventRoom (s : State) (k : Nat) : Bool := s.hb.events.room k && !s.hb.events.queued k

/-- LOG_NOTICE (R463): at most one a second, for the records of CRITICAL and ERROR class since the last; with no room in its reserve it
stays in its coalesced form (R459). -/
def execLogNotice (s : State) : Out :=
  .next (
    let r := s.rep
    let early := match r.noticeAt with
      | some t => decide (s.since t < second)
      | none => false
    match r.noticeFirst with
    | none => s
    | some n =>
      if !s.harbourRuns || early then s
      else if !s.eventRoom 5 then s.noteLoss id
      else
        (s.updRep fun r => { r with noticeFirst := none, noticeCrit := 0, noticeErr := 0, noticeAt := some s.tide }).postEvent
          (entry [5#64, word n, word (sat 16 r.noticeCrit * 2 ^ 16 + sat 16 r.noticeErr)]))

/-- The STORM entry of the interval that ends now (R466). -/
def State.stormEntry (s : State) : Entry :=
  let t := s.rep.storm
  let d (i : Fin 4) : Nat := sat 16 (t.drops.get i)
  entry
    [6#64, t.fromTide, s.tide, word (sat 32 t.coalesced * 2 ^ 32 + sat 32 t.overflowed),
      word (d 0 * 2 ^ 48 + d 1 * 2 ^ 32 + d 2 * 2 ^ 16 + d 3), word (sat 32 t.overwrites * 2 ^ 32 + t.rings.toNat),
      word (sat 32 s.hb.events.waiting.length)]

/-- STORM (R466): 1 s after the first loss, and every 1 s while losses continue; with no room the interval goes on into the next entry;
1 s without loss closes the period. -/
def execStorm (s : State) : Out :=
  .next (
    let t := s.rep.storm
    if !s.harbourRuns || !t.opened || s.since t.fromTide < second then s
    else
      let lossy := decide (s.since t.lastLoss ≤ s.since t.fromTide)
      let cleared : Storm :=
        { opened := s.since t.lastLoss < second, fromTide := s.tide, lastLoss := t.lastLoss, coalesced := 0, overflowed := 0,
          drops := Vector.replicate 4 0, overwrites := 0, rings := 0#7 }
      if !lossy then s.updRep fun r => { r with storm := { cleared with opened := false } }
      else if !s.eventRoom 6 then s
      else (s.updRep fun r => { r with storm := cleared }).postEvent s.stormEntry)

/-- The LIGHTHOUSE entry of the trip at place `j` of the store (Table 15.5). -/
def State.tripEntry (s : State) (j : Nat) (t : Trip) : Entry :=
  entry [7#64, t.tide, word (t.stage * 256 + t.code.toNat), t.reading, word ((s.lh.count - s.lh.trips.length + j) % 16)]

/-- Posts one LIGHTHOUSE event for each trip not yet posted, in trip order (R450). -/
def State.postTrips (s : State) : State :=
  let due := s.lh.trips.zipIdx.filter fun x => !x.1.posted
  let s := due.foldl (fun s x => s.postEvent (s.tripEntry x.2 x.1)) s
  { s with lh := { s.lh with trips := s.lh.trips.map fun t => { t with posted := true } } }

/-! ### Self-tests (R455, R456) -/


/-- SELF_TEST (R455): once its failed launch has ended, a quarantined core is put in test mode. -/
def execSelfTest (c : CoreId) (s : State) : Out :=
  .next (
    let x := s.core c
    if !s.powered || !s.harbourRuns || x.sc.run != .quarantined || x.health.testing || x.health.withdrawn ||
        (s.launchOfCore c.val).isSome then s
    else s.updCore c fun y => { y with sc := { y.sc with opmode := opTest }, health := { y.health with testing := true } })

/-- Withdraws a core (R456): the withdrawal is kept in the service record. -/
def State.withdraw (s : State) (c : CoreId) : State :=
  let s := s.updCore c fun y => { y with health := { y.health with withdrawn := true, testing := false } }
  ({ s with flash := { s.flash with withdrawn := addOnce c.val s.flash.withdrawn } }).alarm alarmWithdrawn (BitVec.ofNat 16 c.val)
    (word (s.core c).health.quarantines.length)

/-- SELF_TEST_END (R455, R456): a core that passes returns to service; one that fails, or was quarantined three times within 24 hours,
is withdrawn. -/
def execSelfTestEnd (c : CoreId) (ok : Bool) (s : State) : Out :=
  .next (
    let h := (s.core c).health
    if !s.powered || !s.harbourRuns || !h.testing then s
    else if ok && ((h.quarantines.filter fun t => s.since t < dayTicks).length < 3) then
      let s := (s.resetCore c).fillLagoon c
      let s := s.updCore c fun y => { y with sc := { y.sc with opmode := opService }, health := { y.health with testing := false } }
      s.alarm alarmQuarantine (BitVec.ofNat 16 c.val) (word h.quarantines.length)
    else s.withdraw c)

end Sys2Proof.Machine
end

