-- ==== Sys2Proof/Machine/Boot.lean ====
section
/-! DEFINITION. Meanings of the boot, identity and recovery commands (ch. 16). -/

namespace Sys2Proof.Machine

/-! ### Module reset (R328, R387, R450, R467, R508) -/

/-- An alarm as it comes through a module reset: its entries' sequence space restarts (R328, R450). -/
def Alarm.restart (a : Alarm) : Alarm := { a with entrySeq := none, pendingRepeat := false }

/-- The Lighthouse through a module reset: its trips and the kind it decodes are kept (R450); Clamp ends, but while SHED_REQ is asserted
stage 2 stays in force (R449). -/
def Lighthouse.restart (x : Lighthouse) : Lighthouse :=
  { Lighthouse.reset with
    trips := x.trips, count := x.count, kind := x.kind, shed := x.shed
    clamp := if x.shed then 2 else 0, code := if x.shed then x.code else Lighthouse.reset.code }

/-- How the input has stood so far, counted from a restart of the tide (R493). -/
def State.inputHeld (s : State) : Word := 0#64 - (s.tide - s.io.inputSince)

/-- The state after a module reset: flash, what the Lighthouse keeps, Harbour's log, traces and alarms, Deep's accounts, pins, the
input's standing and the recovery server are kept, with what has left the module and the commands that wait. -/
def State.moduleReset (s : State) (askRecovery : Bool) : State :=
  { State.reset with
    deep := s.deep
    flash := s.flash
    rep := { s.rep with alarms := s.rep.alarms.map Alarm.restart }
    lh := s.lh.restart
    boot := { Boot.reset with askRecovery := askRecovery }
    io := { Module.reset with
            replies := s.io.replies, server := s.io.server, pwrEn := s.io.pwrEn, inputOk := s.io.inputOk, i3c := s.io.i3c
            inputSince := s.inputHeld }
    hb := { Harbour.reset with sent := s.hb.sent }
    free := s.free
    pending := s.pending }

/-- The state after a power loss: Harbour's log, traces and alarms go too (R467), the Lighthouse's supply fails and with it SHED_REQ
(R449), and the module is off until it is powered again. -/
def State.powerLoss (s : State) : State :=
  let s := ({ s with lh := { s.lh with shed := false } }).moduleReset false
  { s with rep := Report.reset, power := { s.power with on := false }, io := { s.io with server := none, i3c := none } }

/-- The state after power returns: a module reset (R496, R499). -/
def State.powerUp (s : State) : State := s.moduleReset false

/-! ### Signed objects (R473, Table 16.4) -/

def objFirmware : Nat := 0x0001
def objDiag : Nat := 0x0002
def objOwnerRecord : Nat := 0x0011
def objOwnerRelease : Nat := 0x0012

/-- Results of Table 16.7. -/
def resOk : BitVec 8 := 0#8
def resBadSignature : BitVec 8 := 1#8
def resRollback : BitVec 8 := 2#8
def resTooLarge : BitVec 8 := 3#8
def resWrongTarget : BitVec 8 := 4#8
def resFlashError : BitVec 8 := 5#8
def resBadType : BitVec 8 := 6#8

/-- TYPE of an object. -/
def objType (h : SignedHeader) : Nat := fld h.word0 47 32

/-- SVN of an object. -/
def objSvn (h : SignedHeader) : Nat := fld h.ver 63 32

/-- The checks of R473 in order, for the types that the path expects: the first that fails, as a result. -/
def State.checkObject (s : State) (h : SignedHeader) (v : SigVerdict) (types : List Nat) : BitVec 8 :=
  let t := objType h
  let targeted := t = objDiag || t = objOwnerRelease
  let versioned := t = objFirmware || t = objDiag
  if fld h.word0 31 0 != objMagic || fld h.word0 63 48 != 0 || fld h.len 63 40 != 0 || !h.reservedZero then resBadSignature
  else if !types.contains t then resBadType
  else if fld h.len 39 0 != h.bytes || !v.digest || !v.ecdsa || !v.hss then resBadSignature
  else if (h.target = 0#64 && targeted) || (h.target != 0#64 && h.target != Config.straitId) then resWrongTarget
  else if (versioned && objSvn h < max s.flash.minSvn Config.svnFloor.toNat) || (!versioned && objSvn h != 0) then resRollback
  else resOk

/-! ### Boot stages (R468-R477) -/

/-- Puts every core in an operating mode (R185). -/
def State.allMode (s : State) (m : BitVec 2) : State :=
  allCores.foldl (fun s c => s.updSc c fun x => { x with opmode := m }) s

/-- The keys that HKDF derives from the seed (R470), the alias key with measurement 2 of the running image. -/
def keysOf (seed : BitVec 384) (fw : Option FwImage) : Keys where
  deviceId := Config.hkdf seed 1 0#384
  hssIdentity := Config.hkdf seed 2 0#384
  storage := Config.hkdf seed 4 0#384
  aliasKey := fw.map fun x => Config.hkdf seed 3 x.digest

/-- Stage 0 before the firmware image (R468-R470): the seed from the PUF and the keys from it, then the security and owner records; BOOT_FAILS
counts the attempt. -/
def State.bootRecords (s : State) (r : BootReading) : State :=
  let f := s.flash
  let f := if r.securityRecordOk then f else { f with minSvn := Config.svnFloor.toNat, bootFails := 0 }
  let f := if r.ownerRecordOk then f else { f with owner := none }
  { s with
    flash := { f with bootFails := f.bootFails + 1 }
    boot := { s.boot with seed := some Config.pufSeed, keys := some (keysOf Config.pufSeed none) } }

/-- An empty service record, logged (R468). -/
def State.loseService (s : State) : State :=
  ({ s with flash := { s.flash with repairs := [], retired := [], withdrawn := [], spares := [], ageing := [], net := [] } }).log 0#8
    0x1001#16 0#16 0 []

end Sys2Proof.Machine

namespace Sys2Proof.NetConfig

/-- A kept port configuration comes into force; one in DHCP mode has no address yet. -/
def applied (n : NetConfig) : NetConfig := if n.mode = 1#8 then { n with ipv4 := 0#32, prefix4 := 0#8, gateway4 := 0#32 } else n

end Sys2Proof.NetConfig

namespace Sys2Proof.Machine

/-- Applies the service record: row repairs, retired frames, ageing adders, port configurations. -/
def State.applyService (s : State) : State :=
  let s := s.flash.repairs.foldl (fun s r =>
    s.updIsle (Fin.ofNat 8 r.1) fun y =>
      { y with
        rows := mapSet r.2.1 { events := [], spare := some r.2.2 } y.rows
        badSpares := mapSet (Config.nearBank r.2.1) (r.2.2 + 1) y.badSpares }) s
  let s := s.flash.retired.foldl (fun s f => s.setFrameTag f { s.frameTag f with retired := true }) s
  let s := s.flash.ageing.foldl (fun s a => s.updIsle (Fin.ofNat 8 a.1) fun y => { y with heat := { y.heat with ageing := a.2 } }) s
  { s with io := { s.io with net := s.flash.net.map fun x => (x.1, x.2.applied) } }

/-- Positions of spares that cores of an isle use. -/
def Flash.usedSpares (f : Flash) (isle : Nat) : List Nat := f.spares.filterMap fun x => if x.1 / 150 = isle then some x.2 else none

/-- Substitutes a core that is withdrawn or fails its self-test by the lowest free spare of its isle that passes (R477); one that fails and
finds no spare is withdrawn, with its alarm (R456). -/
def State.substitute (s : State) (ok : BitVec 80) (c : Nat) : State :=
  let isle := c / 150
  let used := s.flash.usedSpares isle
  match (List.range 10).find? fun k => ok.getLsbD (10 * isle + k) && !used.contains k with
  | some k =>
    { s with flash := { s.flash with spares := mapSet c k s.flash.spares, withdrawn := s.flash.withdrawn.erase c } }
  | none =>
    if s.flash.withdrawn.contains c then s
    else ({ s with flash := { s.flash with withdrawn := addOnce c s.flash.withdrawn } }).alarm alarmWithdrawn (BitVec.ofNat 16 c) 0#64

/-- Measurement 5 (Table 16.6): the core substitution map and the withdrawn set. -/
def mapDigest (f : Flash) : BitVec 384 :=
  Config.sha384 ((f.spares.flatMap fun x => leBytes 2 x.1 ++ leBytes 2 x.2) ++ f.withdrawn.flatMap (leBytes 2))

/-- Stage 3 (R474, R477): self-tests, substitution, service mode, measurements 5 and 7 (R478). -/
def State.bootCores (s : State) (r : BootReading) : State :=
  let bad := (s.flash.withdrawn ++ r.coresFailingSelfTest).eraseDups.filter fun c => c < 1200
  let s := bad.foldl (fun s c => s.substitute r.sparesOk c) s
  let s := s.allMode opService
  let s := ({ s with boot := { s.boot with map := mapDigest s.flash } }).measureConfig
  s.flash.withdrawn.foldl (fun s c => s.updCore (coreOf c) fun y => { y with health := { y.health with withdrawn := true } }) s

/-- Lanes of an isle's Mid link by its working halves. -/
def halfLanes (m : BitVec 16) (i : Nat) : BitVec 16 :=
  (if m.getLsbD (2 * i) then 0x00ff#16 else 0#16) ||| (if m.getLsbD (2 * i + 1) then 0xff00#16 else 0#16)

/-- Posts again the alarms that no host has acknowledged (R460): those that stand without an entry, posted or waiting. -/
def State.repostAlarms (s : State) : State :=
  let waits (a : Alarm) : Bool := s.hb.events.waiting.any fun e => e.kind = 4 && e.alarmId = (a.code, a.source)
  (s.rep.alarms.filter fun a => !a.acked && a.entrySeq.isNone && !waits a).foldl (fun s a => s.postEvent a.entry) s

/-- Stages 1 to 4 (R474-R477): at the ready point BOOT_FAILS is cleared, MIN_SVN rises, and trips and alarms are posted. -/
def State.bootFirmware (s : State) (r : BootReading) (fw : FwImage) : State :=
  let s := if r.serviceRecordOk then s else s.loseService
  let s := s.applyService
  let s := if s.topDisagrees r.top then s.log 0#8 0x1002#16 0#16 0 [word s.lh.kind] else s
  let s := { s with power := { s.power with profile := s.topProfile r.top, rating := topRating r.top } }
  let s := (List.finRange 8).foldl (fun s i => s.trainMid i (halfLanes r.midLanes i.val)) s
  let s := s.bootCores r
  let s := { s with
    flash := { s.flash with bootFails := 0, minSvn := max s.flash.minSvn fw.svn }
    boot := { s.boot with phase := .ready, running := some fw, keys := s.boot.seed.map fun k => keysOf k (some fw) } }
  s.runElection.postTrips.repostAlarms

/-- The digest of a signed object's header (Table 16.6); the body digest in it is free. -/
def headerDigest (h : SignedHeader) (free : Nat) : BitVec 384 :=
  Config.sha384 (leBytes 8 h.word0.toNat ++ leBytes 8 h.ver.toNat ++ leBytes 8 h.len.toNat ++ leBytes 8 h.target.toNat ++
    leBytes 48 (Config.freeNat free) ++ List.replicate 48 0#8)

/-- The image that stage 0 finds, when it passes R473. -/
def State.bootImage (s : State) (r : BootReading) : Option FwImage :=
  if s.flash.erased || s.checkObject r.firmware r.verdict [objFirmware] != resOk then none
  else some (s.flash.firmware.getD
    { svn := objSvn r.firmware, version := fld r.firmware.ver 31 0, digest := headerDigest r.firmware s.free })

/-- SLOT_ID is read once, at module reset (R498). -/
def State.readSlot (s : State) (n : BitVec 3) : State := { s with io := { s.io with slot := n } }

/-- BOOT_STAGES (R468-R477, R488): from module reset to the ready point, or to recovery, or to a halt in stage 0; none while stage 2 of
Clamp stops Harbour (R448, R449). -/
def execBootStages (r : BootReading) (s : State) : Out :=
  .next (
    if !s.power.on || 2 ≤ s.lh.clamp || s.boot.phase != .stages then s
    else
      let s := s.readSlot r.slotId
      if !r.pufOk then ({ s with boot := { s.boot with phase := .pufFail } }).answer (.bootHalt true)
      else if !r.partRecordOk then ({ s with boot := { s.boot with phase := .partRecordFail } }).answer (.bootHalt false)
      else
        let s := s.bootRecords r
        let recover : State := { s with boot := { s.boot with phase := .recovery } }
        if s.boot.askRecovery || 3 ≤ s.flash.bootFails then recover
        else
          match s.bootImage r with
          | some fw => ({ s with free := s.free + 1 }).bootFirmware r fw
          | none => recover)

/-! ### Attestation (R478-R483) -/

/-- The measurements of Table 16.6. -/
def State.measured (s : State) : List Measured :=
  let sha (bs : List Byte) : Nat := (Config.sha384 bs).toNat
  let fw := s.boot.running
  let graphs := (List.range 1024).flatMap fun k => leBytes 48 (((s.graph k).map fun g => g.img.headerDigest.toNat).getD 0)
  [{ index := 1, value := Config.romDigest.toNat }, { index := 2, value := ((fw.map FwImage.digest).getD 0#384).toNat },
    { index := 3, value := (fw.map FwImage.svn).getD 0 }, { index := 4, value := Config.partDigest.toNat },
    { index := 5, value := s.boot.map.toNat }, { index := 6, value := (s.flash.owner.getD 0#384).toNat },
    { index := 7, value := s.boot.config.toNat }, { index := 8, value := sha graphs }]

/-- What certificate slot 0 says of this device (R481). -/
def State.certChain (s : State) : CertChain :=
  let shown (k : Option (BitVec 384)) : BitVec 768 := (k.map Config.publicKey).getD 0#768
  { deviceId := shown (s.boot.keys.map Keys.deviceId), aliasKey := shown (s.boot.keys.bind Keys.aliasKey),
    measured := s.measured.filter fun m => m.index ≤ 3 }

/-- Whether the firmware answers management messages: from the ready point, while Harbour's processor runs (R448, R476, R509). -/
def State.answers (s : State) : Bool := s.harbourRuns

/-- Whether the Lighthouse answers the sideband itself (R509). -/
def State.lighthouseAnswers (s : State) : Bool := s.power.on && 2 ≤ s.lh.clamp

/-- A management request that only the firmware serves: under stage 2 one on the sideband completes with ERROR_NOT_READY (R509). -/
def State.managed (s : State) (b : Binding) (body : State → State) : State :=
  if s.answers then body s else if b = .i3c && s.lighthouseAnswers then s.answer (.pldm .notReady) else s

/-- Notes a signed response on a connection (R482). -/
def State.signedOn (s : State) (b : Binding) : State := { s with io := { s.io with signed := addOnce b s.io.signed } }

/-- KEY_EXCHANGE (R480, R484): at most 4 secure sessions, each with a requester whose certificate chains as MUT_AUTH asks. -/
def State.openSession (s : State) (b : Binding) (mutAuthOk : Bool) : State :=
  if !mutAuthOk || 4 ≤ s.io.sessions.length then s.answer (.spdm b .sessionRefused)
  else
    let (k, s) := s.takeFree
    let id := BitVec.ofNat 32 (Config.freeNat k)
    (({ s with io := { s.io with sessions := s.io.sessions ++ [(b, id)] } }).signedOn b).answer (.spdm b (.keyExchange id))

/-- SPDM_REQUEST (R479-R481, R484). -/
def execSpdmRequest (b : Binding) (k : SpdmKind) (s : State) : Out :=
  .next (s.managed b fun s =>
    let say (a : SpdmAnswer) : State := s.answer (.spdm b a)
    match k with
    | .getVersion => say .version
    | .getCapabilities => say .capabilities
    | .negotiateAlgorithms ok => say (if ok then .algorithms else .unsupportedRequest)
    | .getDigests _ => say .digests
    | .getCertificate slot => say (if slot = 0#4 then .certificate s.certChain else .invalidRequest)
    | .challenge => (say .challengeAuth).signedOn b
    | .keyExchange ok => s.openSession b ok
    | .heartbeat => say .heartbeatAck
    | .keyUpdate => say .keyUpdateAck
    | .chunk => say .chunk
    | .endSession n =>
      if s.io.sessions.contains (b, n) then
        ({ s with io := { s.io with sessions := s.io.sessions.erase (b, n) } }).answer (.spdm b .endSession)
      else say .invalidRequest
    | .psk => say .unsupportedRequest
    | .csr => say .unsupportedRequest
    | .setCertificate => say .unsupportedRequest
    | .other => say .unsupportedRequest)

/-- GET_MEASUREMENTS (R478): one measurement by its index, their number for index 0, or all of them. -/
def execGetMeasurements (b : Binding) (index : BitVec 8) (signed : Bool) (s : State) : Out :=
  .next (s.managed b fun s =>
    let ms := s.measured
    let out := if index = 0xff#8 then ms
      else if index = 0#8 then [{ index := 0, value := ms.length }]
      else ms.filter fun m => m.index = index.toNat
    if out.isEmpty then s.answer (.spdm b .invalidRequest)
    else (if signed then s.signedOn b else s).answer (.measurements b out signed))

/-- GET_HSS_IDENTITY (R482). -/
def execGetHssIdentity (b : Binding) (s : State) : Out :=
  .next (s.managed b fun s => s.answer (.hssIdentity b))

/-- What the rate of R483 allows now, in ticks: a second for each signature, 16 at most. -/
def State.hssAllowance (s : State) : Nat := min (16 * second) (s.io.hssLevel + s.since s.io.hssAt)

/-- GET_HSS_SIGNATURE (R482, R483): the record for the next index is appended before index q signs. -/
def execGetHssSignature (b : Binding) (appendOk : Bool) (s : State) : Out :=
  .next (s.managed b fun s =>
    let q := s.flash.hss
    let say (a : SpdmAnswer) : State := s.answer (.spdm b a)
    if !s.io.signed.contains b then say .invalidRequest
    else if s.hssAllowance < second then say .busy
    else if !appendOk || q = BitVec.allOnes 40 then say .unspecified
    else
      ({ s with
          flash := { s.flash with hss := q + 1#40 }
          io := { s.io with hssLevel := s.hssAllowance - second, hssAt := s.tide } }).answer (.hssSignature b q))

/-! ### Update in place (R486, R487) -/

/-- REQUEST_UPDATE (R486). -/
def execRequestUpdate (b : Binding) (s : State) : Out :=
  .next (s.managed b fun s =>
    if s.io.updating then s.answer (.update .alreadyInUpdateMode)
    else ({ s with io := { s.io with updating := true } }).answer (.update .accepted))

/-- Writes a firmware image and reads it back (R486 step 2); a failed write leaves no valid image (R487). -/
def State.writeFirmware (s : State) (h : SignedHeader) (digest : BitVec 384) (ok : Bool) : State :=
  { s with flash :=
    if ok then
      { s.flash with firmware := some { svn := objSvn h, version := fld h.ver 31 0, digest := digest }, erased := false }
    else { s.flash with firmware := none, erased := true } }

/-- REQUEST_FIRMWARE_DATA (R486): the whole object is verified before anything is erased. -/
def execRequestFirmwareData (h : SignedHeader) (v : SigVerdict) (digest : BitVec 384) (writtenOk : Bool) (s : State) : Out :=
  .next (
    if !s.answers || !s.io.updating then s
    else
      let s := { s with io := { s.io with updating := false } }
      if s.checkObject h v [objFirmware] != resOk then s.answer (.update .verifyFailed)
      else (s.writeFirmware h digest writtenOk).answer (.update (if writtenOk then .applyComplete else .applyFailed)))

/-! ### Recovery (R488-R491) -/

def rcvAnnounce : BitVec 8 := 1#8
def rcvRead : BitVec 8 := 3#8
def rcvResult : BitVec 8 := 5#8

/-- Whether the boot ROM runs recovery. -/
def State.recovering (s : State) : Bool := s.power.on && s.lh.clamp < 2 && s.boot.phase = .recovery

/-- ANNOUNCE (R489): every 1 s while no session is open, with a new SESSION. -/
def execAnnounce (s : State) : Out :=
  .next (
    let early := match s.boot.announcedAt with
      | some t => decide (s.since t < second)
      | none => false
    if !s.recovering || s.boot.session.isSome || s.io.server.isNone || early then s
    else
      let (k, s) := s.takeFree
      let n := BitVec.ofNat 32 (Config.freeNat k)
      let n := if s.boot.announced = some n then n + 1#32 else n
      ({ s with boot := { s.boot with announced := some n, announcedAt := some s.tide } }).answer (.recovery rcvAnnounce n 0#8 0 0))

/-- Most bytes of a recovery object, by its kind (R490). -/
def recoveryLimit (kind : BitVec 8) : Nat := if kind = 2#8 then 65536 else 67108864

/-- Ends a recovery session with a RESULT. -/
def State.recoveryResult (s : State) (id : BitVec 32) (res : BitVec 8) : State :=
  ({ s with boot := { s.boot with session := none, announced := none } }).answer (.recovery rcvResult id res 0 0)

/-- Bytes asked for by the READ at an offset. -/
def Session.piece (x : Session) (off : Nat) : Nat := min 1024 (x.total - off)

/-- Sends READs in offset order until 8 are outstanding (R490). -/
def State.readAhead : Nat → State → State
  | 0, s => s
  | n + 1, s =>
    match s.boot.session with
    | none => s
    | some x =>
      let next := (x.held.length + x.reads.length) * 1024
      if 8 ≤ x.reads.length || x.total ≤ next then s
      else
        let s := { s with boot := { s.boot with session := some { x with reads := x.reads ++ [(next, s.tide)] } } }
        State.readAhead n (s.answer (.recovery rcvRead x.id 0#8 next (x.piece next)))

/-- OFFER (R490): the first that carries the announced SESSION opens the session; larger totals are refused, and an
object of no bytes is complete at once and fails R473. -/
def execOffer (session : BitVec 32) (status : BitVec 8) (total : BitVec 64) (s : State) : Out :=
  .next (
    if !s.recovering || s.boot.session.isSome || s.boot.announced != some session then s
    else if 2#8 < status then s.recoveryResult session resBadType
    else if recoveryLimit status < total.toNat then s.recoveryResult session resTooLarge
    else if total = 0#64 then s.recoveryResult session resBadSignature
    else
      let x : Session := { id := session, kind := status, total := total.toNat, held := [], reads := [], lastData := s.tide }
      ({ s with boot := { s.boot with session := some x } }).readAhead 8)

/-- Types that a recovery kind admits. -/
def recoveryTypes (kind : BitVec 8) : List Nat :=
  if kind = 0#8 then [objFirmware] else if kind = 1#8 then [objDiag] else [objOwnerRecord, objOwnerRelease]

/-- Applies a complete recovery object (R490, R491): firmware is written and the device resets itself; a DIAG image runs with every core
in recovery mode; an owner object is written. -/
def State.recover (s : State) (x : Session) (h : SignedHeader) (v : SigVerdict) (body : BitVec 384) (ok : Bool) : State :=
  let r := s.checkObject h v (recoveryTypes x.kind)
  if r != resOk then s.recoveryResult x.id r
  else if x.kind = 1#8 then
    let s := s.recoveryResult x.id resOk
    ({ s with boot := { s.boot with phase := .diag } }).allMode opRecovery
  else if x.kind = 0#8 then
    let s := (s.writeFirmware h body ok).recoveryResult x.id (if ok then resOk else resFlashError)
    if ok then s.moduleReset false else s
  else if !ok then s.recoveryResult x.id resFlashError
  else
    ({ s with flash := { s.flash with owner := if objType h = objOwnerRecord then some body else none } }).recoveryResult x.id resOk

/-- DATA_RECOVERY (R490): DATA with another SESSION or for bytes that no outstanding READ asks for is ignored; the complete object is
checked and applied. -/
def execDataRecovery (session : BitVec 32) (offset : BitVec 64) (len : BitVec 16) (h : SignedHeader) (v : SigVerdict) (body : BitVec 384)
    (writtenOk : Bool) (s : State) : Out :=
  .next (
    match s.boot.session with
    | none => s
    | some x =>
      let off := offset.toNat
      if !s.recovering || x.id != session || !(x.reads.any fun r => r.1 = off) || len.toNat != x.piece off then s
      else
        let x := { x with
          held := x.held ++ [(off, len.toNat)], reads := x.reads.filter fun r => r.1 != off, lastData := s.tide }
        let s := { s with boot := { s.boot with session := some x } }
        if x.total ≤ (x.held.map Prod.snd).foldl (· + ·) 0 then s.recover x { h with bytes := x.total - 3828 } v body writtenOk
        else s.readAhead 8)

/-- READ_RESEND (R490): a READ without an answer for 100 ms is sent again. -/
def execReadResend (offset : BitVec 64) (s : State) : Out :=
  .next (
    match s.boot.session with
    | none => s
    | some x =>
      let off := offset.toNat
      match x.reads.find? fun r => r.1 = off with
      | none => s
      | some r =>
        if !s.recovering || !s.passedUs r.2 100000 then s
        else
          let x := { x with reads := x.reads.map fun y => if y.1 = off then (off, s.tide) else y }
          ({ s with boot := { s.boot with session := some x } }).answer (.recovery rcvRead x.id 0#8 off (x.piece off)))

/-- SESSION_ABANDON (R490): a session without DATA for 30 s is abandoned. -/
def execSessionAbandon (s : State) : Out :=
  .next (
    match s.boot.session with
    | none => s
    | some x =>
      if s.recovering && s.passedUs x.lastData 30000000 then
        { s with boot := { s.boot with session := none, announced := none } }
      else s)

end Sys2Proof.Machine
end

