-- ==== Sys2Proof/Machine/Sideband.lean ====
section
/-! DEFINITION. Meanings of the module's interface commands (ch. 17): power input, sideband, host Ethernet, thermal top straps. -/

namespace Sys2Proof.Machine

/-! ### Power input (R493, R496, R499) -/

/-- PWR_EN (R496): low is a power loss; high powers the module up when its input has been in range for 10 ms. -/
def execPwrEn (high : Bool) (s : State) : Out :=
  .next (
    let x := { s with io := { s.io with pwrEn := high } }
    if high then
      if !s.power.on && s.io.inputOk && s.passedUs s.io.inputSince 10000 then x.powerUp else x
    else if s.power.on then x.powerLoss
    else x)

/-- INPUT_VOLTAGE (R493): below 40 V or above 60 V the power stage goes off; it restarts once the input has stayed within 44-58 V for
10 ms. -/
def execInputVoltage (millivolts : Nat) (s : State) : Out :=
  .next (
    if s.power.on then
      if millivolts < 40000 || 60000 < millivolts then
        let s := s.powerLoss
        { s with io := { s.io with inputOk := false } }
      else s
    else if millivolts < 44000 || 58000 < millivolts then { s with io := { s.io with inputOk := false } }
    else if !s.io.inputOk then { s with io := { s.io with inputOk := true, inputSince := s.tide } }
    else if s.io.pwrEn && s.passedUs s.io.inputSince 10000 then s.powerUp
    else s)

/-! ### The sideband (R505-R510) -/

/-- Whether a processor on the Harbour die serves the module's own sideband commands: firmware, or the boot ROM in recovery. -/
def State.serves (s : State) : Bool :=
  s.power.on && s.lh.clamp < 2 && (s.boot.phase = .ready || s.boot.phase = .recovery || s.boot.phase = .diag)

/-- A sideband command that only Harbour serves: under stage 2 it completes with ERROR_NOT_READY. -/
def State.sideband (s : State) (body : State → State) : State :=
  if s.serves then body s else if s.lighthouseAnswers then s.answer (.pldm .notReady) else s

/-- A sideband command that the Lighthouse serves as well. -/
def State.sidebandAlways (s : State) (body : State → State) : State := if s.serves || s.lighthouseAnswers then body s else s

/-- The Lighthouse's sensor states in the order of R506: normal, stage 1, stage 2, Shed, LIGHTHOUSE_FAULT. -/
def State.lighthouseState (s : State) : Nat :=
  if s.lh.shed then 3 else if s.lh.clamp != 0 then s.lh.clamp else if s.lh.fault then 4 else 0

/-- PLDM_REQUEST (R506, R509). The values of the numeric sensors, which the manual does not number, are free. -/
def execPldmRequest (k : PldmKind) (s : State) : Out :=
  .next (
    match k with
    | .getTid => s.sidebandAlways fun s => s.answer (.pldm .tid)
    | .otherBase => s.sideband fun s => s.answer (.pldm .base)
    | .numericSensor id => s.sideband fun s =>
      let (n, s) := s.takeFree
      s.answer (.pldm (.numericSensor id (Config.freeNat n)))
    | .stateSensor lighthouse => s.sideband fun s =>
      s.answer (.pldm (if lighthouse then .lighthouseSensor s.lighthouseState else .profileSensor s.power.profile))
    | .pdr => s.sideband fun s => s.answer (.pldm .pdr))

/-- SETDASA (R505). -/
def execSetdasa (addr : BitVec 7) (s : State) : Out :=
  .next (if s.power.on then { s with io := { s.io with i3c := some addr } } else s)

/-- Whether SET_NET may take a configuration (R507, Table 17.7). -/
def netOk (port : BitVec 8) (n : NetConfig) : Bool :=
  port < 2#8 && n.mode < 2#8 && decide (n.prefix4.toNat ≤ 32) && decide (n.prefix6.toNat ≤ 128)

/-- A port takes new addresses (R507): queue pairs bound to the old ones are closed, and completions and events go to the next HELLO's
source. -/
def State.readdress (s : State) (port : Nat) (n : NetConfig) : State :=
  let s := { s with io := { s.io with net := mapSet port n s.io.net } }
  s.updHb fun h => { h with hello := none, lastCmd := none, qps := h.qps.filter fun x => x.2.port != (port = 1) }

/-- SET_NET (R507): kept in the service record, which Harbour firmware alone writes. -/
def execSetNet (port : BitVec 8) (n : NetConfig) (s : State) : Out :=
  .next (s.sideband fun s =>
    if !netOk port n then s.answer (.pldm .invalidData)
    else
      let s := s.readdress port.toNat n.applied
      let s := if s.boot.phase = .ready then { s with flash := { s.flash with net := mapSet port.toNat n s.flash.net } } else s
      s.answer (.pldm .success))

/-- GET_NET (Table 17.7): the fields in force; a port never configured reads zero. -/
def execGetNet (port : BitVec 8) (s : State) : Out :=
  .next (s.sideband fun s =>
    if port < 2#8 then
      let zero : NetConfig := { mode := 0#8, ipv4 := 0#32, prefix4 := 0#8, gateway4 := 0#32, ipv6 := 0#128, prefix6 := 0#8 }
      s.answer (.netConfig port.toNat ((s.netOf (port = 1#8)).getD zero) (Config.mac port.toNat))
    else s.answer (.pldm .invalidData))

/-- SET_RECOVERY (Table 17.7). -/
def execSetRecovery (addr : BitVec 128) (s : State) : Out :=
  .next (s.sideband fun s => ({ s with io := { s.io with server := some addr } }).answer (.pldm .success))

/-- MODULE_RESET (R508): the response goes out before the reset. -/
def execModuleReset (flags : BitVec 8) (s : State) : Out :=
  .next (s.sidebandAlways fun s =>
    if flags.extractLsb' 1 7 != 0#7 then s.answer (.pldm .invalidData)
    else (s.answer (.pldm .success)).moduleReset (flags.getLsbD 0))

/-- GET_TRIPS (Table 17.7). -/
def execGetTrips (s : State) : Out := .next (s.sidebandAlways fun s => s.answer (.trips s.lh.trips))

/-- MCTP_CONTROL (R509): on the sideband by Harbour or the Lighthouse, on Ethernet by Harbour from the ready point. -/
def execMctpControl (b : Binding) (s : State) : Out :=
  .next (
    match b with
    | .i3c => s.sidebandAlways fun s => s.answer (.mctp b)
    | .ethernet _ => if s.answers then s.answer (.mctp b) else s)

/-! ### Host Ethernet (R325, R500, R507) -/

/-- ARP_REQUEST (R325): answered for an address that the port has. -/
def execArpRequest (port : Bool) (target : BitVec 128) (s : State) : Out :=
  .next (
    match s.netOf port with
    | some n =>
      let mine := (n.ipv4 != 0#32 && target = n.ipv4.setWidth 128) || (n.ipv6 != 0#128 && target = n.ipv6)
      if s.serves && mine then s.answer (.arp port target) else s
    | none => s)

/-- DHCP (R507): a lease gives a port in DHCP mode its IPv4 configuration; without one it has none. -/
def execDhcp (port : Bool) (lease : Option (BitVec 32 × BitVec 8 × BitVec 32)) (s : State) : Out :=
  .next (
    match s.netOf port with
    | some n =>
      if !s.serves || n.mode != 1#8 then s
      else
        let l := lease.getD (0#32, 0#8, 0#32)
        if n.ipv4 = l.1 && n.prefix4 = l.2.1 && n.gateway4 = l.2.2 then s
        else s.readdress (if port then 1 else 0) { n with ipv4 := l.1, prefix4 := l.2.1, gateway4 := l.2.2 }
    | none => s)

/-- AUTO_NEGOTIATION (R500): the link comes up at 400, 200 or 100 Gb/s, or is lost. -/
def execAutoNegotiation (port : Bool) (gbps : Option Nat) (s : State) : Out :=
  .next (
    let k := if port then 1 else 0
    if !s.serves then s
    else
      let up := match gbps with
        | some g => if [400, 200, 100].contains g then some g else none
        | none => none
      { s with io := { s.io with link := mapPut k up s.io.link } })

/-! ### The thermal top's straps (R511) -/

/-- The cooling kind of the KIND straps; TOP_PRESENT_N high means no top. -/
def strapKind (straps : BitVec 2) (presentN : Bool) : Nat :=
  if presentN then 0 else if straps = 1#2 then 1 else if straps = 2#2 then 2 else if straps = 0#2 then 3 else 0

/-- COOLING_KIND_DECODE (R511): the Lighthouse publishes the kind that it decodes. -/
def execCoolingKindDecode (straps : BitVec 2) (presentN : Bool) (s : State) : Out :=
  .next (if s.power.on then { s with lh := { s.lh with kind := strapKind straps presentN } } else s)

end Sys2Proof.Machine
end

