-- ==== Sys2Proof/Machine/Ports.lean ====
section
/-! DEFINITION. I/O space (R180-R186): what every port reads and takes, and the port instructions. -/

namespace Sys2Proof.Machine

/-! ### Core status and control, ports 0x0000-0x00ff (Tables 6.19-6.22) -/

/-- CORE_ID (Table 6.20). -/
def coreId (c : CoreId) : Word := word ((isleOf c).val * 2 ^ 24 + coreIndex c * 2 ^ 16 + c.val)

/-- MODE (Table 6.21). -/
def Scalar.mode (x : Scalar) : Word := (x.opmode.setWidth 64 <<< 4) ||| x.priv.setWidth 64

/-- FSTAT (Table 6.22). -/
def Scalar.fstat (x : Scalar) : Word := (x.trapEn.setWidth 64 <<< 8) ||| x.fflags.setWidth 64

/-- LPROG (Table 6.17). -/
def Scalar.lprog (x : Scalar) : Word :=
  word ((if x.lprogValid then 2 ^ 63 else 0) + (if x.lprogKind then 2 ^ 62 else 0) + (if x.lprogDir then 2 ^ 61 else 0) + x.lprogDone.toNat)

/-- ECAUSE (Table 6.19). -/
def Scalar.ecause (x : Scalar) : Word :=
  word ((if x.ecauseInt then 2 ^ 16 else 0) + x.ecauseInfo.toNat * 2 ^ 8 + x.ecauseCode.toNat)

/-- SHSTAT (Table 6.19, R232): the cycles that an open window has left. -/
def Scalar.shstat (x : Scalar) : Word :=
  if x.shielded then word (2 ^ 13 + (4096 - ((x.cycles - x.shieldAt).toNat - 1))) else 0#64

/-- What a core status or control port reads, LBINFO apart. -/
def State.scalarIn (s : State) (c : CoreId) (p : Nat) : Word :=
  let x := s.sc c
  match p with
  | 0x00 => coreId c
  | 0x01 => x.mode
  | 0x02 => x.cycles
  | 0x03 => x.retired
  | 0x04 => x.ctxid.setWidth 64
  | 0x08 => x.fstat
  | 0x09 => x.fround.setWidth 64
  | 0x10 => feat0
  | 0x11 => feat1
  | 0x18 => x.lprog
  | 0x20 => x.evecRt
  | 0x21 => x.evecMon
  | 0x22 => x.epc
  | 0x23 => x.ecause
  | 0x24 => x.eaddr
  | 0x25 => x.epriv.setWidth 64
  | 0x26 => x.lbaddr.setWidth 64
  | 0x28 => (s.irqPend c).setWidth 64
  | 0x29 => x.irqmask.setWidth 64
  | 0x30 => x.ssbase
  | 0x31 => x.sslimit
  | 0x32 => (x.ssSpilled.setWidth 64 <<< 8) ||| word x.ss.length
  | 0x38 => x.shstat
  | _ => 0#64

/-- A write of LPROG (Table 6.17). -/
def Scalar.writeLprog (x : Scalar) (v : Word) : Scalar :=
  { x with lprogValid := v.getLsbD 63, lprogKind := v.getLsbD 62, lprogDir := v.getLsbD 61, lprogDone := v.extractLsb' 0 21 }

/-- A write of a core status or control port. -/
def Scalar.portOut (x : Scalar) (p : Nat) (v : Word) : Scalar :=
  match p with
  | 0x04 => { x with ctxid := v.extractLsb' 0 12 }
  | 0x08 => { x with trapEn := v.extractLsb' 8 5, fflags := x.fflags &&& ~~~(v.extractLsb' 0 6) }
  | 0x09 => if rmPortOk (v.extractLsb' 0 3) then { x with fround := v.extractLsb' 0 3 } else x
  | 0x18 => x.writeLprog v
  | 0x20 => { x with evecRt := v &&& ~~~3#64 }
  | 0x21 => { x with evecMon := v &&& ~~~3#64 }
  | 0x22 => { x with epc := v }
  | 0x23 => { x with ecauseInt := v.getLsbD 16, ecauseInfo := v.extractLsb' 8 8, ecauseCode := v.extractLsb' 0 8 }
  | 0x24 => { x with eaddr := v }
  | 0x25 => { x with epriv := v.extractLsb' 0 2 }
  | 0x29 => { x with irqmask := v.extractLsb' 0 7 }
  | 0x30 => { x with ssbase := v }
  | 0x31 => { x with sslimit := v }
  | _ => x

/-! ### The vector unit, ports 0x0300-0x03ff (Tables 7.2-7.4) -/

/-- VCFG (Table 7.3). -/
def Vec.vcfg (x : Vec) : Word :=
  word ((if x.om then 2 ^ 12 else 0) + x.cfmt.toNat * 2 ^ 8 + x.grp.toNat * 2 ^ 4 + BitVec.toNat x.efmt)

/-- What a vector port reads. -/
def Vec.portIn (x : Vec) (p : Nat) : Word :=
  match p with
  | 0x300 => x.vcfg
  | 0x301 => x.vl.setWidth 64
  | 0x302 => x.vstat
  | 0x303 => x.round.setWidth 64
  | 0x304 => word x.vlmax
  | 0x305 => x.retry.setWidth 64
  | _ => 0#64

/-- A write of a vector port. -/
def Vec.portOut (x : Vec) (p : Nat) (v : Word) : Vec :=
  match p with
  | 0x300 => x.writeCfg v
  | 0x301 => x.writeVlen v
  | 0x302 => x.writeVstat v
  | 0x303 => if rmPortOk (v.extractLsb' 0 3) then { x with round := v.extractLsb' 0 3 } else x
  | 0x305 => if v.extractLsb' 0 32 = 0#32 then { x with retry := 0#32 } else x
  | _ => x

/-! ### The cove, ports 0x0800-0x0fff (Table 9.4) -/

/-- ISLESTAT. -/
def State.isleStat (s : State) (i : IsleId) : Word :=
  let x := s.isle i
  let mid := if x.mid.lanes = 0xffff#16 then 0 else if x.mid.lanes = 0#16 then 2 else 1
  let b (y : Bool) (k : Nat) : Nat := if y then 2 ^ k else 0
  let hot0 := decide (2 ≤ x.heat.band0)
  let hot1 := decide (2 ≤ x.heat.band1)
  word (b s.deep.readOnly 5 + mid * 2 ^ 3 + b (hot0 || hot1) 2 + b hot1 1 + b hot0 0)

/-- STAGE: staging lines in use and the staging size of the isle's partition. -/
def State.stagePort (s : State) (i : IsleId) : Word :=
  let used := ((s.isle i).windows.map fun w => w.2.staged.length).foldl (· + ·) 0
  word (used * 2 ^ 8 + s.hb.staging.get (Fin.ofNat 8 (s.hb.partition.get i)) % 16)

/-- What a cove port reads. -/
def State.coveIn (s : State) (i : IsleId) (p : Nat) : Word :=
  let h := (s.isle i).heat
  if 0x900 ≤ p && p < 0x940 then
    let w := s.window i ((p - 0x900) / 4)
    match p % 4 with
    | 0 => w.base
    | 1 => w.cfg
    | 2 => w.stat
    | _ => 0#64
  else
    match p with
    | 0x800 => s.isleStat i
    | 0x801 => (s.isle i).cvce.setWidth 64
    | 0x802 => word (h.t1 * 2 ^ 8 + h.t0)
    | 0x803 => word (admission h.band1 h.t1 * 2 ^ 8 + admission h.band0 h.t0)
    | 0x804 => word (s.isleCeiling i)
    | 0x808 => s.stagePort i
    | _ => 0#64

/-- A write of a cove port by core `c`. -/
def State.coveOut (s : State) (c : CoreId) (p : Nat) (v : Word) : State :=
  let i := isleOf c
  if 0x900 ≤ p && p < 0x940 then
    let w := (p - 0x900) / 4
    match p % 4 with
    | 0 => s.writeWindow i w false v
    | 1 => s.writeWindow i w true v
    | 3 => if v = 1#64 then s.armWindow c w else if v = 2#64 then s.abortWindow i w else s
    | _ => s
  else if p = 0x801 && v.extractLsb' 0 32 = 0#32 then s.updIsle i fun x => { x with cvce := 0#32 }
  else s

/-! ### Tide, ports 0x1000-0x10ff (Tables 13.1, 13.2, 13.6) -/

/-- SPORT of a port (Table 13.6). -/
def Port.sport (t : Port) : Word :=
  word (t.crcErr.toNat * 2 ^ 32 + t.mismatch.toNat * 2 ^ 16 + t.reason.toNat * 2 ^ 8 + t.d.toNat * 2 ^ 3 + t.state.toNat)

/-- A value of the launch that a core works for, zero without one. -/
def State.ofLaunch (s : State) (c : CoreId) (f : Launch → ImageHeader → Word) : Word :=
  match s.launchOfCore c.val with
  | some (_, l) => ((s.image l).map (f l)).getD 0#64
  | none => 0#64

/-- What a tide port reads. -/
def State.tideIn (s : State) (c : CoreId) (p : Nat) : Word :=
  let t := (s.core c).tp
  if 0x1010 ≤ p && p < 0x101c then (s.port (Fin.ofNat 12 (p - 0x1010))).sport
  else if 0x1020 ≤ p && p < 0x102c then (s.port (Fin.ofNat 12 (p - 0x1020))).neighbour
  else
    match p with
    | 0x1000 => s.tide
    | 0x1001 => (if t.wakeEn then 1#64 <<< 63 else 0#64) ||| t.wakeTick.setWidth 64
    | 0x1002 => s.ofLaunch c fun l _ => word (l.offset % 2 ^ 32)
    | 0x1003 => s.ofLaunch c fun l _ => word (l.phase % 2 ^ 16)
    | 0x1004 => s.ofLaunch c fun l h => l.eff h (((l.phaseNow h).map PhaseEntry.s).getD 0)
    | 0x1005 => s.ofLaunch c fun l h => l.boundary h
    | 0x1007 => t.tstat.setWidth 64
    | 0x1008 => s.ofLaunch c fun l _ => match l.mark with
      | some k => word (2 ^ 16 + k % 2 ^ 16)
      | none => 0#64
    | _ => 0#64

/-- A write of a tide port. -/
def State.tideOut (s : State) (c : CoreId) (p : Nat) (v : Word) : State :=
  let upd (f : TidePorts → TidePorts) : State := s.updCore c fun x => { x with tp := f x.tp }
  match p with
  | 0x1001 => upd fun t => { t with wakeEn := v.getLsbD 63, wakeTick := v.extractLsb' 0 63 }
  | 0x1006 => s.tvote c v
  | 0x1007 => upd fun t => { t with tstat := t.tstat &&& ~~~(v.extractLsb' 0 5) }
  | _ => s

/-! ### Power and monitors, ports 0x2000-0x20ff (Tables 14.5-14.7) -/

/-- CFREQ: the point a core runs at, 0 while its clock is stopped; a core that the governor has never raised runs at its isle's
ceiling (log 43). -/
def State.cfreq (s : State) (c : CoreId) : Nat :=
  let x := (s.core c).pw
  if !s.clocked c then 0 else if x.point != 0 || x.want.isSome then x.point else s.ceilingPoint (isleOf c)

/-- PWRSTAT (Table 14.6). -/
def State.pwrStat (s : State) (c : CoreId) : Word :=
  let p := s.power
  let b (y : Bool) (k : Nat) : Nat := if y then 2 ^ k else 0
  word (p.capEff % 2 ^ 16 * 2 ^ 48 + profileLimit p.profile * 2 ^ 32 + profileMhz p.profile * 2 ^ 20 + p.duty % 16 * 2 ^ 12 +
    b (!p.shed.isEmpty) 5 + b (s.patternOf c != 0) 4 + b (decide (p.grant.compute < p.demand.compute)) 3 + p.profile % 4)

/-- What a power port reads. -/
def State.powerIn (s : State) (c : CoreId) (p : Nat) : Word :=
  let x := (s.core c).pw
  let h := (s.isle (isleOf c)).heat
  match p with
  | 0x2000 => s.pwrStat c
  | 0x2001 => word (s.cfreq c)
  | 0x2002 => h.junction.setWidth 64
  | 0x2003 => word h.ageing
  | 0x2004 => x.evt.setWidth 64
  | 0x2005 => x.mask.setWidth 64
  | 0x2006 => x.dutyCnt.setWidth 64
  | 0x2007 => x.wakeCnt.setWidth 64
  | _ => 0#64

/-- A write of a power port. -/
def PowerPorts.out (x : PowerPorts) (p : Nat) (v : Word) : PowerPorts :=
  match p with
  | 0x2004 => { x with evt := x.evt &&& ~~~(v.extractLsb' 0 6) }
  | 0x2005 => { x with mask := v.extractLsb' 0 6 }
  | 0x2006 => if v.extractLsb' 0 32 = 0#32 then { x with dutyCnt := 0#32 } else x
  | 0x2007 => if v.extractLsb' 0 32 = 0#32 then { x with wakeCnt := 0#32 } else x
  | _ => x

/-! ### Access rules (R180) -/

/-- The lowest level from which OUT writes a port; `none` where it is ignored at every level. -/
def outLevel (p : Nat) : Option (BitVec 2) :=
  if [0x08, 0x09, 0x101, 0x102, 0x105, 0x108, 0x109, 0x10a, 0x10b, 0x10c, 0x112, 0x113, 0x140, 0x141, 0x142, 0x143, 0x200, 0x203, 0x204,
      0x205, 0x207, 0x300, 0x301, 0x302, 0x303, 0x440, 0x441, 0x1001, 0x1007, 0x2004, 0x2006, 0x2007].contains p then some privTask
  else if [0x18, 0x22, 0x23, 0x24, 0x29, 0x103, 0x104, 0x110, 0x111, 0x121, 0x206, 0x208, 0x305, 0x801, 0x1006, 0x2005].contains p then
    some privRuntime
  else if [0x04, 0x20, 0x21, 0x25, 0x30, 0x31].contains p then some privMonitor
  else if 0x400 ≤ p && p < 0x440 then (if p % 4 = 0 then some privTask else if p % 4 = 3 then some privRuntime else none)
  else if 0x900 ≤ p && p < 0x940 then (if p % 4 = 2 then none else some privRuntime)
  else if 0xf000 ≤ p then some privMonitor
  else none

/-- The lowest level that may read a port: debug ports take monitor level. -/
def inLevel (p : Nat) : BitVec 2 := if 0xf000 ≤ p then privMonitor else privTask

def privilegeFault (p : Nat) : Exc := { code := excPrivilege, info := 2#8, eaddr := word p }

/-- Reads a port but LBINFO: its value, and what the read takes from it. In test mode a debug port reads a free value. -/
def State.readPort (s : State) (c : CoreId) (p : Nat) : Word × State :=
  if p < 0x100 then (s.scalarIn c p, s)
  else if p < 0x200 then ((s.mx c).portIn p, s)
  else if p = 0x202 then s.ewPop c
  else if p < 0x300 then ((s.ew c).portIn p, s)
  else if p < 0x400 then ((s.vec c).portIn p, s)
  else if p < 0x440 && p % 4 = 2 then s.ferryPop c ((p - 0x400) / 4)
  else if p < 0x800 then (s.ferryIn c p, s)
  else if p < 0x1000 then (s.coveIn (isleOf c) p, s)
  else if p < 0x1100 then (s.tideIn c p, s)
  else if 0x2000 ≤ p && p < 0x2100 then (s.powerIn c p, s)
  else if 0xf000 ≤ p && (s.sc c).opmode = opTest then
    let (k, s) := s.takeFree
    (word (Config.freeNat k), s)
  else (0#64, s)

/-- Writes a port at a level that may. -/
def State.writePort (s : State) (c : CoreId) (p : Nat) (v : Word) : State :=
  if p < 0x100 then s.updSc c fun x => x.portOut p v
  else if 0x140 ≤ p && p < 0x144 then s.writeLskew c (Fin.ofNat 4 (p - 0x140)) v
  else if p = 0x121 then s.tqDiscard c
  else if p < 0x200 then s.updMx c fun m => m.portOut p v
  else if p = 0x200 then s.ewPost c v
  else if p = 0x208 then s.ewAbort c
  else if p < 0x300 then s.updEw c fun e => e.portOut p v
  else if p < 0x400 then s.updVec c fun x => x.portOut p v
  else if p < 0x440 then
    let k := (p - 0x400) / 4
    if p % 4 = 0 then s.ferryPost c k v else if p % 4 = 3 then s.ferryAbort c k else s
  else if p < 0x800 then s.updCore c fun x => { x with fp := x.fp.out p v }
  else if p < 0x1000 then s.coveOut c p v
  else if p < 0x1100 then s.tideOut c p v
  else if 0x2000 ≤ p && p < 0x2100 then s.updCore c fun x => { x with pw := x.pw.out p v }
  else s

/-- An OUT (R180): ignored where no level may write the port, and a privilege fault from a level below the port's. -/
def State.outBody (s : State) (c : CoreId) (p : Nat) (v : Word) : Res :=
  match outLevel p with
  | none => .done s
  | some lo => if lo ≤ (s.sc c).priv then .done (s.writePort c p v) else .exc s (privilegeFault p)

/-- An IN (R180). -/
def State.inBody (s : State) (c : CoreId) (p : Nat) (rd : BitVec 5) : Res :=
  if inLevel p ≤ (s.sc c).priv then
    let (w, s) := s.readPort c p
    .done (s.updSc c fun x => x.wg rd w)
  else .exc s (privilegeFault p)

/-- An IN of a port into a register; LBINFO's read then lets the next late error come (R230). -/
def portRead (c : CoreId) (g : Guard) (bad : Bool) (p : Nat) (rd : BitVec 5) (s : State) : State :=
  if p = 0x27 && !bad then lbinfoIn s c g rd else s.issue c g bad fun s => s.inBody c p rd

/-! ### The instructions and the port rows -/

/-- IN (R180). -/
def execPortIn (c : CoreId) (g : Guard) (f : FmtIO) (s : State) : Out := .next (portRead c g false f.port.toNat f.g s)

/-- OUT (R180, R181). -/
def execPortOut (c : CoreId) (g : Guard) (f : FmtIO) (s : State) : Out :=
  .next (s.issue c g false fun s => s.outBody c f.port.toNat ((s.sc c).rg f.g))

/-- INR (Table 6.12). -/
def execInr (c : CoreId) (g : Guard) (f : FmtSys) (s : State) : Out :=
  .next (portRead c g (sysBad f true true false) (fld ((s.sc c).rg f.ra) 15 0) f.rd s)

/-- OUTR (Table 6.12). -/
def execOutr (c : CoreId) (g : Guard) (f : FmtSys) (s : State) : Out :=
  .next (s.issue c g (sysBad f false true true) fun s => s.outBody c (fld ((s.sc c).rg f.ra) 15 0) ((s.sc c).rg f.rb))

/-- REGISTER_WRITE (R11, R180): an OUT of a value to a port. -/
def execRegisterWrite (c : CoreId) (port : BitVec 16) (v : Word) (s : State) : Out :=
  .next (s.issue c alwaysGuard false fun s => s.outBody c port.toNat v)

/-- LPROG_ABANDON (R178): an OUT of zero to LPROG. -/
def execLprogAbandon (c : CoreId) (s : State) : Out :=
  .next (outPort c privRuntime 0x18 (fun s => s.updSc c fun x => x.writeLprog 0#64) s)

/-- VCFG (R192): an OUT to VCFG. -/
def execVcfg (c : CoreId) (v : Word) (s : State) : Out :=
  .next (outPort c privTask 0x300 (fun s => s.updVec c fun x => x.writeCfg v) s)

/-- VLEN (R193): an OUT to VLEN. -/
def execVlen (c : CoreId) (v : Word) (s : State) : Out :=
  .next (outPort c privTask 0x301 (fun s => s.updVec c fun x => x.writeVlen v) s)

end Sys2Proof.Machine
end

