-- ==== Sys2Proof/Machine/Dispatch.lean ====
section
/-! DEFINITION. What each command does: one arm per row of spec/opcode_table.json. -/

namespace Sys2Proof.Machine

/-- The effect of a command on everything but the queue. -/
def exec (i : Instr) (s : State) : Host.Outcome State Fault Refusal :=
  match i with
  -- the scalar instruction set (ch. 6)
  | .alu c g f => Sys2Proof.Machine.execAlu c g f s
  | .addi c g f => Sys2Proof.Machine.execAddi c g f s
  | .andi c g f => Sys2Proof.Machine.execAndi c g f s
  | .ori c g f => Sys2Proof.Machine.execOri c g f s
  | .xori c g f => Sys2Proof.Machine.execXori c g f s
  | .shi c g f => Sys2Proof.Machine.execShi c g f s
  | .movi c g f => Sys2Proof.Machine.execMovi c g f s
  | .movsh c g f => Sys2Proof.Machine.execMovsh c g f s
  | .cmp c g f => Sys2Proof.Machine.execCmp c g f s
  | .cmpi c g f => Sys2Proof.Machine.execCmpi c g f s
  | .pred c g f => Sys2Proof.Machine.execPred c g f s
  | .muldiv c g f => Sys2Proof.Machine.execMuldiv c g f s
  | .fpu c g f => Sys2Proof.Machine.execFpu c g f s
  | .fcmp c g f => Sys2Proof.Machine.execFcmp c g f s
  | .fcvt c g f => Sys2Proof.Machine.execFcvt c g f s
  | .br c g off => Sys2Proof.Machine.execBr c g off s
  | .call c g off => Sys2Proof.Machine.execCall c g off s
  | .nop c g f => Sys2Proof.Machine.execNop c g f s
  | .jr c g f => Sys2Proof.Machine.execJr c g f s
  | .callr c g f => Sys2Proof.Machine.execCallr c g f s
  | .ret c g f => Sys2Proof.Machine.execRet c g f s
  | .eret c g f => Sys2Proof.Machine.execEret c g f s
  | .shield c g f => Sys2Proof.Machine.execShield c g f s
  | .trap c g f => Sys2Proof.Machine.execTrap c g f s
  | .fence c g f => Sys2Proof.Machine.execFence c g f s
  | .wait c g f => Sys2Proof.Machine.execWait c g f s
  | .inr c g f => Sys2Proof.Machine.execInr c g f s
  | .outr c g f => Sys2Proof.Machine.execOutr c g f s
  | .mfc c g f => Sys2Proof.Machine.execMfc c g f s
  | .mtc c g f => Sys2Proof.Machine.execMtc c g f s
  | .rdpc c g f => Sys2Proof.Machine.execRdpc c g f s
  | .ld c g f => Sys2Proof.Machine.execLd c g f s
  | .ldu c g f => Sys2Proof.Machine.execLdu c g f s
  | .st c g f => Sys2Proof.Machine.execSt c g f s
  | .dzl c g f => Sys2Proof.Machine.execDzl c g f s
  | .pref c g f => Sys2Proof.Machine.execPref c g f s
  | .clean c g f => Sys2Proof.Machine.execClean c g f s
  | .flush c g f => Sys2Proof.Machine.execFlush c g f s
  | .inval c g f => Sys2Proof.Machine.execInval c g f s
  | .l1Fill c => Sys2Proof.Machine.execL1Fill c s
  | .storeBufferDrain c k => Sys2Proof.Machine.execStoreBufferDrain c k s
  | .lateBusError c k => Sys2Proof.Machine.execLateBusError c k s
  | .lbinfoRead c rd => Sys2Proof.Machine.execLbinfoRead c rd s
  | .amo c g f => Sys2Proof.Machine.execAmo c g f s
  | .lcopy c g f => Sys2Proof.Machine.execLcopy c g f s
  | .zfill c g f => Sys2Proof.Machine.execZfill c g f s
  | .lprogAbandon c => Sys2Proof.Machine.execLprogAbandon c s
  | .portIn c g f => Sys2Proof.Machine.execPortIn c g f s
  | .portOut c g f => Sys2Proof.Machine.execPortOut c g f s
  | .registerWrite c port v => Sys2Proof.Machine.execRegisterWrite c port v s
  | .interrupt c => Sys2Proof.Machine.execInterrupt c s
  | .shieldWindowEnd c => Sys2Proof.Machine.execShieldWindowEnd c s
  -- the vector extension (ch. 7)
  | .vadd c g f k => Sys2Proof.Machine.execVadd c g f k s
  | .vsub c g f k => Sys2Proof.Machine.execVsub c g f k s
  | .vmul c g f k => Sys2Proof.Machine.execVmul c g f k s
  | .vfma c g f k => Sys2Proof.Machine.execVfma c g f k s
  | .vfnma c g f k => Sys2Proof.Machine.execVfnma c g f k s
  | .vmin c g f k => Sys2Proof.Machine.execVmin c g f k s
  | .vmax c g f k => Sys2Proof.Machine.execVmax c g f k s
  | .vdiv c g f k => Sys2Proof.Machine.execVdiv c g f k s
  | .vand c g f => Sys2Proof.Machine.execVand c g f s
  | .vor c g f => Sys2Proof.Machine.execVor c g f s
  | .vxor c g f => Sys2Proof.Machine.execVxor c g f s
  | .vcmp c g f k => Sys2Proof.Machine.execVcmp c g f k s
  | .vmov c g f => Sys2Proof.Machine.execVmov c g f s
  | .vsplat c g f => Sys2Proof.Machine.execVsplat c g f s
  | .vget c g f => Sys2Proof.Machine.execVget c g f s
  | .vabs c g f k => Sys2Proof.Machine.execVabs c g f k s
  | .vneg c g f k => Sys2Proof.Machine.execVneg c g f k s
  | .vsqrt c g f k => Sys2Proof.Machine.execVsqrt c g f k s
  | .vcvt c g f k => Sys2Proof.Machine.execVcvt c g f k s
  | .vrint c g f k => Sys2Proof.Machine.execVrint c g f k s
  | .viota c g f => Sys2Proof.Machine.execViota c g f s
  | .vcompress c g f => Sys2Proof.Machine.execVcompress c g f s
  | .kand c g f => Sys2Proof.Machine.execKand c g f s
  | .kor c g f => Sys2Proof.Machine.execKor c g f s
  | .kxor c g f => Sys2Proof.Machine.execKxor c g f s
  | .kandn c g f => Sys2Proof.Machine.execKandn c g f s
  | .knot c g f => Sys2Proof.Machine.execKnot c g f s
  | .kpop c g f => Sys2Proof.Machine.execKpop c g f s
  | .kfirst c g f => Sys2Proof.Machine.execKfirst c g f s
  | .kset c g f => Sys2Proof.Machine.execKset c g f s
  | .vsetvl c g f => Sys2Proof.Machine.execVsetvl c g f s
  | .vectorReduction c g func f k => Sys2Proof.Machine.execVectorReduction c g func f k s
  | .vectorLoad c g f => Sys2Proof.Machine.execVectorLoad c g f s
  | .vectorStore c g f => Sys2Proof.Machine.execVectorStore c g f s
  | .firstFaultLoad c g f => Sys2Proof.Machine.execFirstFaultLoad c g f s
  | .k4inl c g store f => Sys2Proof.Machine.execK4inl c g store f s
  | .vcfg c v => Sys2Proof.Machine.execVcfg c v s
  | .vlen c v => Sys2Proof.Machine.execVlen c v s
  -- the matrix engine (ch. 4)
  | .mxCfg c g f => Sys2Proof.Machine.execMxCfg c g f s
  | .mxLdw c g f => Sys2Proof.Machine.execMxLdw c g f s
  | .mxLdwAcc c g f => Sys2Proof.Machine.execMxLdwAcc c g f s
  | .weightLoadComplete c r => Sys2Proof.Machine.execWeightLoadComplete c r s
  | .mxSeq c g f => Sys2Proof.Machine.execMxSeq c g f s
  | .step c k => Sys2Proof.Machine.execStep c k s
  | .mxDrn c g f => Sys2Proof.Machine.execMxDrn c g f s
  | .mxDrnImg c g f => Sys2Proof.Machine.execMxDrnImg c g f s
  | .mxDrnDiscard c g f => Sys2Proof.Machine.execMxDrnDiscard c g f s
  | .drainRowWrite c bank shoal k => Sys2Proof.Machine.execDrainRowWrite c bank shoal k s
  | .drainEnd c bank => Sys2Proof.Machine.execDrainEnd c bank s
  | .mprogAbandon c => Sys2Proof.Machine.execMprogAbandon c s
  | .lskew c n v => Sys2Proof.Machine.execLskew c n v s
  | .tqdiscard c v => Sys2Proof.Machine.execTqdiscard c v s
  | .accumulatorRestoreEnd c bank => Sys2Proof.Machine.execAccumulatorRestoreEnd c bank s
  -- the element-wise engine (ch. 5)
  | .ewpost c v => Sys2Proof.Machine.execEwpost c v s
  | .descriptorStart c => Sys2Proof.Machine.execDescriptorStart c s
  | .tileQueueEntryTake c => Sys2Proof.Machine.execTileQueueEntryTake c s
  | .batch c k => Sys2Proof.Machine.execBatch c k s
  | .completionRecordPush c => Sys2Proof.Machine.execCompletionRecordPush c s
  | .ewcpl c rd => Sys2Proof.Machine.execEwcpl c rd s
  | .ewabort c v => Sys2Proof.Machine.execEwabort c v s
  -- ferries (ch. 10)
  | .fpost c t v => Sys2Proof.Machine.execFpost c t v s
  | .ferryDescriptorStart c t => Sys2Proof.Machine.execFerryDescriptorStart c t s
  | .ferryAssign isle => Sys2Proof.Machine.execFerryAssign isle s
  | .steal isle ferry => Sys2Proof.Machine.execSteal isle ferry s
  | .ferryTile isle ferry => Sys2Proof.Machine.execFerryTile isle ferry s
  | .ferryCompletion c t => Sys2Proof.Machine.execFerryCompletion c t s
  | .fcpl c t rd => Sys2Proof.Machine.execFcpl c t rd s
  | .fabort c t v => Sys2Proof.Machine.execFabort c t v s
  -- reduction windows (ch. 9)
  | .contribution isle w va idx f data => Sys2Proof.Machine.execContribution isle w va idx f data s
  | .stagedContributionApply isle w line => Sys2Proof.Machine.execStagedContributionApply isle w line s
  | .arm c w => Sys2Proof.Machine.execArm c w s
  | .abort c w => Sys2Proof.Machine.execAbort c w s
  -- memory tiers (ch. 9)
  | .scrub p o => Sys2Proof.Machine.execScrub p o s
  | .laneTraining isle lanes => Sys2Proof.Machine.execLaneTraining isle lanes s
  | .midFrame isle header rest => Sys2Proof.Machine.execMidFrame isle header rest s
  | .midRetrain isle lanes => Sys2Proof.Machine.execMidRetrain isle lanes s
  | .read64 isle tag addr => Sys2Proof.Machine.execRead64 isle tag addr s
  | .read128 isle tag addr => Sys2Proof.Machine.execRead128 isle tag addr s
  | .write64 isle tag addr data => Sys2Proof.Machine.execWrite64 isle tag addr data s
  | .write128 isle tag addr data => Sys2Proof.Machine.execWrite128 isle tag addr data s
  | .writeMask64 isle tag addr mask data => Sys2Proof.Machine.execWriteMask64 isle tag addr mask data s
  | .response isle tag o => Sys2Proof.Machine.execResponse isle tag o s
  | .deepWrite c addr data => Sys2Proof.Machine.execDeepWrite c addr data s
  | .deepRead c addr len ldpc rebuilt => Sys2Proof.Machine.execDeepRead c addr len ldpc rebuilt s
  | .enduranceUpdate media wear spare => Sys2Proof.Machine.execEnduranceUpdate media wear spare s
  | .nearTemperatureRead isle t0 t1 => Sys2Proof.Machine.execNearTemperatureRead isle t0 t1 s
  -- HMP (ch. 11)
  | .cmd f => Sys2Proof.Machine.execCmd f s
  | .doorbell f => Sys2Proof.Machine.execDoorbell f s
  | .ack f => Sys2Proof.Machine.execAck f s
  | .nak f => Sys2Proof.Machine.execNak f s
  | .hello f => Sys2Proof.Machine.execHello f s
  | .retransmit q => Sys2Proof.Machine.execRetransmit q s
  -- Harbour commands at the head of a queue (ch. 12)
  | .graphStore q img body v => Sys2Proof.Machine.execGraphStore q img body v s
  | .graphDrop q => Sys2Proof.Machine.execGraphDrop q s
  | .graphLaunch q => Sys2Proof.Machine.execGraphLaunch q s
  | .paramPatch q => Sys2Proof.Machine.execParamPatch q s
  | .fenceSignal q => Sys2Proof.Machine.execFenceSignal q s
  | .fenceWait q => Sys2Proof.Machine.execFenceWait q s
  | .fenceTimeout q => Sys2Proof.Machine.execFenceTimeout q s
  | .fenceReset q => Sys2Proof.Machine.execFenceReset q s
  | .queueCtlResume q => Sys2Proof.Machine.execQueueCtlResume q s
  | .queueCtlFlush q => Sys2Proof.Machine.execQueueCtlFlush q s
  | .ctxOpen q => Sys2Proof.Machine.execCtxOpen q s
  | .ctxConfig q => Sys2Proof.Machine.execCtxConfig q s
  | .ctxReset q => Sys2Proof.Machine.execCtxReset q s
  | .ctxClose q => Sys2Proof.Machine.execCtxClose q s
  | .map q => Sys2Proof.Machine.execMap q s
  | .unmap q => Sys2Proof.Machine.execUnmap q s
  | .epochRetire ctx => Sys2Proof.Machine.execEpochRetire ctx s
  | .regionDrop q => Sys2Proof.Machine.execRegionDrop q s
  | .faultResolveReplay q => Sys2Proof.Machine.execFaultResolveReplay q s
  | .faultResolveFail q => Sys2Proof.Machine.execFaultResolveFail q s
  | .faultTimeout id => Sys2Proof.Machine.execFaultTimeout id s
  | .retire q => Sys2Proof.Machine.execRetire q s
  | .copy q => Sys2Proof.Machine.execCopy q s
  | .query q => Sys2Proof.Machine.execQuery q s
  | .logRead q => Sys2Proof.Machine.execLogRead q s
  | .traceRead q => Sys2Proof.Machine.execTraceRead q s
  | .partSet q => Sys2Proof.Machine.execPartSet q s
  | .regSet q => Sys2Proof.Machine.execRegSet q s
  | .powerTol q => Sys2Proof.Machine.execPowerTol q s
  | .powerCap q => Sys2Proof.Machine.execPowerCap q s
  -- launches and moorings (ch. 11)
  | .dispatch q => Sys2Proof.Machine.execDispatch q s
  | .workItemPost launch c => Sys2Proof.Machine.execWorkItemPost launch c s
  | .mooring c => Sys2Proof.Machine.execMooring c s
  | .mooringWrite c slot v => Sys2Proof.Machine.execMooringWrite c slot v s
  | .mooringTimeout c slot => Sys2Proof.Machine.execMooringTimeout c slot s
  | .launchEnd launch => Sys2Proof.Machine.execLaunchEnd launch s
  -- RoCE (ch. 10, 11)
  | .rdmaWrite qp key addr data => Sys2Proof.Machine.execRdmaWrite qp key addr data s
  | .rdmaRead qp key addr len => Sys2Proof.Machine.execRdmaRead qp key addr len s
  | .send qp => Sys2Proof.Machine.execSend qp s
  | .connectionEstablish qp port mtu => Sys2Proof.Machine.execConnectionEstablish qp port mtu s
  -- tide and Strait (ch. 13)
  | .tideAdjust => Sys2Proof.Machine.execTideAdjust s
  | .twakeExpiry c => Sys2Proof.Machine.execTwakeExpiry c s
  | .tvote c v => Sys2Proof.Machine.execTvote c v s
  | .portTraining p r => Sys2Proof.Machine.execPortTraining p r s
  | .portRetrain p => Sys2Proof.Machine.execPortRetrain p s
  | .data p f => Sys2Proof.Machine.execData p f s
  | .filler p f => Sys2Proof.Machine.execFiller p f s
  | .side p f => Sys2Proof.Machine.execSide p f s
  | .start p x => Sys2Proof.Machine.execStart p x s
  | .startAt p x => Sys2Proof.Machine.execStartAt p x s
  | .startTimeout launch => Sys2Proof.Machine.execStartTimeout launch s
  | .vote p x => Sys2Proof.Machine.execVote p x s
  | .outcome p x => Sys2Proof.Machine.execOutcome p x s
  | .coast p x => Sys2Proof.Machine.execCoast p x s
  | .replay p x => Sys2Proof.Machine.execReplay p x s
  | .root p x => Sys2Proof.Machine.execRoot p x s
  | .harbour p x => Sys2Proof.Machine.execHarbour p x s
  | .lateFlit p => Sys2Proof.Machine.execLateFlit p s
  | .silent p => Sys2Proof.Machine.execSilent p s
  | .voteSample launch => Sys2Proof.Machine.execVoteSample launch s
  | .decisionTick launch => Sys2Proof.Machine.execDecisionTick launch s
  | .outcomeApply launch => Sys2Proof.Machine.execOutcomeApply launch s
  | .coastStop launch => Sys2Proof.Machine.execCoastStop launch s
  | .coastUnload launch => Sys2Proof.Machine.execCoastUnload launch s
  -- power and thermal (ch. 14)
  | .dutyWindow r => Sys2Proof.Machine.execDutyWindow r s
  | .dutyGroup need needDet mean => Sys2Proof.Machine.execDutyGroup need needDet mean s
  | .capUnreachable => Sys2Proof.Machine.execCapUnreachable s
  | .thermalTopRead r => Sys2Proof.Machine.execThermalTopRead r s
  | .junctionTemperature isle t => Sys2Proof.Machine.execJunctionTemperature isle t s
  | .wakeTokenGrant c mhz => Sys2Proof.Machine.execWakeTokenGrant c mhz s
  | .ageingCheck isle short shortAtGuaranteed => Sys2Proof.Machine.execAgeingCheck isle short shortAtGuaranteed s
  | .s1 isle => Sys2Proof.Machine.execS1 isle s
  | .s2 isle => Sys2Proof.Machine.execS2 isle s
  | .s3 => Sys2Proof.Machine.execS3 s
  | .s4 => Sys2Proof.Machine.execS4 s
  -- safety (ch. 15)
  | .limiter amps100 => Sys2Proof.Machine.execLimiter amps100 s
  | .limiterRelease amps100 => Sys2Proof.Machine.execLimiterRelease amps100 s
  | .lighthouseTrip code reading => Sys2Proof.Machine.execLighthouseTrip code reading s
  | .heartbeat => Sys2Proof.Machine.execHeartbeat s
  | .lighthouseSelfCheck oscillatorOk supplyOk storeOk heartbeatOk => Sys2Proof.Machine.execLighthouseSelfCheck oscillatorOk supplyOk storeOk heartbeatOk s
  -- reporting (ch. 15)
  | .alarmClose source code => Sys2Proof.Machine.execAlarmClose source code s
  | .logNotice => Sys2Proof.Machine.execLogNotice s
  | .storm => Sys2Proof.Machine.execStorm s
  | .selfTest c => Sys2Proof.Machine.execSelfTest c s
  | .selfTestEnd c ok => Sys2Proof.Machine.execSelfTestEnd c ok s
  -- module interfaces (ch. 16, 17)
  | .pwrEn high => Sys2Proof.Machine.execPwrEn high s
  | .inputVoltage millivolts => Sys2Proof.Machine.execInputVoltage millivolts s
  | .bootStages r => Sys2Proof.Machine.execBootStages r s
  | .spdmRequest b k => Sys2Proof.Machine.execSpdmRequest b k s
  | .getMeasurements b index signed => Sys2Proof.Machine.execGetMeasurements b index signed s
  | .getHssIdentity b => Sys2Proof.Machine.execGetHssIdentity b s
  | .getHssSignature b appendOk => Sys2Proof.Machine.execGetHssSignature b appendOk s
  | .requestUpdate b => Sys2Proof.Machine.execRequestUpdate b s
  | .requestFirmwareData h v digest writtenOk => Sys2Proof.Machine.execRequestFirmwareData h v digest writtenOk s
  | .pldmRequest k => Sys2Proof.Machine.execPldmRequest k s
  | .setdasa addr => Sys2Proof.Machine.execSetdasa addr s
  | .setNet port n => Sys2Proof.Machine.execSetNet port n s
  | .getNet port => Sys2Proof.Machine.execGetNet port s
  | .setRecovery addr => Sys2Proof.Machine.execSetRecovery addr s
  | .moduleReset flags => Sys2Proof.Machine.execModuleReset flags s
  | .getTrips => Sys2Proof.Machine.execGetTrips s
  | .announce => Sys2Proof.Machine.execAnnounce s
  | .offer session status total => Sys2Proof.Machine.execOffer session status total s
  | .dataRecovery session offset len h v body writtenOk => Sys2Proof.Machine.execDataRecovery session offset len h v body writtenOk s
  | .readResend offset => Sys2Proof.Machine.execReadResend offset s
  | .sessionAbandon => Sys2Proof.Machine.execSessionAbandon s
  | .slotTransmission => Sys2Proof.Machine.execSlotTransmission s
  | .cellHoldExpiry key => Sys2Proof.Machine.execCellHoldExpiry key s
  | .arpRequest port target => Sys2Proof.Machine.execArpRequest port target s
  | .dhcp port lease => Sys2Proof.Machine.execDhcp port lease s
  | .autoNegotiation port gbps => Sys2Proof.Machine.execAutoNegotiation port gbps s
  | .mctpControl b => Sys2Proof.Machine.execMctpControl b s
  | .coolingKindDecode straps presentN => Sys2Proof.Machine.execCoolingKindDecode straps presentN s

end Sys2Proof.Machine
end

