-- ==== Sys2Proof/Machine/Tick.lean ====
section
/-! DEFINITION. One tick of tide time with nothing commanded (R6, R7): what the block does on an empty queue. -/

namespace Sys2Proof.Machine

/-- A core that waits for wake tokens counts the tick (Table 14.7). -/
def PowerPorts.tick (x : PowerPorts) : PowerPorts := if x.want.isSome then { x with wakeCnt := satInc x.wakeCnt } else x

/-- CYCLES counts on through a tick while the core's clock runs (R183): how far is free (log 4). -/
def State.tickCore (s : State) (i : Nat) (k : Core) : Core :=
  let n := if s.clocked (coreOf i) then word (Config.tickCycles i s.tide.toNat) else 0#64
  { k with pw := k.pw.tick, sc := { k.sc with cycles := k.sc.cycles + n } }

/-- The tide advances by one; an isle's wake bucket holds its 15 tokens again, and half tokens flow into the module's (R434). -/
def State.tick (s : State) : State :=
  { s with
    tide := s.tide + 1#64
    cores := s.cores.map fun c => (c.1, s.tickCore c.1 c.2)
    isles := s.isles.map fun x => { x with tokens := 15 }
    power := { s.power with tokens := min 512 (s.power.tokens + 5) } }

end Sys2Proof.Machine
end

