-- ==== Sys2Proof/Machine/Step.lean ====
section
/-! DEFINITION. One step: the command at the front of the queue, or one tick of tide time. -/

namespace Sys2Proof.Machine

/-- Runs the oldest pending command with the queue's rest; on an empty queue a tick passes (log 14). -/
def step (s : State) : Host.Outcome State Fault Refusal :=
  match s.pending with
  | i :: t => exec i { s with pending := t }
  | [] => .next s.tick

/-- Puts the command that a word spells at the front of the queue; a word that spells none changes nothing. -/
def State.withFetchWord (s : State) (nbits w : Nat) : State :=
  match decodeTableWord nbits w with
  | some i => { s with pending := i :: s.pending }
  | none => s

end Sys2Proof.Machine
end

