-- ==== Sys2Proof/Machine/CoreWord.lean ====
section
/-! DEFINITION. What a core does with an instruction word (R147, R150, R153). -/

namespace Sys2Proof.Machine

/-- Core `c` executes the word `w`: the instruction that it spells, or an illegal-instruction exception where its OP, FUNC, SUB or operation
code is reserved, whatever its guard (R150). -/
def executeWord (c : CoreId) (w : BitVec 32) (s : State) : Host.Outcome State Fault Refusal :=
  match decodeCoreWord c w with
  | some i => exec i s
  | none => .next (s.issue c (wordGuard w) true .done)

end Sys2Proof.Machine
end

