-- ==== Sys2Proof/Safety.lean ====
section
/-! DEFINITION. What claims about the block are stated in: when a core executes an instruction, the state in which it has
retired one, what stays outside an instruction's reach, and the invariants of the block. -/

namespace Sys2Proof.Machine

/-! ### Execution of one instruction -/

/-- No late bus error waits that an instruction boundary would record (R230): none waits, or LBINFO is still valid. -/
abbrev Scalar.settled (x : Scalar) : Prop := x.late = [] ∨ x.lbValid = true

/-- Core `c` executes an instruction under guard `g`: it can issue, the guard is not the reserved one, and it holds (R149); no late bus
error is to come at its end (R230). -/
abbrev Runs (s : State) (c : CoreId) (g : Guard) : Prop :=
  s.canIssue c = true ∧ neverGuard g = false ∧ (s.sc c).rp g.pg ≠ g.pn ∧ (s.sc c).settled

/-- Applies `f` to a core's scalar part. -/
def Core.onSc (k : Core) (f : Scalar → Scalar) : Core := { k with sc := f k.sc }

/-- Applies `f` to a core's vector unit. -/
def Core.onVec (k : Core) (f : Vec → Vec) : Core := { k with vec := f k.vec }

/-- Applies `f` to a core's matrix engine. -/
def Core.onMx (k : Core) (f : Mx → Mx) : Core := { k with mx := f k.mx }

/-- A core that has retired an instruction and goes on at `pc`: RETIRED is one more, CYCLES has advanced by the free number of
cycles that the instruction took (log 4), and a handler's first instruction, if it was one, has issued (R222). -/
def Core.retiredTo (k : Core) (c : CoreId) (pc : Word) : Core :=
  k.onSc fun x =>
    { x with
      pc := pc
      retired := x.retired + 1#64
      cycles := x.cycles + 1#64 + word (Config.extraCycles c.val x.retired.toNat)
      hold := false
      run := .running }

/-- The state in which core `c` alone has changed: `f` of what it was, one instruction retired, and the pc past it. -/
def State.retires (s : State) (c : CoreId) (f : Core → Core) : State :=
  s.setCore c ((f (s.core c)).retiredTo c ((s.sc c).pc + 4#64))

/-- As `retires`, but the core goes on at `pc`. -/
def State.jumps (s : State) (c : CoreId) (f : Core → Core) (pc : Word) : State :=
  s.setCore c ((f (s.core c)).retiredTo c pc)

/-- The state in which the instruction's body runs: the core runs, and a handler's first instruction has issued. -/
def State.begun (s : State) (c : CoreId) : State := s.updSc c fun x => { x with run := .running, hold := false }

/-! ### Frames -/

/-- Nothing but core `c` differs. -/
def OnlyCore (s t : State) (c : CoreId) : Prop := t = s.setCore c (t.core c)

/-- Nothing but the scalar part of core `c` differs. -/
def OnlyScalar (s t : State) (c : CoreId) : Prop := t = s.setSc c (t.sc c)

/-- Nothing but the vector unit of core `c`, and its pc, RETIRED, CYCLES and run state, differ. -/
def OnlyVector (s t : State) (c : CoreId) : Prop := t = s.retires c fun k => { k with vec := t.vec c }

/-- The outcome of a command is a next state of which `p` holds. -/
def Answers (o : Host.Outcome State Fault Refusal) (p : State → Prop) : Prop := ∃ t, o = .next t ∧ p t

/-- Every byte of `m'` outside the `n` bytes at `a` is as in `m`. -/
def SameOutside (m m' : Bytes) (a n : Nat) : Prop := ∀ x, x < a ∨ a + n ≤ x → byteAt m' x = byteAt m x

/-- The bytes at `a` in `m'` are `bs`, and every other byte is as in `m`. -/
def Written (m m' : Bytes) (a : Nat) (bs : List Byte) : Prop := readBytes m' a bs.length = bs ∧ SameOutside m m' a bs.length

/-- The core's part that an exception entry at `target` leaves (R222): `x` before it, `e` the exception, `int` for an interrupt. -/
def Scalar.entered (x : Scalar) (int : Bool) (e : Exc) (resume : Word) (target : BitVec 2) : Scalar :=
  { x with
    epc := (resume &&& ~~~3#64) ||| x.priv.setWidth 64
    ecauseInt := int
    ecauseInfo := e.info
    ecauseCode := e.code
    eaddr := e.eaddr
    epriv := target
    priv := target
    pc := if target = 1#2 then x.evecRt else x.evecMon
    hold := true
    run := .running
    shieldOpen := false
    shieldUsed := false
    monitorEntry := x.monitorEntry || target != 1#2
    runtimeEntry := target = 1#2 }

/-- The state in which core `c` alone has changed: it has entered a handler, and a running MX.SEQ has stopped (R109, R222). -/
def State.enters (s : State) (c : CoreId) (int : Bool) (e : Exc) (resume : Word) (target : BitVec 2) : State :=
  s.setCore c ((s.core c).onMx Mx.suspend |>.onSc fun x => x.entered int e resume target)

/-- A range of device memory that context `ctx` may reach and read, and that holds no line of an open window. -/
abbrev PlainMemory (s : State) (ctx dpa n : Nat) : Prop :=
  s.tagOk ctx dpa = true ∧ s.unreadable dpa n = false ∧ s.inOpenWindow dpa n = false

/-- `s` with device memory, its marks, Deep's counters and the coves as they are in `t`. -/
def State.withMemoryOf (s t : State) : State := { s with mem := t.mem, marks := t.marks, deep := t.deep, coves := t.coves }

/-- The bytes of a lagoon below its mooring slots (Table 11.7). -/
def mooringFree : Nat := 0xffe00

/-- Nothing differs but the reports: alarms, log, traces, the event stream and the frames sent. -/
def OnlyReports (s t : State) : Prop := t = { s with rep := t.rep, hb := { s.hb with events := t.hb.events, sent := t.hb.sent } }

/-- Alarm `code` of `source` is open (R460), or ALARM_OVERFLOW stands for what the full table could not take (R461). -/
def State.alarmed (t : State) (code source : BitVec 16) : Prop :=
  ∃ a ∈ t.rep.alarms, (a.code = code ∧ a.source = source) ∨ a.code = 0#16

/-- No core differs but in its power ports and operating point (Tables 14.5, 14.7). -/
def OnlyPowerPorts (s t : State) : Prop := ∀ c, t.core c = { s.core c with pw := (t.core c).pw }

/-! ### Harbour's queues and frames -/

/-- Entry `e` with opcode `op` stands at the head of queue `q` and may start (R338): Harbour runs, no stage of Clamp is in force, its
reserved fields are zero, and no queue's running entry holds an object that it touches (R360). -/
abbrev Heads (s : State) (q : QueueId) (op : Nat) (e : Entry) : Prop :=
  s.head q = some e ∧ e.op = op ∧ s.harbourRuns = true ∧ s.lh.clamp = 0 ∧ e.reserved = false ∧ s.objectHeld q e = false

/-- Harbour takes frame `f` (R325-R327, R476, R507): it runs, the port has an address, and the frame is well formed and of type `ty`. -/
abbrev Takes (s : State) (ty : Nat) (f : HmpFrame) : Prop :=
  s.harbourRuns = true ∧ s.hasIp f.eth = true ∧ f.checksumOk = true ∧ hmpMalformed f = false ∧ f.type = ty

/-- Frames of type `type` that `t` has sent and `s` had not, with their entries put together (R327, R329, R330). -/
def SentSince (s t : State) (type : BitVec 8) (es : List Entry) : Prop :=
  ∃ fs : List OutFrame, t.hb.sent = s.hb.sent ++ fs ∧ (∀ f ∈ fs, f.type = type) ∧ fs.flatMap OutFrame.entries = es

/-! ### Results of a vector instruction -/

/-- What an elementwise instruction leaves of a vector unit `x` (R189, R194-R196): in the `size` registers at `vd`, an active body element
of format `e` takes its result, an inactive one is kept or zeroed as the mask policy says, and the tail is kept; an exceptional
result poisons its word; the registers outside the group and everything else but the IEEE flags are kept, and those accumulate. -/
def VectorResult (x y : Vec) (e : FmtCode) (vd size : Nat) (msel : BitVec 3) (pol : Bool) (res : Nat → Coded) : Prop :=
  (∀ i, i < size * epr e →
    (y.elem e vd i).bits =
      if i < x.vl.toNat then
        if x.active msel i then (res i).bits % 2 ^ e.bits else if pol then 0 else (x.elem e vd i).bits
      else (x.elem e vd i).bits) ∧
  (∀ i, i < x.vl.toNat → x.active msel i = true → (res i).exc = true → e.poisonBit?.isSome = true → y.poisonAt e vd i = true) ∧
  (∀ n, n < 64 → (n < vd ∨ vd + size ≤ n) → y.reg n = x.reg n) ∧
  (∀ k, k < 5 → (y.flags.getLsbD k = true ↔
    x.flags.getLsbD k = true ∨ ∃ i, i < x.vl.toNat ∧ x.active msel i = true ∧ (res i).flags.getLsbD k = true)) ∧
  y = { x with v := y.v, flags := y.flags }

/-- No active result raises a flag whose trap is enabled (R218). -/
abbrev Untrapped (x : Vec) (msel : BitVec 3) (res : Nat → Coded) : Prop :=
  ∀ i, i < x.vl.toNat → x.active msel i = true → (res i).flags.traps x.trapEn = false

/-! ### Invariants -/

/-- Every byte memory of a core is in canonical form. -/
def Core.bytesWf (k : Core) : Bool := Bytes.wf k.sc.lagoon && Bytes.wf k.sc.scratch

/-- The canonical form of memory: device memory, every lagoon and every scratch window. -/
def State.bytesWf (s : State) : Bool := Bytes.wf s.mem && s.cores.all fun x => x.2.bytesWf

/-- VL never passes VLMAX (R192, R193). -/
def Vec.sound (x : Vec) : Bool := x.vl.toNat ≤ x.vlmax

/-- MCFG.ROWS is at most 64, and the row of a running or interrupted MX.SEQ lies below it (R88, R104, R107, R109). -/
def Mx.sound (m : Mx) : Bool :=
  cfgRows m.mcfg ≤ 64 && (m.seq.all fun q => q.row.toNat < 64) && m.progRow.toNat < 64

/-- Every core's vector length and matrix position are in range. -/
def State.coresSound (s : State) : Bool := s.cores.all fun x => x.2.vec.sound && x.2.mx.sound

/-- What the Lighthouse and the limiter keep (R446-R450): Clamp has two stages, Shed asserts stage 2, at most 16 trips are kept
and each has been counted. -/
def Lighthouse.sound (x : Lighthouse) : Bool :=
  x.clamp ≤ 2 && (!x.shed || x.clamp = 2) && x.trips.length ≤ 16 && x.trips.length ≤ x.count

end Sys2Proof.Machine
end

