-- ==== Sys2Proof/Certificates/Slice0/Obligations.lean ====
section
/-! DEFINITION. The statements for the provers. Each docstring names the rules of the manual that its statement comes from; a clause
that rests on a choice of the model names its log entry. -/

open Sys2Proof Sys2Proof.Machine

/-! ### The block as a whole -/

/-- A step with command `i` at the front of the queue is `exec i` with the queue's rest. -/
def Obligations.StepRunsFrontCommand : Prop :=
  ∀ (i : Instr) (rest : List Instr) (s : State), step { s with pending := i :: rest } = exec i { s with pending := rest }

/-- On an empty queue one tick passes (the model's choice, log 14): TIDE advances by one, every isle's wake bucket holds 15 tokens
again (R434), and no other architectural state but a power unit's WAKECNT, the module's bucket, and CYCLES of a core whose clock runs
moves. -/
def Obligations.EmptyQueuePassesOneTick : Prop :=
  ∀ s : State, s.pending = [] →
    Answers (step s) fun t =>
      t.tide = s.tide + 1#64 ∧ (∀ i, t.isle i = { s.isle i with tokens := 15 }) ∧
      (∀ c, t.core c = { s.core c with pw := (t.core c).pw, sc := { s.sc c with cycles := (t.sc c).cycles } } ∧
        (s.clocked c = false → (t.sc c).cycles = (s.sc c).cycles) ∧
        (t.core c).pw = if (s.core c).pw.want.isSome then { (s.core c).pw with wakeCnt := satInc (s.core c).pw.wakeCnt } else (s.core c).pw) ∧
      t = { s with tide := t.tide, isles := t.isles, cores := t.cores, power := { s.power with tokens := min 512 (s.power.tokens + 5) } }

/-- Every command is answered with a next state, and no command reads or writes the queue of commands that wait. -/
def Obligations.EveryCommandAnswersAndLeavesTheQueue : Prop :=
  ∀ (i : Instr) (s : State), Answers (exec i s) fun t => t.pending = s.pending

/-- What reset leaves (R74, R90, R152, R328, R434, R440, Tables 6.3, 6.21, 7.2-7.4, 12.2): a core at monitor level in startup mode with p0
set and the vector unit at VCFG 0x101 and VL 32; clear accumulator banks; sequence spaces at 0; 15 wake tokens an isle; a tolerance of 80
µs; nothing clamped. The three invariants hold after reset, and a core that no command has touched yet has sound units. -/
def Obligations.ResetLeavesASoundBlock : Prop :=
  (let s := State.reset
   (∀ c, (s.sc c).mode = 0x12#64 ∧ (∀ r, (s.sc c).rg r = 0#64) ∧ (s.sc c).preds = 1#64 ∧ (s.sc c).fstat = 0#64 ∧
     (s.vec c).vcfg = 0x101#64 ∧ (s.vec c).vl = 0x020#12 ∧ (s.mx c).mcfg = 0x100441#64 ∧
     (s.mx c).banks = Vector.replicate 2 [] ∧ Acc.clear.exp.toNat = 0x2000 ∧ (s.mx c).tq = []) ∧
   (∀ q, (s.queue q).expect = 0#32 ∧ (s.queue q).compNext = 0#32) ∧ s.hb.events.next = 0#32 ∧
   (∀ i, (s.isle i).tokens = 15) ∧ s.power.tolerance = 80 ∧ s.lh.clamp = 0 ∧ s.mem = [] ∧ s.pending = []) ∧
  (State.reset.bytesWf = true ∧ State.reset.lh.sound = true ∧ State.reset.coresSound = true ∧
   Core.reset.vec.sound = true ∧ Core.reset.mx.sound = true)

/-- The canonical form of memory (device memory, lagoons, scratch ways) survives every step: the model's own form (log 6). -/
def Obligations.MemoryFormSurvivesEveryStep : Prop :=
  ∀ s t : State, s.bytesWf = true → step s = .next t → t.bytesWf = true

/-- What the Lighthouse keeps survives every step (R447, R449, R450): Clamp has stages 1 and 2, SHED_REQ is asserted in stage 2
alone, and it keeps its last 16 trips. -/
def Obligations.LighthouseStaysSoundInEveryStep : Prop :=
  ∀ s t : State, s.lh.sound = true → step s = .next t → t.lh.sound = true

/-- On every core VL stays within VLMAX (R192, R193), ROWS within 64 and the row of an MX.SEQ below 64 (R88, R107), whatever the step. -/
def Obligations.VectorAndMatrixRangesSurviveEveryStep : Prop :=
  ∀ s t : State, s.coresSound = true → step s = .next t → t.coresSound = true

/-- Clamp, at either stage, holds through every command but a module reset, a loss of power, or the reset that ends a recovery; Shed
holds through everything but a loss of power, and no trip is forgotten (R449, R450). -/
def Obligations.ClampHoldsUntilReset : Prop :=
  ∀ (s t : State) (i : Instr), exec i s = .next t → s.lh.count ≤ t.lh.count ∧
    ((∀ b, i ≠ .pwrEn b) → (∀ v, i ≠ .inputVoltage v) →
      (s.lh.shed = true → t.lh.shed = true) ∧
      ((∀ f, i ≠ .moduleReset f) → (∀ a b c d e f g, i ≠ .dataRecovery a b c d e f g) → s.lh.clamp ≤ t.lh.clamp))

/-! ### Integer, predicate and floating-point instructions -/

/-- ALU, the immediate instructions and MULDIV (R155, R156, R159): rd, and nothing else but the pc and the counters of a retired
instruction, takes the result. A write to g0 is discarded. CMP, CMPI, PRED, MFC, MTC, RDPC and NOP (R157, R158, R165, R170, Table 6.12):
each changes its predicate, its register or its half of a c register; a write of p0 or g0 is discarded; NOP changes nothing. -/
def Obligations.IntegerAndPredicateInstructions : Prop :=
  (∀ (s : State) (c : CoreId) (g : Guard), Runs s c g →
     let x := s.sc c
     let put (rd : BitVec 5) (v : Word) : Host.Outcome State Fault Refusal := .next (s.retires c fun k => k.onSc fun y => y.wg rd v)
     (∀ f v, aluOp f.func (x.rg f.ra) (x.rg f.rb) = some v → (aluUnary f.func = true → f.rb = 0#5) → exec (.alu c g f) s = put f.rd v) ∧
     (∀ f, exec (.addi c g f) s = put f.rd (x.rg f.ra + f.imm.signExtend 64)) ∧
     (∀ f, exec (.andi c g f) s = put f.rd (x.rg f.ra &&& f.imm.signExtend 64)) ∧
     (∀ f, exec (.ori c g f) s = put f.rd (x.rg f.ra ||| f.imm.signExtend 64)) ∧
     (∀ f, exec (.xori c g f) s = put f.rd (x.rg f.ra ^^^ f.imm.signExtend 64)) ∧
     (∀ f, f.imm.extractLsb' 8 4 = 0#4 →
       exec (.shi c g f) s = put f.rd (shiftOp (f.imm.extractLsb' 6 2) (x.rg f.ra) (f.imm.extractLsb' 0 6).toNat)) ∧
     (∀ f, exec (.movi c g f) s = put f.rd (f.imm.signExtend 64)) ∧
     (∀ f, exec (.movsh c g f) s = put f.rd ((x.rg f.rd <<< 17) ||| f.imm.setWidth 64)) ∧
     (∀ f v, mulDivOp f.func (x.rg f.ra) (x.rg f.rb) = some v → exec (.muldiv c g f) s = put f.rd v)) ∧
  (∀ (s : State) (c : CoreId) (g : Guard), Runs s c g →
     let x := s.sc c
     let put (f : Scalar → Scalar) : Host.Outcome State Fault Refusal := .next (s.retires c fun k => k.onSc f)
     (∀ f b, f.fmt = 0#2 → f.rsv = 0#3 → intCond f.cond.toNat (x.rg f.ra) (x.rg f.rb) = some b →
       exec (.cmp c g f) s = put fun y => y.wp f.pd b) ∧
     (∀ f b, intCond f.cond.toNat (x.rg f.ra) (f.imm.signExtend 64) = some b → exec (.cmpi c g f) s = put fun y => y.wp f.pd b) ∧
     (∀ f, predBad f = false → exec (.pred c g f) s = put (predOp f)) ∧
     (∀ f, f.rb = 0#5 → selBad f.ra = false → exec (.mfc c g f) s = put fun y => y.wg f.rd (x.rc (selHalf f.ra) (selNum f.ra))) ∧
     (∀ f, f.rb = 0#5 → selBad f.rd = false → exec (.mtc c g f) s = put fun y => y.wc (selHalf f.rd) (selNum f.rd) (x.rg f.ra)) ∧
     (∀ f, f.ra = 0#5 → f.rb = 0#5 → exec (.rdpc c g f) s = put fun y => y.wg f.rd x.pc) ∧
     exec (.nop c g { rd := 0#5, ra := 0#5, rb := 0#5 }) s = put id)

/-- A condition whose code is reserved in Table 6.7 or 6.11, or a function that Tables 6.5 and 6.9 do not list, is illegal whatever the
guard says (R150). So is a word whose OP, FUNC, SUB or operation code is reserved (Tables 6.4, 6.12, 6.16 and 4.5, R177); one of OP 0 is the
ALU instruction of its fields (R147, R151). A privileged instruction below its level raises PRIVILEGE with INFO 0 and has none of its effect
(R165, Table 8.1). -/
def Obligations.ReservedAndPrivilegedInstructionsRaise : Prop :=
  (∀ (s : State) (c : CoreId) (g : Guard), s.canIssue c = true →
     let ill : Host.Outcome State Fault Refusal :=
       .next ((s.begun c).raise c { code := 0x01#8, info := 0#8, eaddr := (s.sc c).pc })
     (∀ f : FmtA, 0x12#7 < f.func → exec (.alu c g f) s = ill) ∧ (∀ f : FmtA, 6#7 < f.func → exec (.muldiv c g f) s = ill) ∧
     (∀ f : FmtAC, 6#4 < f.cond → exec (.cmp c g f) s = ill) ∧ (∀ f : FmtAC, 7#4 < f.cond → exec (.fcmp c g f) s = ill) ∧
     (∀ f : FmtA, fpuFmtOf f = 3#2 ∨ 0x1a#5 < fpuOpOf f → exec (.fpu c g f) s = ill) ∧
     (∀ f, g.pg = 0#3 → g.pn = true → exec (.addi c g f) s = ill) ∧
     (∀ w : BitVec 32,
       let op := (w.extractLsb' 22 6).toNat
       (op ∈ [0x0f, 0x13, 0x1a, 0x1b, 0x1d, 0x1e, 0x1f] ∨ 0x31 ≤ op ∨ (op = 0x12 ∧ 0x0d#7 < w.extractLsb' 0 7) ∨
           (op = 0x17 ∧ 0x04#5 < w.extractLsb' 17 5) ∨ (op = 0x19 ∧ 0x01#7 < w.extractLsb' 0 7) ∨ (op = 0x30 ∧ 0x3#4 < w.extractLsb' 18 4) →
         executeWord c w s = ill) ∧
       (op = 0 → executeWord c w s =
         exec (.alu c { pg := w.extractLsb' 29 3, pn := w.getLsbD 28 }
           { rd := w.extractLsb' 17 5, ra := w.extractLsb' 12 5, rb := w.extractLsb' 7 5, func := w.extractLsb' 0 7 }) s))) ∧
  (∀ (s : State) (c : CoreId) (g : Guard), Runs s c g → (s.sc c).priv = 0#2 →
     let z : FmtSys := { rd := 0#5, ra := 0#5, rb := 0#5 }
     let denied : Host.Outcome State Fault Refusal :=
       .next (s.enters c false { code := 0x07#8, info := 0#8, eaddr := 0#64 } (s.sc c).pc 1#2)
     exec (.eret c g z) s = denied ∧ exec (.shield c g z) s = denied ∧ exec (.wait c g z) s = denied ∧
     (∀ f : FmtCache, f.size = 3#2 → f.am = 0#3 → exec (.inval c g f) s = denied))

/-- FPU, FCMP and FCVT (R160-R163): the flags accumulate in FSTAT, and when no raised flag has its trap enabled, rd or p[pd] takes the
result. A scalar instruction that raises a flag whose bit in FSTAT.TRAPEN is set sets the flag in FSTAT, writes no result and raises
FP_TRAP (R224): the core goes to the handler of Table 8.1's level with EPC at the instruction, and RETIRED has not risen. -/
def Obligations.FloatingPointInstructions : Prop :=
  (∀ (s : State) (c : CoreId) (g : Guard), Runs s c g →
     let x := s.sc c
     let put (fl : Flags) (w : Scalar → Scalar) : Host.Outcome State Fault Refusal :=
       .next (s.retires c fun k => k.onSc fun y => w { y with fflags := y.fflags ||| fl.extractLsb' 0 6 })
     (∀ f, fpuBad f = false → (fpuResult f x).2.traps x.trapEn = false →
       exec (.fpu c g f) s = put (fpuResult f x).2 fun y => y.wg f.rd (fpuResult f x).1) ∧
     (∀ f, f.fmt ≠ 3#2 → f.rsv = 0#3 → f.cond < 8#4 → (fcmpResult f x).2.traps x.trapEn = false →
       exec (.fcmp c g f) s = put (fcmpResult f x).2 fun y => y.wp f.pd (fcmpResult f x).1) ∧
     (∀ f, fcvtLegal f.sfmt f.dfmt = true → f.rm ≠ 5#3 → f.rm ≠ 6#3 →
       let r := fcvtOp f.sfmt f.dfmt (if f.rm = 7#3 then x.fround else f.rm) f.om (x.rg f.ra)
       let fl := r.2.1 ||| Flags.when r.2.2 Flags.poisonIn
       fl.traps x.trapEn = false → exec (.fcvt c g f) s = put fl fun y => y.wg f.rd r.1)) ∧
  (∀ (s : State) (c : CoreId) (g : Guard) (f : FmtA), Runs s c g → fpuBad f = false →
     let x := s.sc c
     (fpuResult f x).2.traps x.trapEn = true → x.priv = 0#2 →
     Answers (exec (.fpu c g f) s) fun t =>
       OnlyCore s t c ∧ (t.sc c).fflags = x.fflags ||| (fpuResult f x).2.extractLsb' 0 6 ∧ (t.sc c).g = x.g ∧
       (t.sc c).retired = x.retired ∧ (t.sc c).ecauseCode = 0x0a#8 ∧
       (t.sc c).ecauseInfo = ((fpuResult f x).2.ieee &&& x.trapEn).setWidth 8 ∧ (t.sc c).epc = x.pc &&& ~~~3#64 ∧
       (t.sc c).priv = 1#2 ∧ (t.sc c).pc = x.evecRt)

/-! ### Control transfers, exceptions and interrupts -/

/-- BR, CALL, JR, CALLR and RET to an aligned target (R164, R165, R235): the pc goes to the target, a call links g31 with PC + 4, and
while the check is live (service mode) a call pushes its return address and RET pops the entry that equals g31. TRAP below monitor level
(R220, R222, R223, Table 8.1): it enters the runtime handler with the service number in INFO and EPC at the next instruction, and changes
nothing else. ERET to a level that EPRIV allows (R225): PC takes EPC with its low two bits clear, and the level in EPC[1:0] becomes
MODE.PRIV and EPRIV. No core runs at level 0b11 (log 12). -/
def Obligations.ControlTransfersAndTraps : Prop :=
  (∀ (s : State) (c : CoreId) (g : Guard), Runs s c g →
     let x := s.sc c
     let off (o : BitVec 22) : Word := x.pc + o.signExtend 64 * 4#64
     let go (f : Scalar → Scalar) (t : Word) : Host.Outcome State Fault Refusal := .next (s.jumps c (fun k => k.onSc f) t)
     let call (y : Scalar) : Scalar :=
       if x.opmode = 0#2 then { y.wg 31#5 (x.pc + 4#64) with ss := y.ss ++ [x.pc + 4#64] } else y.wg 31#5 (x.pc + 4#64)
     (∀ o, exec (.br c g o) s = go id (off o)) ∧
     (∀ f : FmtSys, f.rd = 0#5 → f.rb = 0#5 → x.rg f.ra &&& 3#64 = 0#64 → exec (.jr c g f) s = go id (x.rg f.ra)) ∧
     ((x.opmode = 0#2 → x.ss.length < 64) →
       (∀ o, exec (.call c g o) s = go call (off o)) ∧
       (∀ f : FmtSys, f.rd = 0#5 → f.rb = 0#5 → x.rg f.ra &&& 3#64 = 0#64 → exec (.callr c g f) s = go call (x.rg f.ra))) ∧
     (x.rg 31#5 &&& 3#64 = 0#64 →
       let ret := exec (.ret c g { rd := 0#5, ra := 0#5, rb := 0#5 }) s
       (x.opmode ≠ 0#2 → ret = go id (x.rg 31#5)) ∧
       (x.opmode = 0#2 → x.ss.getLast? = some (x.rg 31#5) → ret = go (fun y => { y with ss := y.ss.dropLast }) (x.rg 31#5)))) ∧
  (∀ (s : State) (c : CoreId) (g : Guard) (n : BitVec 5), Runs s c g → (s.sc c).priv < 2#2 →
     exec (.trap c g { rd := 0#5, ra := 0#5, rb := n }) s =
       .next (s.enters c false { code := 0x0f#8, info := n.setWidth 8, eaddr := 0#64 } ((s.sc c).pc + 4#64) 1#2)) ∧
  (∀ (s : State) (c : CoreId) (g : Guard), Runs s c g →
     let x := s.sc c
     let t := x.epc.extractLsb' 0 2
     1#2 ≤ x.priv → t ≤ x.epriv → t ≠ 3#2 →
       exec (.eret c g { rd := 0#5, ra := 0#5, rb := 0#5 }) s =
         .next (s.jumps c (fun k => k.onSc fun y =>
           { y with priv := t, epriv := t, shieldOpen := false, shieldUsed := false, monitorEntry := false, runtimeEntry := false })
           (x.epc &&& ~~~3#64)))

/-- An exception (R220, R222, R223) that is no double fault, in a mode that does not quarantine for it (R228): it enters its handler at
the level of Table 8.1, with EPC at the instruction itself, and changes nothing but the core. A double fault halts the core (R220, R226),
and in service mode a hardware fault quarantines it (R228, R229): it issues no more, and its registers, memory side, vector unit and
matrix engine stay as they were. -/
def Obligations.ExceptionsEnterOrStopTheCore : Prop :=
  (∀ (s : State) (c : CoreId) (e : Exc), hardwareFault e.code = true → (s.sc c).opmode ≠ 0#2 →
     let level := if (s.sc c).priv = 0#2 then 1#2 else 2#2
     (level = 2#2 → (s.sc c).monitorEntry = false) → s.raise c e = s.enters c false e (s.sc c).pc level) ∧
  (∀ (s : State) (c : CoreId) (e : Exc), hardwareFault e.code = true →
     ((s.sc c).opmode = 0#2 ∨ ((s.sc c).priv ≠ 0#2 ∧ (s.sc c).monitorEntry = true)) →
       let t := s.raise c e
       (t.sc c).run = .quarantined ∧ t.canIssue c = false ∧
       t.sc c = { s.sc c with run := .quarantined, shieldOpen := (t.sc c).shieldOpen } ∧ t.vec c = s.vec c ∧ t.mx c = s.mx c)

/-- SHIELD, WAIT and FENCE (R174, R232, R233, R243). SHIELD at runtime level opens the one window of a handler's run; WAIT stops issue
until an enabled line is pending; after FENCE no store waits, no L1 line is modified and no miss is outstanding; while a late error of an
earlier store is yet to be recorded (R230) it does not complete. INTERRUPT (R109, R221, R222, R231, R232): the lowest-numbered pending and
enabled line is taken at runtime level with EPC at the next instruction when the level and the shield window allow it and no matrix cycle
has begun, and nothing happens otherwise. SHIELD_WINDOW_END closes the window. IRQPEND (R183, R350, R443): line 0 is
asserted while a slot is POSTED whose START_TICK has come and no wake tokens are awaited; line 3 while WAKE is enabled and its tick has
come; line 6 while a bit of PWREVT is set whose bit in PWRMASK is 1. -/
def Obligations.InterruptsShieldAndWait : Prop :=
  (∀ (s : State) (c : CoreId) (g : Guard), Runs s c g →
     let x := s.sc c
     let z : FmtSys := { rd := 0#5, ra := 0#5, rb := 0#5 }
     (x.priv = 1#2 → x.shieldUsed = false →
       exec (.shield c g z) s =
         .next (s.retires c fun k => k.onSc fun y => { y with shieldOpen := true, shieldAt := y.cycles, shieldUsed := true })) ∧
     (x.priv = 1#2 → x.shieldUsed = true → exec (.shield c g z) s = .next (s.retires c id)) ∧
     (x.priv = 1#2 → s.irqEnabled c = true → exec (.wait c g z) s = .next (s.retires c id)) ∧
     (x.priv = 1#2 → s.irqEnabled c = false →
       exec (.wait c g z) s = .next (s.setCore c (((s.core c).retiredTo c (x.pc + 4#64)).onSc fun y => { y with run := .waiting }))) ∧
     (x.late ≠ [] → Answers (exec (.fence c g z) s) fun t =>
       (t.sc c).stores = [] ∧ (t.sc c).pc = x.pc ∧ (t.sc c).retired = x.retired) ∧
     (x.late = [] → (∀ b ∈ x.stores, s.outsidePart b.ctx b.dpa = false) → Answers (exec (.fence c g z) s) fun t =>
       (t.sc c).stores = [] ∧ (t.sc c).miss = .none ∧
       ((t.sc c).l1.all fun e => e.2.ways.toList.all fun y => match y with | some y => !y.modified | none => true) ∧
       (t.sc c).g = x.g ∧ (t.sc c).p = x.p ∧ (t.sc c).pc = x.pc + 4#64 ∧ (t.sc c).retired = x.retired + 1#64)) ∧
  (∀ (s : State) (c : CoreId),
     let x := s.sc c
     (s.clocked c = true → s.irqEnabled c = true → (s.mx c).midCycle = false → x.run = .running ∨ x.run = .waiting →
       (x.priv = 0#2 ∨ (x.priv = 1#2 ∧ x.shielded = false ∧ x.hold = false)) →
         exec (.interrupt c) s =
           .next (s.enters c true { code := BitVec.ofNat 8 (s.irqLine c), info := 0#8, eaddr := 0#64 } x.pc 1#2)) ∧
     (x.priv = 2#2 ∨ (x.priv = 1#2 ∧ x.shielded = true) ∨ (s.mx c).midCycle = true ∨ s.irqEnabled c = false → exec (.interrupt c) s = .next s) ∧
     Answers (exec (.shieldWindowEnd c) s) fun t =>
       OnlyScalar s t c ∧ (t.sc c).shieldOpen = false ∧ (t.sc c).shielded = false ∧
       t.sc c = { x with shieldOpen := false, cycles := (t.sc c).cycles }) ∧
  (∀ (s : State) (c : CoreId),
     let k := s.core c
     ((s.irqPend c).getLsbD 0 = true ↔
       k.pw.want = none ∧ ∃ m, m < 8 ∧ k.sc.mooringState m = 3#8 ∧ k.sc.mooringWord m 4 ≤ s.tide) ∧
     ((s.irqPend c).getLsbD 3 = true ↔ k.tp.wakeEn = true ∧ k.tp.wakeTick.setWidth 64 ≤ s.tide) ∧
     ((s.irqPend c).getLsbD 6 = true ↔ k.pw.evt &&& k.pw.mask ≠ 0#6))

/-! ### Loads, stores, caches, atomics and copies -/

/-- LD, LDU, ST and DZL of the core's own lagoon (R166, R169, R171-R173, R175): a load extends the bytes; a store writes them, below the
mooring slots, and no other byte; the base register is updated as the mode says; DZL writes 64 zeros. Loads and stores of device memory
that the L1 cache does not hold (R169, R174, R241, R244): a load of a page mapped not cacheable reads memory; a store goes to the store
buffer and memory stays as it is; a drain then writes the buffered bytes, and no other byte. -/
def Obligations.LoadsStoresAndDrains : Prop :=
  (∀ (s : State) (c : CoreId) (g : Guard), Runs s c g →
     let x := s.sc c
     (∀ (f : FmtM) (ea : Word) (upd : Option Word) (o : Nat),
       let n := 2 ^ f.size.toNat
       effAddr x f.rb f.size f.am f.amf = .ok ea upd → ea.toNat % n = 0 → s.locate c ea.toNat n = .own o → s.engineHolds c o n = false →
         (loadBad f = false → badIn x.lagoonBad o n = none → ∀ signed : Bool,
           exec (if signed then .ld c g f else .ldu c g f) s = .next (s.retires c fun k => k.onSc fun y =>
             baseUpdate f.rb upd (y.wg f.rt (extendLoad signed n (readBytes x.lagoon o n))))) ∧
         (amReserved f.am f.amf = false → o + n ≤ mooringFree →
           Answers (exec (.st c g f) s) fun t =>
             Written x.lagoon (t.sc c).lagoon o (leBytes n (x.rg f.rt).toNat) ∧
             t = s.retires c fun k => k.onSc fun y => { baseUpdate f.rb upd y with
               lagoon := (t.sc c).lagoon, lagoonBad := stillBad x.lagoonBad o n })) ∧
     (∀ (f : FmtCache) (o : Nat), f.size = 3#2 → f.am = 0#3 → s.locate c (cacheEa x f) 64 = .own o → s.engineHolds c o 64 = false →
       o + 64 ≤ mooringFree →
         Answers (exec (.dzl c g f) s) fun t =>
           Written x.lagoon (t.sc c).lagoon o (List.replicate 64 0#8) ∧
           t = s.retires c fun k => k.onSc fun y =>
             { y with lagoon := (t.sc c).lagoon, lagoonBad := stillBad x.lagoonBad o 64 })) ∧
  (∀ (s : State) (c : CoreId),
     let x := s.sc c
     let ctx := x.ctxid.toNat
     (∀ (g : Guard) (f : FmtM) (ea : Word) (dpa : Nat) (leaf : Word),
       let n := 2 ^ f.size.toNat
       Runs s c g → effAddr x f.rb f.size f.am f.amf = .ok ea none → ea.toNat % n = 0 → ea.toNat < vaTop →
         (loadBad f = false → s.translate ctx ea.toNat .read x.priv = .ok dpa leaf → leafC leaf = false → x.stores = [] →
           PlainMemory s ctx dpa n →
           Answers (exec (.ldu c g f) s) fun t => t = { s.retires c (fun k => k.onSc fun y =>
             { y.wg f.rt (extendLoad false n (readBytes s.mem dpa n)) with miss := .bypass }) with coves := t.coves }) ∧
         (amReserved f.am f.amf = false → s.translate ctx ea.toNat .write x.priv = .ok dpa leaf → x.l1Way ctx dpa = none →
           x.stores.length < 16 →
           Answers (exec (.st c g f) s) fun t =>
             OnlyScalar s t c ∧ (∃ b, (t.sc c).stores = x.stores ++ [b] ∧ b.dpa = dpa ∧ b.data = leBytes n (x.rg f.rt).toNat) ∧
             t.sc c = { (s.retires c id).sc c with stores := (t.sc c).stores })) ∧
     (∀ (k : BitVec 4) (b : BufferedStore), x.stores[k.toNat]? = some b → x.settled →
       (∀ a ∈ x.stores.take k.toNat, a.dpa + a.data.length ≤ b.dpa ∨ b.dpa + b.data.length ≤ a.dpa) →
       PlainMemory s b.ctx b.dpa b.data.length →
         Answers (exec (.storeBufferDrain c k) s) fun t =>
           Written s.mem t.mem b.dpa b.data ∧ t.sc c = { x with stores := x.stores.eraseIdx k.toNat } ∧
           t = (s.setSc c (t.sc c)).withMemoryOf t))

/-- PREF, CLEAN, FLUSH and INVAL (R175, R241, R243): on a core-local window they do nothing; on a held line of device memory CLEAN writes
a modified line back and keeps it, FLUSH writes it back and drops it, INVAL drops it unwritten; PREF does nothing while a miss is
outstanding and otherwise starts the fill of an absent line; L1_FILL frees the miss slot. Late bus errors (R14, R230): a buffered store
that ends in a bus error is recorded in LBADDR and LBINFO and raises LATE_BUS_ERROR; while LBINFO is valid a further one waits, in
retirement order; a read of LBINFO returns it and clears VALID, and the next error that waits is then recorded and raised. -/
def Obligations.CacheOperationsAndLateErrors : Prop :=
  (∀ (s : State) (c : CoreId),
     let x := s.sc c
     let ctx := x.ctxid.toNat
     exec (.l1Fill c) s = .next (s.setSc c { x with miss := .none }) ∧
     ∀ (g : Guard) (f : FmtCache), Runs s c g → f.size = 3#2 → f.am = 0#3 →
       let ea := cacheEa x f
       (∀ o, s.locate c ea 64 = .own o →
         exec (.pref c g f) s = .next (s.retires c id) ∧ exec (.clean c g f) s = .next (s.retires c id) ∧
         exec (.flush c g f) s = .next (s.retires c id) ∧ (1#2 ≤ x.priv → exec (.inval c g f) s = .next (s.retires c id))) ∧
       (∀ (w dpa : Nat) (leaf : Word) (y : L1Line), ea < vaTop → s.walk ctx ea = .ok dpa leaf → x.l1Way ctx dpa = some w →
         x.l1Line (dpa / 64) w = some y → y.line % 128 = dpa / 64 % 128 → y.modified = true → y.bad = false → y.data.length = 64 →
         (∀ b ∈ x.stores, b.meets (y.dpaLine * 64) 64 = false) → PlainMemory s y.ctx (y.dpaLine * 64) 64 →
           Answers (exec (.clean c g f) s) (fun t => Written s.mem t.mem (y.dpaLine * 64) y.data ∧
             (t.sc c).l1Line (dpa / 64) w = some { y with modified := false }) ∧
           Answers (exec (.flush c g f) s) (fun t => Written s.mem t.mem (y.dpaLine * 64) y.data ∧ (t.sc c).l1Line (dpa / 64) w = none) ∧
           (1#2 ≤ x.priv → Answers (exec (.inval c g f) s) fun t => t.mem = s.mem ∧ (t.sc c).l1Line (dpa / 64) w = none)) ∧
       (∀ (dpa : Nat) (leaf : Word), ea < vaTop → s.translate ctx ea .read x.priv = .ok dpa leaf → leafC leaf = true →
         x.l1Way ctx dpa = none →
           (x.miss ≠ .none → exec (.pref c g f) s = .next (s.retires c id)) ∧
           (x.miss = .none → PlainMemory s ctx dpa 64 → Answers (exec (.pref c g f) s) fun t =>
             (t.sc c).miss = .fill ctx (ea / 64) ∧ (t.sc c).g = x.g))) ∧
  (∀ (s : State) (c : CoreId),
     let x := s.sc c
     (∀ (k : BitVec 4) (b : BufferedStore), x.stores[k.toNat]? = some b → x.run ≠ .quarantined → x.opmode ≠ 0#2 → x.priv = 0#2 →
       (x.lbValid = false → x.late = [] → Answers (exec (.lateBusError c k) s) fun t =>
         OnlyCore s t c ∧ (t.sc c).lbaddr = b.ea.extractLsb' 0 56 ∧ (t.sc c).lbValid = true ∧
         (t.sc c).lbCount.toNat = min (x.retired - b.retiredAt).toNat 0xffffffff ∧ (t.sc c).stores = x.stores.eraseIdx k.toNat ∧
         (t.sc c).ecauseCode = 0x04#8 ∧ (t.sc c).pc = x.evecRt ∧ (t.sc c).epc = x.pc &&& ~~~3#64) ∧
       (x.lbValid = true → exec (.lateBusError c k) s =
         .next (s.setSc c { x with stores := x.stores.eraseIdx k.toNat, late := insertLate { ea := b.ea, retiredAt := b.retiredAt } x.late }))) ∧
     (∀ rd, Runs s c alwaysGuard → x.late = [] →
       exec (.lbinfoRead c rd) s =
         .next (s.retires c fun k => k.onSc fun y => { y.wg rd x.lbinfo with lbValid := false })) ∧
     (∀ rd e rest, Runs s c alwaysGuard → x.late = e :: rest → x.lbValid = true → x.opmode ≠ 0#2 → x.priv = 0#2 →
       Answers (exec (.lbinfoRead c rd) s) fun t =>
         OnlyCore s t c ∧ (t.sc c).rg rd = (if rd = 0#5 then 0#64 else x.lbinfo) ∧ (t.sc c).late = rest ∧ (t.sc c).lbValid = true ∧
         (t.sc c).lbaddr = e.ea.extractLsb' 0 56 ∧ (t.sc c).ecauseCode = 0x04#8 ∧ (t.sc c).pc = x.evecRt ∧
         (t.sc c).epc = (x.pc + 4#64) &&& ~~~3#64))

/-- AMO (R176, R257, R258) on device memory that the core holds neither in L1 nor in its store buffer: rd takes the old value, memory the
new one, and no other byte changes. LCOPY and ZFILL within the core's own lagoon, below its mooring slots, and LPROG_ABANDON (R177, R178):
the destination takes the source's bytes as they were, or zeros; g[rb] and LPROG end at zero; no other byte changes. Where an interrupt
can be taken meanwhile, ZFILL may stop after a whole number of 64-byte steps with g[rb] the bytes that remain and LPROG the bytes done;
how many is free (log 153). -/
def Obligations.AtomicsAndLongOperations : Prop :=
  (∀ (s : State) (c : CoreId) (g : Guard) (f : FmtA) (dpa : Nat) (leaf : Word), Runs s c g →
     let x := s.sc c
     let ctx := x.ctxid.toNat
     let ea := (x.rg f.ra).toNat
     let n := if f.func.getLsbD 0 then 4 else 8
     let old := readNat s.mem dpa n
     ∀ new, amoOp f.func old (x.rg f.rb).toNat (x.rg f.rd).toNat = some new → ea % n = 0 → ea < vaTop →
       s.translate ctx ea .amo x.priv = .ok dpa leaf → x.l1Way ctx dpa = none → x.stores = [] → PlainMemory s ctx dpa n →
         Answers (exec (.amo c g f) s) fun t =>
           Written s.mem t.mem dpa (leBytes n new) ∧
           t = (s.retires c fun k => k.onSc fun y => y.wg f.rd (amoOld f.func old)).withMemoryOf t) ∧
  (∀ (s : State) (c : CoreId) (g : Guard) (f : FmtSys) (d : Nat), Runs s c g →
     let x := s.sc c
     let n := (x.rg f.rb).toNat
     let ends (t : State) : Prop :=
       t = s.retires c fun k => k.onSc fun y =>
         { y.wg f.rb 0#64 with
           lagoon := (t.sc c).lagoon, lagoonBad := stillBad x.lagoonBad d n
           lprogValid := false, lprogKind := false, lprogDir := false, lprogDone := 0#21 }
     (s.canIssue c = true → 1#2 ≤ x.priv → exec (.lprogAbandon c) s = .next (s.retires c fun k => k.onSc fun y =>
       { y with lprogValid := false, lprogKind := false, lprogDir := false, lprogDone := 0#21 })) ∧
     (0 < n → n ≤ 1048576 → x.lprogValid = false → s.locate c (x.rg f.rd).toNat n = .own d → s.engineHolds c d n = false →
     d + n ≤ mooringFree →
       (∀ o, s.locate c (x.rg f.ra).toNat n = .own o → s.engineHolds c o n = false → badIn x.lagoonBad o n = none → s.irqEnabled c = false →
         Answers (exec (.lcopy c g f) s) fun t => Written x.lagoon (t.sc c).lagoon d (readBytes x.lagoon o n) ∧ ends t) ∧
       (f.ra = 0#5 → s.irqEnabled c = false →
         Answers (exec (.zfill c g f) s) fun t => Written x.lagoon (t.sc c).lagoon d (List.replicate n 0#8) ∧ ends t) ∧
       (f.ra = 0#5 → s.irqEnabled c = true → Answers (exec (.zfill c g f) s) fun t =>
         ∃ m ≤ n, Written x.lagoon (t.sc c).lagoon d (List.replicate m 0#8) ∧ (t.sc c).rg f.rb = word (n - m) ∧
           (m < n → m % 64 = 0 ∧ (t.sc c).pc = x.pc ∧ (t.sc c).lprogValid = true ∧ (t.sc c).lprogKind = true ∧
             (t.sc c).lprogDone = BitVec.ofNat 21 m))))

/-! ### Ports -/

/-- OUT, OUTR and REGISTER_WRITE (R180, R181): a port that no level may write ignores the write; from a level that may, the port takes the
value; from a lower one PRIVILEGE is raised with INFO 2 and the port in EADDR, and nothing is written. IN and INR of the scalar unit's
ports (R34, R180, R183-R186, Tables 6.19-6.22): a register takes the port's value and nothing else changes; reserved ports read zero. Each
command that is an access to one port does what an OUT or IN of that port does (R180, Tables 4.3, 4.12, 5.9, 6.19, 7.2, 9.4, 10.9, 13.1).
-/
def Obligations.PortsObeyTheirLevel : Prop :=
  (∀ (s : State) (c : CoreId) (port : BitVec 16) (v : Word), s.canIssue c = true → (s.sc c).settled →
     let x := s.sc c
     let p := port.toNat
     let outcome : Host.Outcome State Fault Refusal :=
       match outLevel p with
       | none => .next (s.retires c id)
       | some lo =>
         if lo ≤ x.priv then .next ((((s.begun c).writePort c p v).retire c (x.pc + 4#64)).settleLate c)
         else .next ((s.begun c).raise c { code := 0x07#8, info := 2#8, eaddr := port.setWidth 64 })
     exec (.registerWrite c port v) s = outcome ∧
     (∀ (g : Guard) (r : BitVec 5), Runs s c g → x.rg r = v → exec (.portOut c g { g := r, port := port }) s = outcome) ∧
     (∀ (g : Guard) (q r : BitVec 5), Runs s c g → x.rg q = port.setWidth 64 → x.rg r = v →
       exec (.outr c g { rd := 0#5, ra := q, rb := r }) s = outcome)) ∧
  (∀ (s : State) (c : CoreId) (g : Guard) (rd : BitVec 5), Runs s c g →
     let x := s.sc c
     let val (p : BitVec 16) : Option Word :=
       match p with
       | 0x00#16 => some (word ((isleOf c).val * 2 ^ 24 + coreIndex c * 2 ^ 16 + c.val))
       | 0x01#16 => some ((x.opmode.setWidth 64 <<< 4) ||| x.priv.setWidth 64)
       | 0x02#16 => some x.cycles
       | 0x03#16 => some x.retired
       | 0x04#16 => some (x.ctxid.setWidth 64)
       | 0x10#16 => some 0x000000000fff1fff#64
       | 0x11#16 => some 0x001404b096820806#64
       | 0x20#16 => some x.evecRt
       | 0x22#16 => some x.epc
       | 0x24#16 => some x.eaddr
       | 0x29#16 => some (x.irqmask.setWidth 64)
       | 0x0f#16 => some 0#64
       | _ => none
     (∀ p v, val p = some v →
       exec (.portIn c g { g := rd, port := p }) s = .next (s.retires c fun k => k.onSc fun y => y.wg rd v)) ∧
     (∀ p v q, val p = some v → x.rg q = p.setWidth 64 →
       exec (.inr c g { rd := rd, ra := q, rb := 0#5 }) s = .next (s.retires c fun k => k.onSc fun y => y.wg rd v))) ∧
  (∀ (s : State) (c : CoreId),
     (∀ v, exec (.vcfg c v) s = exec (.registerWrite c 0x300#16 v) s) ∧
     (∀ v, exec (.vlen c v) s = exec (.registerWrite c 0x301#16 v) s) ∧
     (∀ (n : BitVec 2) v, exec (.lskew c n v) s = exec (.registerWrite c (0x140#16 + n.setWidth 16) v) s) ∧
     (∀ v, exec (.tqdiscard c v) s = exec (.registerWrite c 0x121#16 v) s) ∧
     (∀ v, exec (.ewpost c v) s = exec (.registerWrite c 0x200#16 v) s) ∧
     (∀ v, exec (.ewabort c v) s = exec (.registerWrite c 0x208#16 v) s) ∧
     (∀ (t : BitVec 4) v, exec (.fpost c t v) s = exec (.registerWrite c (0x400#16 + 4#16 * t.setWidth 16) v) s) ∧
     (∀ (t : BitVec 4) v, exec (.fabort c t v) s = exec (.registerWrite c (0x403#16 + 4#16 * t.setWidth 16) v) s) ∧
     (∀ w : BitVec 4, exec (.arm c w) s = exec (.registerWrite c (0x903#16 + 4#16 * w.setWidth 16) 1#64) s) ∧
     (∀ w : BitVec 4, exec (.abort c w) s = exec (.registerWrite c (0x903#16 + 4#16 * w.setWidth 16) 2#64) s) ∧
     exec (.lprogAbandon c) s = exec (.registerWrite c 0x18#16 0#64) s ∧
     exec (.mprogAbandon c) s = exec (.registerWrite c 0x104#16 0x8000000000000000#64) s ∧
     (∀ v, exec (.tvote c v) s = exec (.registerWrite c 0x1006#16 v) s) ∧
     (∀ rd, exec (.lbinfoRead c rd) s = exec (.portIn c alwaysGuard { g := rd, port := 0x27#16 }) s) ∧
     (∀ rd, exec (.ewcpl c rd) s = exec (.portIn c alwaysGuard { g := rd, port := 0x202#16 }) s) ∧
     (∀ (t : BitVec 4) rd, exec (.fcpl c t rd) s = exec (.portIn c alwaysGuard { g := rd, port := 0x402#16 + 4#16 * t.setWidth 16 }) s))

/-- FEAT0 and FEAT1 read as R34 says, at every level and in every mode. -/
def Obligations.FeaturePortsReadTheirValues : Prop :=
  ∀ (s : State) (c : CoreId) (g : Guard) (rd : BitVec 5), Runs s c g →
    exec (.portIn c g { g := rd, port := 0x10#16 }) s =
      .next (s.retires c fun k => k.onSc fun y => y.wg rd 0x0000_0000_0fff_1fff#64) ∧
    exec (.portIn c g { g := rd, port := 0x11#16 }) s =
      .next (s.retires c fun k => k.onSc fun y => y.wg rd 0x0014_04b0_9682_0806#64)

/-! ### The vector unit -/

/-- VCFG (R192): a write that sets a reserved bit or names a reserved format only sets CFGREJ; an accepted one takes its fields and lowers
VL to the new VLMAX where it lies above it. VLEN and VSETVL (R193, Table 7.6): an OUT to VLEN of a reserved bit or of a VL above VLMAX
only sets CFGREJ, and any other sets VL; VSETVL sets VL to the smaller of the register and VLMAX, without that check, and rd receives it.
-/
def Obligations.VcfgAndVlenWrites : Prop :=
  (∀ (s : State) (c : CoreId) (v : Word), s.canIssue c = true → (s.sc c).settled →
     let x := s.vec c
     let bad := v &&& ~~~0x1f3f#64 ≠ 0#64 ∨ 0xc#4 ≤ v.extractLsb' 0 4 ∨ 0xc#4 ≤ v.extractLsb' 8 4
     let goTo (y : Vec) : Host.Outcome State Fault Refusal := .next (s.retires c fun k => { k with vec := y })
     (bad → exec (.vcfg c v) s = goTo { x with cfgRej := true }) ∧
     (¬bad →
       let y := { x with efmt := v.extractLsb' 0 4, grp := v.extractLsb' 4 2, cfmt := v.extractLsb' 8 4, om := v.getLsbD 12 }
       exec (.vcfg c v) s = goTo { y with vl := if x.vl.toNat ≤ y.vlmax then x.vl else BitVec.ofNat 12 y.vlmax })) ∧
  (∀ (s : State) (c : CoreId),
     let x := s.vec c
     let goTo (y : Vec) : Host.Outcome State Fault Refusal := .next (s.retires c fun k => { k with vec := y })
     (∀ v, s.canIssue c = true → (s.sc c).settled →
       let bad := v &&& ~~~0xfff#64 ≠ 0#64 ∨ x.vlmax < v.toNat
       (bad → exec (.vlen c v) s = goTo { x with cfgRej := true }) ∧
       (¬bad → exec (.vlen c v) s = goTo { x with vl := v.extractLsb' 0 12 })) ∧
     (∀ (g : Guard) (rd ra : BitVec 5), Runs s c g →
       let n := min ((s.sc c).rg ra).toNat x.vlmax
       exec (.vsetvl c g { vd := rd.setWidth 6, va := ra.setWidth 6, msel := 0#3, pol := false }) s =
         .next (s.retires c fun k => { k with vec := { x with vl := BitVec.ofNat 12 n }, sc := k.sc.wg rd (word n) })))

/-- The elementwise operations of Tables 7.5 and 7.6 that compute (R194-R199, R202), with their residue check passed: an active element takes
the operation's result on the elements at its place. -/
def Obligations.VectorArithmetic : Prop :=
  ∀ (s : State) (c : CoreId) (g : Guard), Runs s c g →
    let x := s.vec c
    let e := x.efmt
    x.sound = true →
      (∀ (f : FmtVR) (i : Instr) (op : ElemOp) (ok : FmtCode → Bool),
        (i, op, ok) ∈ [(.vadd c g f .pass, .add, arithFmt), (.vsub c g f .pass, .sub, arithFmt), (.vmul c g f .pass, .mul, arithFmt),
          (.vfma c g f .pass, .fma, arithFmt), (.vfnma c g f .pass, .fnma, arithFmt), (.vmin c g f .pass, .min, arithFmt),
          (.vmax c g f .pass, .max, arithFmt), (.vdiv c g f .pass, .div, floatFmt), (.vand c g f, .and, bitFmt), (.vor c g f, .or, bitFmt),
          (.vxor c g f, .xor, bitFmt)] →
        let res (j : Nat) : Coded := elemOp op e x.rnd x.om (x.elem e f.va.toNat j) (x.elem e f.vb.toNat j) (x.elem e f.vd.toNat j)
        plainCheck ok [f.vd, f.va, f.vb] x = none → Untrapped x f.msel res →
          Answers (exec i s) fun t => OnlyVector s t c ∧ VectorResult x (t.vec c) e f.vd.toNat x.group f.msel f.pol res) ∧
      (∀ (f : FmtVU) (i : Instr) (op : ElemOp) (ok : FmtCode → Bool),
        (i, op, ok) ∈ [(.vabs c g f .pass, .abs, arithFmt), (.vneg c g f .pass, .neg, arithFmt), (.vsqrt c g f .pass, .sqrt, floatFmt),
          (.vrint c g f .pass, .rint, floatFmt)] →
        let res (j : Nat) : Coded := let a := x.elem e f.va.toNat j; elemOp op e x.rnd x.om a a a
        plainCheck ok [f.vd, f.va] x = none → Untrapped x f.msel res →
          Answers (exec i s) fun t => OnlyVector s t c ∧ VectorResult x (t.vec c) e f.vd.toNat x.group f.msel f.pol res)

/-- VMOV, VSPLAT, VIOTA and VCVT between formats other than K4 (R196, R197, R202, R203): moves copy an element with its poison and raise
no flag; VIOTA writes its index; VCVT converts into a group of CFMT. VGET, VCOMPRESS and VCMP (R200, R202): VGET puts element 0 in a
register; VCOMPRESS packs the active elements in order and leaves the elements past their count; VCMP writes bit i of kd for each active
element, inactive ones by the mask policy. -/
def Obligations.VectorMovesAndCompares : Prop :=
  (∀ (s : State) (c : CoreId) (g : Guard) (f : FmtVU), Runs s c g →
     let x := s.vec c
     let e := x.efmt
     let copied (a : Elem) : Coded := ⟨a.bits, a.poisoned, Flags.none⟩
     let gives (i : Instr) (d : FmtCode) (size : Nat) (res : Nat → Coded) : Prop :=
       Answers (exec i s) fun t => OnlyVector s t c ∧ VectorResult x (t.vec c) d f.vd.toNat size f.msel f.pol res
     x.sound = true →
       (plainCheck allFmt [f.vd, f.va] x = none → gives (.vmov c g f) e x.group fun j => copied (x.elem e f.va.toNat j)) ∧
       (plainCheck notK4 [f.vd] x = none → topBit f.va = false →
         gives (.vsplat c g f) e x.group fun _ => copied (elemOfReg e ((s.sc c).rg (gField f.va)))) ∧
       (plainCheck wraps [f.vd] x = none → f.va = 0#6 → gives (.viota c g f) e x.group fun j => ⟨j, false, Flags.none⟩) ∧
       (let res (j : Nat) : Coded :=
          let a := x.elem e f.va.toNat j
          convertFmt x.cfmt x.rnd x.om a.poisoned (a.val e)
        cvtCheck f x = none → e ≠ Fmt.k4 → x.cfmt ≠ Fmt.k4 → Untrapped x f.msel res →
          gives (.vcvt c g f .pass) x.cfmt x.destGroup res)) ∧
  (∀ (s : State) (c : CoreId) (g : Guard), Runs s c g →
     let x := s.vec c
     let e := x.efmt
     x.sound = true → x.vl ≠ 0#12 →
       (∀ (rd : BitVec 5) (va : BitVec 6), plainCheck notK4 [va] x = none →
         exec (.vget c g { vd := rd.setWidth 6, va := va, msel := 0#3, pol := false }) s =
           .next (s.retires c fun k => k.onSc fun y => y.wg rd (regOfElem e (x.elem e va.toNat 0)))) ∧
       (∀ f : FmtVU, f.pol = false → notK4 e = true → groupsAligned [x.grpAt f.vd, x.grpAt f.va] = true →
         (x.grpAt f.vd).disjoint (x.grpAt f.va) = true →
           Answers (exec (.vcompress c g f) s) fun t => OnlyVector s t c ∧
             ∀ j, j < x.group * epr e → ((t.vec c).elem e f.vd.toNat j).bits =
               match (x.actives f.msel)[j]? with
               | some i => (x.elem e f.va.toNat i).bits
               | none => (x.elem e f.vd.toNat j).bits) ∧
       (∀ f : FmtVR,
         let cond := f.vd.extractLsb' 0 3
         let kd := f.vd.extractLsb' 3 3
         let res (i : Nat) := vcmpOp cond ((x.elem e f.va.toNat i).val e) ((x.elem e f.vb.toNat i).val e)
         cond ≠ 7#3 → plainCheck (fun e => arithFmt e && !(cond = 6#3 && wraps e)) [f.va, f.vb] x = none →
         (∀ i, i < x.vl.toNat → x.active f.msel i = true → (res i).2.traps x.trapEn = false) →
           Answers (exec (.vcmp c g f .pass) s) fun t => OnlyVector s t c ∧
             (∀ i, i < 2048 → ((t.vec c).mask kd).getLsbD i =
               if i < x.vl.toNat then
                 if x.active f.msel i then (res i).1 else if f.pol then false else (x.mask kd).getLsbD i
               else (x.mask kd).getLsbD i) ∧
             (∀ k, k ≠ kd → (t.vec c).mask k = x.mask k) ∧ (t.vec c).v = x.v))

/-- The mask operations (R201, Table 7.6): bits below VL of kd take the operation, the rest of kd and every other mask are kept; KPOP
counts the bits below VL and KFIRST finds the lowest; with VL = 0 nothing happens (R189). VECTOR_REDUCTION (R205-R207): with an active
element the result of the ordered tree goes to element 0 of vd, or argmax's and argmin's index to a register; with none the identity, or
all ones, and VSTAT.EMPTY is set. -/
def Obligations.MaskOperationsAndReductions : Prop :=
  (∀ (s : State) (c : CoreId) (g : Guard) (kd ka kb : BitVec 3) (rd : BitVec 5), Runs s c g →
     let x := s.vec c
     let a := x.mask ka
     let b := x.mask kb
     let at2 : FmtVU := { vd := kd.setWidth 6, va := ka.setWidth 6, msel := kb, pol := false }
     let at1 : FmtVU := { at2 with msel := 0#3 }
     let at0 : FmtVU := { at1 with va := 0#6 }
     let toG : FmtVU := { at1 with vd := rd.setWidth 6 }
     (x.vl = 0#12 → ∀ i ∈ [.kand c g at2, .kor c g at2, .kxor c g at2, .kandn c g at2, .knot c g at1, .kset c g at0, .kpop c g toG,
       .kfirst c g toG], exec i s = .next (s.retires c id)) ∧
     (x.vl ≠ 0#12 →
       (∀ (i : Instr) (op : Bool → Bool → Bool),
         (i, op) ∈ [(.kand c g at2, fun p q => p && q), (.kor c g at2, fun p q => p || q), (.kxor c g at2, fun p q => p != q),
           (.kandn c g at2, fun p q => p && !q), (.knot c g at1, fun p _ => !p), (.kset c g at0, fun _ _ => true)] →
         Answers (exec i s) fun t => OnlyVector s t c ∧
           (∀ j, j < 2048 → ((t.vec c).mask kd).getLsbD j =
             if j < x.vl.toNat then op (a.getLsbD j) (b.getLsbD j) else (x.mask kd).getLsbD j) ∧
           (∀ k, k ≠ kd → (t.vec c).mask k = x.mask k) ∧ t.vec c = { x with k := (t.vec c).k }) ∧
       exec (.kpop c g toG) s =
         .next (s.retires c fun k => k.onSc fun y => y.wg rd (word ((List.range x.vl.toNat).countP fun i => a.getLsbD i))) ∧
       exec (.kfirst c g toG) s =
         .next (s.retires c fun k => k.onSc fun y => y.wg rd
           (match (List.range x.vl.toNat).find? fun i => a.getLsbD i with
            | some i => word i
            | none => BitVec.allOnes 64)))) ∧
  (∀ (s : State) (c : CoreId) (g : Guard) (func : BitVec 6) (f : FmtVU), Runs s c g →
     let x := s.vec c
     let e := x.efmt
     let code := func.toNat
     let arg := code = 5 ∨ code = 6
     let es := (List.range x.vl.toNat).map fun i => if x.active f.msel i then some (x.elem e f.va.toNat i) else none
     let nan := encodeFmt e x.rnd x.om .dnan
     x.sound = true → 1 ≤ code → code ≤ 9 → f.pol = false → (arg → topBit f.vd = false) →
     redFmt code e = true → (x.grpAt f.va).aligned = true →
     (redIdentity code e x.om).flags.traps x.trapEn = false → nan.flags.traps x.trapEn = false →
     (∀ p, reduceElems code e x.rnd x.om es = some p → p.flags.traps x.trapEn = false) →
       Answers (exec (.vectorReduction c g func f .pass) s) fun t =>
         OnlyCore s t c ∧ (t.vec c).vl = x.vl ∧ (t.vec c).k = x.k ∧ (t.sc c).pc = (s.sc c).pc + 4#64 ∧
         (∀ n, n < 64 → (arg ∨ n ≠ f.vd.toNat) → (t.vec c).reg n = x.reg n) ∧
         ((t.vec c).empty = true ↔ x.empty = true ∨ reduceElems code e x.rnd x.om es = none) ∧
         (arg → (t.sc c).rg (gField f.vd) =
           if gField f.vd = 0#5 then 0#64
           else match reduceElems code e x.rnd x.om es with
             | some p => word p.idx
             | none => BitVec.allOnes 64) ∧
         (¬arg → (t.sc c).g = (s.sc c).g ∧
           (reduceElems code e x.rnd x.om es = none →
             ((t.vec c).elem e f.vd.toNat 0).bits = (redIdentity code e x.om).bits % 2 ^ FmtCode.bits e) ∧
           (∀ p, reduceElems code e x.rnd x.om es = some p →
             ((t.vec c).elem e f.vd.toNat 0).bits =
               (if es.countP Option.isSome = 1 ∧ p.e.poisoned = true then nan.bits else p.e.bits) % 2 ^ FmtCode.bits e)))

/-- Unit-stride vector loads and stores of the core's own lagoon in a format without storage words (R208, R209, R211, R213): element i is
the word at base + i; a store writes the active elements' words below the mooring slots and no other byte; a first-fault load whose every
element can be reached loads them all and truncates nothing. A first-fault load (R213) whose first element can be reached and some later
one, q, is the first that cannot: VL becomes q and FFTRUNC is set. -/
def Obligations.VectorLoadsAndStores : Prop :=
  (∀ (s : State) (c : CoreId) (g : Guard) (vt : BitVec 6) (gb : BitVec 5) (msel : BitVec 3) (pol : Bool) (o : Nat), Runs s c g →
     let x := s.vec c
     let e := x.efmt
     let n := FmtCode.wordBytes e
     let lag := (s.sc c).lagoon
     let f : FmtVM := { vt := vt, gb := gb, mode := 0#3, param := 0#4, msel := msel, pol := pol }
     let ff : FmtVMmode := { vt := vt, gb := gb, param := 0#4, msel := msel, pol := pol }
     let res (i : Nat) : Coded := ⟨readNat lag (o + i * n) n % 2 ^ FmtCode.bits e, false, Flags.none⟩
     let loaded (t : State) : Prop := OnlyVector s t c ∧ VectorResult x (t.vec c) e vt.toNat x.group msel pol res
     x.sound = true → FmtCode.perWord e = 1 → (x.grpAt vt).aligned = true → ((s.sc c).rg gb).toNat = ownBase + o → o % n = 0 →
     o + x.vl.toNat * n ≤ mooringFree → (∀ i, i < x.vl.toNat → s.engineHolds c (o + i * n) n = false) →
       ((∀ i, i < x.vl.toNat → badIn (s.sc c).lagoonBad (o + i * n) n = none) →
         Answers (exec (.vectorLoad c g f) s) loaded ∧ Answers (exec (.firstFaultLoad c g ff) s) loaded) ∧
       Answers (exec (.vectorStore c g f) s) fun t =>
         t = s.retires c (fun k => k.onSc fun y => { y with lagoon := (t.sc c).lagoon, lagoonBad := (t.sc c).lagoonBad }) ∧
         (∀ i, i < x.vl.toNat → x.active msel i = true →
           readNat (t.sc c).lagoon (o + i * n) n = (x.elem e vt.toNat i).bits) ∧
         (∀ a, (∀ i, i < x.vl.toNat → x.active msel i = true → a < o + i * n ∨ o + i * n + n ≤ a) →
           byteAt (t.sc c).lagoon a = byteAt lag a)) ∧
  (∀ (s : State) (c : CoreId) (g : Guard) (vt : BitVec 6) (gb : BitVec 5) (o q : Nat), Runs s c g →
     let x := s.vec c
     let n := FmtCode.wordBytes x.efmt
     let base := ((s.sc c).rg gb).toNat
     x.sound = true → FmtCode.perWord x.efmt = 1 → (x.grpAt vt).aligned = true → base = ownBase + o → o % n = 0 → 0 < q →
     q < x.vl.toNat → o + q * n ≤ lagoonSize → (∀ i, i < q → s.engineHolds c (o + i * n) n = false ∧ badIn (s.sc c).lagoonBad (o + i * n) n = none) →
     s.probe c (base + q * n) n = false →
     (∀ i, i < q → s.probe c (base + i * n) n = true) →
       Answers (exec (.firstFaultLoad c g { vt := vt, gb := gb, param := 0#4, msel := 0#3, pol := false }) s) fun t =>
         (t.vec c).vl.toNat = q ∧ (t.vec c).ffTrunc = true ∧ (t.vec c).flags = x.flags ∧ (t.sc c).pc = (s.sc c).pc + 4#64 ∧
         ∀ i, i < q → ((t.vec c).elem x.efmt vt.toNat i).bits = readNat (s.sc c).lagoon (o + i * n) n % 2 ^ FmtCode.bits x.efmt)

/-- K4INL of the core's own lagoon (R204, R212): block b lies at base + 24 b, its 32 codes first and its scale in slot 0 of the word after
them; a load takes the codes and the scale, a store writes them back. -/
def Obligations.K4InlineBlocks : Prop :=
  ∀ (s : State) (c : CoreId) (g : Guard) (vt : BitVec 6) (gb : BitVec 5) (o : Nat), Runs s c g →
    let x := s.vec c
    let f : FmtVMmode := { vt := vt, gb := gb, param := 0#4, msel := 0#3, pol := false }
    let blocks := x.vl.toNat / 32
    x.efmt = Fmt.k4 → x.sound = true → vmCheck (vmWithMode f modeK4inl) false x = none → ((s.sc c).rg gb).toNat = ownBase + o → o % 8 = 0 →
    o + 24 * blocks ≤ mooringFree → (∀ a, s.engineHolds c a 8 = false) →
      ((∀ a, badIn (s.sc c).lagoonBad a 8 = none) → Answers (exec (.k4inl c g false f) s) fun t =>
        OnlyVector s t c ∧
        ∀ b j, b < blocks → j < 32 →
          ((t.vec c).elem Fmt.k4 vt.toNat (32 * b + j)).bits = nbits (readNat (s.sc c).lagoon (o + 24 * b) 16) (4 * j) 4) ∧
      Answers (exec (.k4inl c g true f) s) (fun t =>
        t = s.retires c (fun k => k.onSc fun y => { y with lagoon := (t.sc c).lagoon, lagoonBad := (t.sc c).lagoonBad }) ∧
        (∀ b j, b < blocks → j < 32 → nbits (readNat (t.sc c).lagoon (o + 24 * b) 16) (4 * j) 4 = (x.elem Fmt.k4 vt.toNat (32 * b + j)).bits) ∧
        (∀ b, b < blocks → readNat (t.sc c).lagoon (o + 24 * b + 16) 8 = inlineWord (x.scale (vt.toNat + x.group) b)) ∧
        SameOutside (s.sc c).lagoon (t.sc c).lagoon o (24 * blocks))

/-! ### The matrix engine -/

/-- MX.CFG, LSKEW and MPROG_ABANDON (R98-R100, R104, R110): MX.CFG writes MCFG whole; an LSKEW write that R99 ignores only sets SKEWREJ, and an
accepted one leaves every lagoon byte outside the old and the new window; abandoning an interrupted MX.SEQ empties both weight
registers. -/
def Obligations.MatrixConfiguration : Prop :=
  ∀ (s : State) (c : CoreId),
    let m := s.mx c
    (∀ (g : Guard) (r : BitVec 5), Runs s c g →
      let w := (s.sc c).rg r
      modeFmtOk (cfgMode w) (cfgA w) = true → modeFmtOk (cfgMode w) (cfgB w) = true → w &&& 0xffffffffff003000#64 = 0#64 →
      cfgRows w ≤ 64 → m.progValid = false →
        exec (.mxCfg c g { gs := r, rsv := 0#13 }) s = .next (s.retires c fun k => k.onMx fun m => { m with mcfg := w })) ∧
    (s.canIssue c = true → (s.sc c).settled → ∀ (n : BitVec 2) (v : Word),
      let x : Fin 4 := Fin.ofNat 4 n.toNat
      let w := v &&& skewMask
      (m.skewRejected x w = true →
        exec (.lskew c n v) s = .next (s.retires c fun k => k.onMx fun m => { m with skewReject := true })) ∧
      (m.skewRejected x w = false → Answers (exec (.lskew c n v) s) fun t =>
        t.mx c = { m with lskew := m.lskew.set x w } ∧
        ∀ a, (∀ u, (u = w ∨ u = m.lskew.get x) → skewEn u = true → a < 256 * skewBase u ∨ 256 * (skewBase u + skewSize u) ≤ a) →
          byteAt (t.sc c).lagoon a = byteAt (s.sc c).lagoon a)) ∧
    (s.canIssue c = true → (s.sc c).settled → 1#2 ≤ (s.sc c).priv → m.progValid = true →
      exec (.mprogAbandon c) s = .next (s.retires c fun k => k.onMx fun m =>
        { m with progValid := false, wr0 := WReg.empty, wr1 := WReg.empty, passBuf := [], seen := [] }))

/-- Weight loads (R89, R91, R96, R105): MX.LDW starts a load into the register that MX.SEQ takes next, or the other if that one is used;
WEIGHT_LOAD_COMPLETE leaves it READY with the columns of the lagoon, where nothing has changed that lagoon since. Accumulator restores
(R106, R115): MX.LDW with ACC checks every image at issue; at its end the bank's 4,096 elements are those images, in shoal, row and column
order, its event words are clear, and the other bank is kept. -/
def Obligations.WeightLoadsAndRestores : Prop :=
  (∀ (s : State) (c : CoreId),
     let m := s.mx c
     let lag := (s.sc c).lagoon
     (∀ (g : Guard) (f : FmtMxLdw), Runs s c g → f.rsv = 0#10 → m.progValid = false → (m.wr0.used && m.wr1.used) = false →
       (f.t = true → cfgB m.mcfg ≠ Fmt.k4) →
       let offs := m.chunkOffs (fld ((s.sc c).rg f.gw) 19 0) 0 f.t
       (∀ o ∈ offs, o % segAlign (cfgB m.mcfg) = 0) →
         Answers (exec (.mxLdw c g f) s) fun t =>
           let r := if (m.wr m.wnext).used then !m.wnext else m.wnext
           t = s.retires c (fun k => { k with mx := t.mx c }) ∧ (t.mx c).wr (!r) = m.wr (!r) ∧ (t.mx c).banks = m.banks ∧
           ((t.mx c).wr r).st = 1#2 ∧ ((t.mx c).wr r).fmt = cfgB m.mcfg ∧ ((t.mx c).wr r).offs = offs ∧ ((t.mx c).wr r).before = lag) ∧
     (∀ r : Bool, (m.wr r).st = 1#2 → s.clocked c = true → (s.sc c).run ≠ .quarantined → (m.wr r).before = lag →
       badWraps (s.sc c).lagoonBad (m.wr r).ranges = none →
       Answers (exec (.weightLoadComplete c r) s) fun t =>
         OnlyCore { s with free := t.free } t c ∧ (t.mx c).wr (!r) = m.wr (!r) ∧
         (t.mx c).wr r = { m.wr r with st := 2#2, offs := [], before := [], cols := (m.wr r).columns lag })) ∧
  (∀ (s : State) (c : CoreId),
     let m := s.mx c
     let lag := (s.sc c).lagoon
     (∀ (g : Guard) (f : FmtMxLdw), Runs s c g → f.rsv = 0#10 → f.t = false → m.progValid = false →
       let base : BitVec 20 := ((s.sc c).rg f.gw).extractLsb' 0 20
       base.toNat % 16 = 0 → m.bankBusy f.bank = false → badWraps (s.sc c).lagoonBad [(base.toNat, 65536)] = none → imagesReason (imagesAt lag base.toNat) = none →
         exec (.mxLdwAcc c g f) s = .next (s.retires c fun k => k.onMx fun m =>
           { m with restores := m.restores.set (bankIx f.bank) (some { base := base, before := lag }) })) ∧
     (∀ (bank : Bool) (r : Restore), m.restores.get (bankIx bank) = some r → s.enginesRun c = true → r.before = lag →
       badWraps (s.sc c).lagoonBad [(r.base.toNat, 65536)] = none →
       Answers (exec (.accumulatorRestoreEnd c bank) s) fun t =>
         (∀ i, i < 4096 → (t.mx c).acc bank i =
           accOfImage (BitVec.ofNat 128 (leNat (readWrap lag (r.base.toNat + 16 * i) 16)))) ∧
         (∀ i, (t.mx c).acc (!bank) i = m.acc (!bank) i) ∧ (t.mx c).restores.get (bankIx bank) = none ∧
         (t.mx c).events.get (bankIx bank) = Vector.replicate 4 BankEvent.clear ∧ (t.sc c) = s.sc c))

/-- MX.SEQ starts its sequence at its first step and retires only with its last; with a count or ROWS of zero it retires at once (R107).
STEP (R86, R90, R107): a step whose checks pass, whose chunk is ready and whose bank no drain or restore holds updates row i, columns 0 to
n - 1, of the selected bank of every shoal and no other element; gc falls by one, and MX.SEQ retires with the step that takes it to zero.
-/
def Obligations.MatrixSequencesAndSteps : Prop :=
  (∀ (s : State) (c : CoreId) (g : Guard) (f : FmtMxSeq), Runs s c g → f.rsv = 0#3 → (s.mx c).progValid = false →
     let x := s.sc c
     let m := s.mx c
     let gc := x.rg f.gc
     (gc = 0#64 ∨ cfgRows m.mcfg = 0 → exec (.mxSeq c g f) s = .next (s.retires c id)) ∧
     (gc ≠ 0#64 → cfgRows m.mcfg ≠ 0 → gc < 0x10000#64 → (m.wr0.used || m.wr1.used) = true →
       Answers (exec (.mxSeq c g f) s) fun t =>
         OnlyCore s t c ∧ (t.sc c).run = .matrix ∧ (t.sc c).pc = x.pc ∧ (t.sc c).retired = x.retired ∧ (t.sc c).g = x.g ∧
         (t.mx c).banks = m.banks ∧
         (t.mx c).seq = some
           { ga := (x.rg f.ga).extractLsb' 0 20, gw := (x.rg f.gw).extractLsb' 0 20, rc := f.gc, chunk := 0#16, pass := 0#4, row := 0#7 })) ∧
  (∀ (s : State) (c : CoreId) (k : StepCheck) (q : Seq),
     let m := s.mx c
     let x := s.sc c
     let md := cfgMode m.mcfg
     let w := m.wr m.wnext
     let bank := cfgBank m.mcfg
     let gc := x.rg q.rc
     let act (sh : Nat) : List Opd := m.activation x.lagoon q 0 sh false
     let mine (key : Nat) : Bool := key / 16 % 64 = q.row.toNat && key % 16 < modeN md && key < 4096
     m.sound = true → m.seq = some q → x.run = .matrix → s.clocked c = true → w.st = 2#2 → w.fits md = true →
     m.rowHeld bank (m.cycleEnd q.row.toNat) = false → badWraps x.lagoonBad (m.stepRanges q 0#4) = none → m.mustLoad q gc.toNat = false → m.seen = x.lagoon → k.first = 0#4 → m.rowSound q = true →
     (q.pass = 0#4 → ∀ sh, sh < 4 → m.actOff q sh % segAlign (cfgA m.mcfg) = 0) →
       Answers (exec (.step c k) s) fun t =>
         (∀ sh j, sh < 4 → j < modeN md → (t.mx c).acc bank (1024 * sh + 16 * q.row.toNat + j) =
           (m.acc bank (1024 * sh + 16 * q.row.toNat + j)).update md q.pass.toNat (act sh) (w.cols.getD j [])) ∧
         (∀ key, mine key = false → (t.mx c).acc bank key = m.acc bank key) ∧
         (∀ key, (t.mx c).acc (!bank) key = m.acc (!bank) key) ∧
         (t.sc c).rg q.rc = (if q.rc = 0#5 then 0#64 else gc - 1#64) ∧
         (gc = 1#64 → (t.sc c).run = .running ∧ (t.mx c).seq = none ∧ (t.sc c).pc = x.pc + 4#64 ∧ (t.sc c).retired = x.retired + 1#64) ∧
         (gc ≠ 1#64 → (t.sc c).run = .matrix ∧ (t.mx c).seq.isSome = true ∧ (t.sc c).pc = x.pc ∧ (t.sc c).retired = x.retired))

/-- Drains (R103, R111-R113): MX.DRN, with and without IMG, takes its settings at issue and holds its bank until its rows are written;
DISCARD clears the elements that it would have read and no other. DRAIN_ROW_WRITE and DRAIN_END (R77, R111, R112, R114, R115): a shoal
that holds its entry and has nothing in its links reads its next row, rounded, and writes it at the end of the entry; the row is cleared
with CLEAR and kept without; the entry is visible after its last row. A finished drain ends, freeing its bank, and with CLEAR clears the
bank's event words. TQDISCARD (R138): with no drain in progress and no descriptor that takes entries it empties the tile queue, and while
a drain is in progress it waits for its end. -/
def Obligations.MatrixDrains : Prop :=
  (∀ (s : State) (c : CoreId) (g : Guard) (f : FmtMxDrn), Runs s c g → drnBad f = false →
     let m := s.mx c
     let gd := (s.sc c).rg f.gd
     let d (kind : DrainKind) : Drain :=
       { kind := kind, cfg := m.mcfg, fmt := f.fmt, rm := if f.rm = 7#3 then m.mround else f.rm, om := f.om, clear := f.clear,
         tag := gd.extractLsb' 0 16, dseq := m.dseq, base := gd.extractLsb' 0 20, lanes := Vector.replicate 4 DrainLane.start }
     let goTo (kind : DrainKind) (n : BitVec 16) : State :=
       s.retires c fun k => k.onMx fun m => { m with drains := m.drains.set (bankIx f.bank) (some (d kind)), dseq := n }
     m.progValid = false → m.trapPend = false → m.bankBusy f.bank = false →
       ((f.img = true → gd.toNat % 16 = 0) → exec (.mxDrn c g f) s = .next (
         if f.img then goTo .img m.dseq else goTo .push (if cfgRows m.mcfg = 0 then m.dseq else m.dseq + 1#16))) ∧
       (gd.toNat % 16 = 0 → exec (.mxDrnImg c g f) s = .next (goTo .img m.dseq)) ∧
       (f.clear = true → f.img = false → Answers (exec (.mxDrnDiscard c g f) s) fun t =>
         (t.mx c).drains.get (bankIx f.bank) = some (d .discard) ∧ (t.sc c).pc = (s.sc c).pc + 4#64 ∧
         (∀ key, (t.mx c).acc f.bank key =
           if key / 16 % 64 < cfgRows m.mcfg ∧ key % 16 < modeN (cfgMode m.mcfg) then Acc.clear else m.acc f.bank key) ∧
         (∀ key, (t.mx c).acc (!f.bank) key = m.acc (!f.bank) key) ∧ (t.mx c).tq = m.tq)) ∧
  (∀ (s : State) (c : CoreId) (bank : Bool) (d : Drain),
     let m := s.mx c
     m.drains.get (bankIx bank) = some d → s.enginesRun c = true →
       (∀ (shoal : BitVec 2) (k : DrainCheck) (pre post : List Tile) (tile : Tile),
         let sh := shoal.toNat
         let l := d.lane sh
         let n := modeN (cfgMode d.cfg)
         let row := (List.range n).map fun j => (m.acc bank (1024 * sh + 16 * l.read + j)).drain d.fmt (m.drainRnd d sh l.read j) d.om
         let here (u : Tile) : Bool := u.hdr == d.hdr bank sh && !u.visible
         d.kind = .push → l.taken = true → l.links = [] → l.written = l.read → l.read < cfgRows d.cfg → cfgRows d.cfg ≤ 64 →
         m.drainSound d bank sh n = true → k.first = 0#16 → m.tq = pre ++ tile :: post → here tile = true →
         (∀ u ∈ pre ++ post, here u = false) →
           Answers (exec (.drainRowWrite c bank shoal k) s) fun t =>
             (∃ v : Tile, (t.mx c).tq = pre ++ v :: post ∧ v.hdr = tile.hdr ∧ v.data = tile.data ++ packTensor d.fmt row ∧
               (v.visible = true ↔ l.read + 1 = cfgRows d.cfg)) ∧
             (∃ e : Drain, (t.mx c).drains.get (bankIx bank) = some e ∧ (e.lane sh).read = l.read + 1 ∧ (e.lane sh).written = l.written + 1) ∧
             (∀ key, (t.mx c).acc bank key =
               if d.clear = true ∧ key / 16 = 64 * sh + l.read ∧ key % 16 < n then Acc.clear else m.acc bank key)) ∧
       (d.finished = true → m.discardWait = false → Answers (exec (.drainEnd c bank) s) fun t =>
         OnlyCore s t c ∧
         t.mx c = { m with
           drains := m.drains.set (bankIx bank) none
           events := if d.clear then m.events.set (bankIx bank) (Vector.replicate 4 BankEvent.clear) else m.events })) ∧
  (∀ (s : State) (c : CoreId) (v : Word), s.canIssue c = true → (s.sc c).settled → 1#2 ≤ (s.sc c).priv → (s.ew c).job = none →
     exec (.tqdiscard c v) s = .next (s.retires c fun k => k.onMx fun m =>
       if m.drains.get 0 = none ∧ m.drains.get 1 = none then
         { m with tq := [], tqHead := m.tqHead + BitVec.ofNat 3 m.tq.length, discardWait := false }
       else { m with discardWait := true }))

/-! ### The element-wise engine -/

/-- Posts, starts and record pushes (R121, R122, R124, R143): an accepted post queues the 128 bytes it names; a refused one sets POSTREJ
and counts in EWREJ; a start checks the head and runs it, or ends it with its status; a due record enters the FIFO and the sticky flags; a
read of EWCPL takes the oldest record, or reads zero. TILE_QUEUE_ENTRY_TAKE and EWABORT (R136, R141): a visible entry whose format and
shape match is held; one that does not ends the descriptor with SHAPE and stays; an abort ends the running and every queued descriptor
with ABORTED records, in order. -/
def Obligations.ElementwiseDescriptors : Prop :=
  (∀ (s : State) (c : CoreId),
     let e := s.ew c
     let lag := (s.sc c).lagoon
     let held := e.queue.length + (if e.job.isSome then 1 else 0)
     let keep (t : State) : Prop := t = s.setCore c { s.core c with ew := t.ew c }
     (∀ v : Word, s.canIssue c = true → (s.sc c).settled →
       (v.toNat < 0x100000 ∧ v.toNat % 128 = 0 ∧ held < 16 → badIn (s.sc c).lagoonBad v.toNat 128 = none → Answers (exec (.ewpost c v) s) fun t =>
         t = s.retires c (fun k => { k with ew := t.ew c }) ∧
         ∃ d, t.ew c = { e with queue := e.queue ++ [d] } ∧ d.before = lag ∧ ∀ i, i < 16 → d.w i = readWord lag (v.toNat + 8 * i)) ∧
       (¬(v.toNat < 0x100000 ∧ v.toNat % 128 = 0 ∧ held < 16) → exec (.ewpost c v) s = .next (s.retires c fun k =>
         { k with ew := { e with postRej := true, rej := satInc e.rej } }))) ∧
     (∀ (d : EwDesc) (q : List EwDesc), e.queue = d :: q → e.job = none → e.due = [] → e.fifo.length < 16 → s.enginesRun c = true →
       Answers (exec (.descriptorStart c) s) fun t => keep t ∧
         (d.check = 0 ∧ d.outputs ≠ 0 → t.ew c = { e with queue := q, job := some (EwJob.start d) }) ∧
         (d.check ≠ 0 ∨ d.outputs = 0 → t.ew c = { e with queue := q, due := [(EwJob.start d).record d.check] })) ∧
     (∀ (r : EwRecord) (due : List EwRecord), e.due = r :: due → e.fifo.length < 16 → s.recordsRun c = true →
       Answers (exec (.completionRecordPush c) s) fun t => keep t ∧
         t.ew c = { e with due := due, fifo := e.fifo ++ [r.cpl], flags := e.flags ||| r.flags, empty := e.empty || r.empty,
                           err := e.err || r.err }) ∧
     (∀ rd, s.canIssue c = true → (s.sc c).settled → exec (.ewcpl c rd) s = .next (s.retires c fun k =>
       { k with ew := { e with fifo := e.fifo.tail }, sc := k.sc.wg rd ((e.fifo.head?.map Cpl.word).getD 0#64) }))) ∧
  (∀ (s : State) (c : CoreId),
     let e := s.ew c
     (∀ (j : EwJob) (h : Tile) (q : List Tile), e.job = some j → (s.mx c).tq = h :: q → j.desc.s0kind = 1 → j.tile = false →
       j.sinking = false → j.desc.visited ≠ 0 → h.visible = true → (s.mx c).discardWait = false → s.enginesRun c = true → j.desc.dkind = false →
       let fits := fld h.hdr 31 28 = BitVec.toNat j.desc.s0fmt ∧ fld h.hdr 15 11 = j.desc.ext 0 ∧ fld h.hdr 22 16 = j.desc.ext 1
       Answers (exec (.tileQueueEntryTake c) s) fun t => t.mx c = s.mx c ∧
         (fits ∧ (j.desc.tagchk = true → fld h.hdr 63 48 = j.desc.tqtag) → t.ew c = { e with job := some { j with tile := true } }) ∧
         (¬fits → t.ew c = { e with job := none, due := e.due ++ [j.record 6] })) ∧
     (∀ v, s.canIssue c = true → (s.sc c).settled → 1#2 ≤ (s.sc c).priv → Answers (exec (.ewabort c v) s) fun t =>
       (t.ew c).queue = [] ∧ (t.ew c).job = none ∧ (t.ew c).fifo = e.fifo ∧
       (t.ew c).due = e.due ++ (e.job.toList.map fun j => j.record 8) ++ e.queue.map fun d => (EwJob.start d).record 8))

/-- BATCH (R122, R127, R142) of any running descriptor without a sink, whose entry is held where it takes entries and whose next elements
stand in no bad word: its residue check passed or retried, the next batch commits, and the descriptor goes on behind it or, with its last
element, ends with a record; a retry is counted in EWRETRY; a second mismatch quarantines the core and commits nothing. Of a descriptor that
copies a lagoon run in one format without words (R126), up to 64 elements move in order, each as the conversion to the compute format leaves
it, integers unchanged; no other byte of the lagoon changes, and the record has status OK. -/
def Obligations.BatchesMoveElements : Prop :=
  (∀ (s : State) (c : CoreId) (j : EwJob),
     let e := s.ew c
     let d := j.desc
     e.job = some j → j.sinking = false → s.enginesRun c = true → (d.s0kind = 1 → d.visited = 0 ∨ j.tile = true) → s.ewBad c j = none →
       (∀ k : Check, d.dkind = false → (∀ n, k ≠ .failed n) → Answers (exec (.batch c k) s) fun t =>
         (j.pos + j.batch < d.visited → (t.ew c).job.map EwJob.pos = some (j.pos + j.batch) ∧ (t.ew c).due = e.due) ∧
         (d.visited ≤ j.pos + j.batch → (t.ew c).job = none ∧ ∃ r, (t.ew c).due = e.due ++ [r]) ∧
         (k = .pass → (t.ew c).retry = e.retry) ∧
         (∀ n, k = .retried n → (t.ew c).retry.toNat = min (e.retry.toNat + n.toNat + 1) 0xffffffff) ∧ t.mem = s.mem) ∧
       (∀ n, Answers (exec (.batch c (.failed n)) s) fun t => (t.sc c).run = .quarantined ∧ (t.sc c).lagoon = (s.sc c).lagoon ∧
         (t.ew c).job.map EwJob.pos = some j.pos ∧ (t.ew c).due = e.due)) ∧
  (∀ (s : State) (c : CoreId) (j : EwJob),
     let e := s.ew c
     let d := j.desc
     let lag := (s.sc c).lagoon
     let w := FmtCode.wordBytes d.ofmt
     let n := min 64 (d.ext 0 - j.pos)
     let v (i : Nat) : Nat × Flags := toCompute d.cfmt (e.mode d.crm) (d.read0 (j.pos + i) lag)
     let raised : Flags := (List.range n).foldl (fun a i => a ||| (v i).2) Flags.none
     e.job = some j → j.sinking = false → s.enginesRun c = true → d.check = 0 → d.s0kind = 0 → d.dkind = false → d.redop = 0 → d.len = 0 →
     d.s0fmt = d.cfmt → d.ofmt = d.cfmt → FmtCode.perWord d.cfmt = 1 → d.before = lag → d.ext 1 = 1 → d.ext 2 = 1 → d.ext 3 = 1 →
     d.ext 4 = 1 → j.pos < d.ext 0 → s.ewBad c j = none →
       Answers (exec (.batch c .pass) s) fun t =>
         (∀ i, i < n → readNat (t.sc c).lagoon (d.dst + (j.pos + i) * w) w = (v i).1 % 2 ^ (8 * w) ∧
           (wraps d.cfmt = true → readNat (t.sc c).lagoon (d.dst + (j.pos + i) * w) w = readNat lag (d.src0Off + (j.pos + i) * w) w)) ∧
         SameOutside lag (t.sc c).lagoon (d.dst + j.pos * w) (n * w) ∧ t.mem = s.mem ∧
         (j.pos + n < d.ext 0 → ((t.ew c).job.map EwJob.pos) = some (j.pos + n) ∧ (t.ew c).due = e.due) ∧
         (j.pos + n = d.ext 0 → (t.ew c).job = none ∧ (t.ew c).due = e.due ++ [({ j with flags := j.flags ||| raised } : EwJob).record 0]))

/-! ### Ferries, reduction windows and the memory tiers -/

/-- FPOST, FERRY_DESCRIPTOR_START, FERRY_COMPLETION, FCPL and FABORT (R315, R318, R322): an accepted post queues the 64 bytes it names
with the core's context, and any other counts in FREJ; the first queued descriptor is checked and ends or is ready; the oldest one, once
ended, leaves its record (Table 10.10); a read of FCPL takes the oldest record, or reads zero; an abort ends every descriptor and takes it
off the ferries. FERRY_ASSIGN and STEAL (R320): the lowest free ferry takes the whole of the next ready descriptor in the isle's rotation;
an idle ferry, when no descriptor waits, takes the upper half of the unstarted tiles of the ferry that has most of them, two at least.
FERRY_TILE of a COPY or a FILL within the core's own lagoon whose runs do not meet (R317): run r of the tile takes the run of the source,
or zeros; no other byte of any lagoon or of device memory changes; the tile is counted, the last one ends the descriptor, and the ferry
goes on to its next tile or is free. -/
def Obligations.FerriesMoveTiles : Prop :=
  (∀ (s : State) (c : CoreId) (n : BitVec 4),
     let k := n.toNat
     let t := s.streamOf c k
     let put (u : Stream) (y : Core) : Core := { y with streams := mapSet k u y.streams }
     (s.canIssue c = true → (s.sc c).settled →
       (∀ v : Word,
         let ok := v.toNat < 2 ^ 20 ∧ v.toNat % 64 = 0 ∧ (t.items.filter fun x => x.sink.isNone && x.phase != .ended).length < 16
         (ok → badIn (s.sc c).lagoonBad v.toNat 64 = none → ∃ x : FerryItem,
           exec (.fpost c n v) s = .next (s.retires c (put { t with items := t.items ++ [x], next := t.next + 1 })) ∧
           (∀ i : Fin 8, x.words[i] = readWord (s.sc c).lagoon (v.toNat + 8 * i.val)) ∧ x.ctx = (s.sc c).ctxid.toNat ∧
           x.phase = .queued ∧ x.sink = none ∧ x.done = 0) ∧
         (¬ok → exec (.fpost c n v) s =
           .next (s.retires c fun y => { y with fp := { y.fp with postRej := true, rej := satInc y.fp.rej } }))) ∧
       (∀ rd, exec (.fcpl c n rd) s = .next (s.retires c fun y =>
         match t.fifo with
         | [] => y.onSc fun z => z.wg rd 0#64
         | r :: rest => (put { t with fifo := rest } y).onSc fun z => z.wg rd r.word)) ∧
       (∀ v, 1#2 ≤ (s.sc c).priv → Answers (exec (.fabort c n v) s) fun u =>
         u.streamOf c k = { t with items := t.items.map fun x => if x.phase = .ended then x else { x with phase := .ended, status := 13 } } ∧
         (∀ f sh, mapFind f (u.isle (isleOf c)).ferries = some sh → sh.core = c.val → sh.stream = k →
           ∀ x ∈ t.items, x.phase ≠ .ended → x.seq ≠ sh.seq) ∧
         u.sc c = (s.retires c id).sc c ∧ u.mem = s.mem)) ∧
     (s.ferriesRun c = true →
       (∀ (pre post : List FerryItem) (x : FerryItem), t.items = pre ++ x :: post → (∀ y ∈ pre, y.phase ≠ .queued) → x.phase = .queued →
         (∀ y ∈ pre ++ post, y.seq ≠ x.seq) → t.fifo.length < 16 → (x.order = true → ∀ y ∈ pre, y.phase = .ended) →
           exec (.ferryDescriptorStart c n) s = .next (s.setCore c (put { t with items := pre ++
             (if x.check = 0 ∧ x.empty = false then { x with phase := .ready } else { x with phase := .ended, status := x.check }) ::
               post } (s.core c))))) ∧
     (s.powered = true → (s.sc c).run ≠ .quarantined →
       (∀ (x : FerryItem) (rest : List FerryItem), t.items = x :: rest → x.phase = .ended → x.sink = none → t.fifo.length < 16 →
         let w := word (2 ^ 63 + x.status * 2 ^ 40 + min x.done 0xffff * 2 ^ 24 + x.tag)
         exec (.ferryCompletion c n) s = .next (s.setCore c
           { put { t with items := rest, fifo := t.fifo ++ [{ word := w, irq := x.irq }] } (s.core c) with
             fp := if x.status = 0 then (s.core c).fp else { (s.core c).fp with err := true } })))) ∧
  (∀ (s : State) (i : IsleId),
     let y := s.isle i
     (∀ (f k : Nat) (c : CoreId) (x : FerryItem), mapFree 32 y.ferries = some f → s.readyIn i = some (c, k, x) →
       Answers (exec (.ferryAssign i) s) fun t =>
         t.streamOf c k = (s.streamOf c k).put { x with phase := .running } ∧
         (let sh : FerryShare := { core := c.val, stream := k, seq := x.seq, next := 0, row := 0, stop := x.tiles, waitAt := none }
          let u := s.updIsle i fun y => { y with ferries := mapSet f sh y.ferries, rotate := (coreIndex c + 1) % 150 }
          t = { u with cores := t.cores }) ∧
         (∀ d, d ≠ c → t.core d = s.core d) ∧
         t.core c = { s.core c with streams := (t.core c).streams, fp := { (s.core c).fp with rotate := (k + 1) % 16 } }) ∧
     (∀ (f : BitVec 5) (v : Nat) (sh : FerryShare) (pre post : Map FerryShare),
       let u := sh.stop - sh.next - 1
       y.ferries = pre ++ (v, sh) :: post → mapFind f.toNat y.ferries = none → s.readyIn i = none → 2 ≤ u →
       (∀ z ∈ pre, z.2.unstarted < u) → (∀ z ∈ post, z.2.unstarted ≤ u) →
         let taken : FerryShare := { sh with next := sh.stop - u / 2, row := 0, waitAt := none }
         let kept : FerryShare := { sh with stop := sh.stop - u / 2 }
         exec (.steal i f) s = .next (s.updIsle i fun y => { y with ferries := mapSet f.toNat taken (mapSet v kept y.ferries) }))) ∧
  (∀ (s : State) (i : IsleId) (f : BitVec 5) (sh : FerryShare) (x : FerryItem),
     let c := coreOf sh.core
     let lag := (s.sc c).lagoon
     let t := s.streamOf c sh.stream
     let d (r : Nat) : Nat := (x.dstAt sh.next r).toNat
     let o (r : Nat) : Nat := (x.srcAt sh.next r).toNat
     let bytes (r : Nat) : List Byte := if x.kind = kCopy then readBytes lag (o r) x.run else List.replicate x.run 0#8
     let apart (a b : Nat) : Prop := a + x.run ≤ b ∨ b + x.run ≤ a
     mapFind f.toNat (s.isle i).ferries = some sh → t.find sh.seq = some x → s.ferriesRun c = true → sh.row = 0 → sh.waitAt = none →
     x.sink = none → x.kind = kCopy ∨ x.kind = kFill → awLagoon x.dst = true → peerCore c (awCore x.dst) = c →
     (x.kind = kCopy → awLagoon x.src = true ∧ peerCore c (awCore x.src) = c ∧
       ∀ r, r < x.rows → badIn (s.sc c).lagoonBad (o r) x.run = none) →
     (∀ r, r < x.rows → d r + x.run ≤ mooringFree) → (x.done + 1 = x.tiles → x.clashes = []) →
     (∀ r q, r < x.rows → q < x.rows → (r ≠ q → apart (d r) (d q)) ∧ (x.kind = kCopy → apart (d r) (o q))) →
       Answers (exec (.ferryTile i f) s) fun u =>
         (∀ r, r < x.rows → readBytes (u.sc c).lagoon (d r) x.run = bytes r) ∧
         (∀ a, (∀ r, r < x.rows → a < d r ∨ d r + x.run ≤ a) → byteAt (u.sc c).lagoon a = byteAt lag a) ∧
         u.sc c = { s.sc c with lagoon := (u.sc c).lagoon, lagoonBad := (u.sc c).lagoonBad } ∧ (∀ e, e ≠ c → u.core e = s.core e) ∧
         u.mem = s.mem ∧
         u.streamOf c sh.stream =
           t.put { x with done := x.done + 1, phase := if x.done + 1 = x.tiles then .ended else x.phase } ∧
         (u.isle i).ferries =
           if sh.next + 1 < sh.stop then mapSet f.toNat { sh with next := sh.next + 1 } (s.isle i).ferries
           else mapErase f.toNat (s.isle i).ferries)

/-- ARM and ABORT (R264, R265): the first check that fails is recorded with ERR and the window stays as it was; a window whose checks pass
and that has lines and contributions opens with its counters clear; an abort closes an open window with reason ABORTED and discards what
is staged, and leaves a closed one alone. CONTRIBUTION and STAGED_CONTRIBUTION_APPLY (R260, R261): the contribution whose index is its
line's next one combines with the line so far, and the last writes the line; a later index is staged while the staging area has room; an
index that has passed, or is past the count, or a line outside the window, is rejected with ORDER. A staged one is applied when its turn
has come. -/
def Obligations.WindowsCombineInOrder : Prop :=
  (∀ (s : State) (c : CoreId) (n : BitVec 4), s.canIssue c = true → (s.sc c).settled → 1#2 ≤ (s.sc c).priv →
     let i := isleOf c
     let w := s.window i n.toNat
     let ctx := (s.sc c).ctxid.toNat
     let frame (t : State) : Prop := t.mem = s.mem ∧ t.core c = (s.retires c id).core c ∧ ∀ m, m ≠ n.toNat → t.window i m = s.window i m
     (∀ r, s.armReason i n.toNat ctx = some r → Answers (exec (.arm c n) s) fun t => frame t ∧
       (t.window i n.toNat).err = true ∧ (t.window i n.toNat).reason = r ∧ (t.window i n.toNat).opened = w.opened ∧
       (t.window i n.toNat).next = w.next) ∧
     (∀ dpa leaf, s.armReason i n.toNat ctx = none → w.lines ≠ 0 → w.n ≠ 0 → s.walk ctx (fld w.base 55 0) = .ok dpa leaf →
       Answers (exec (.arm c n) s) fun t => frame t ∧ ∃ l, t.window i n.toNat = { w with
         opened := true, done := false, err := false, empty := false, flags := 0#7, linesDone := 0, dpa := dpa, ctx := ctx, launch := l,
         next := [], vals := [], spoiled := false, staged := [] }) ∧
     ((∀ y, (n.toNat, y) ∈ (s.isle i).windows → y = w) →
       (w.opened = true → Answers (exec (.abort c n) s) fun t =>
         t.window i n.toNat =
           { w with opened := false, err := true, reason := 9#8, staged := [], next := [], vals := [], spoiled := false } ∧
         t.core c = (s.retires c id).core c ∧ SameOutside s.mem t.mem w.dpa (128 * w.lines)) ∧
       (w.opened = false → Answers (exec (.abort c n) s) frame))) ∧
  (∀ (s : State) (i : IsleId) (n : BitVec 4) (line : BitVec 17) (data : List Byte),
     let w := s.window i n.toNat
     let ln := line.toNat
     let a := w.dpa + 128 * ln
     let k := mapGet 0 ln w.next
     let old := if k = 0 then (if w.acc then some (lineElems w.fmt (readBytes s.mem a 128)) else none) else mapFind ln w.vals
     let r := w.combine old (lineElems w.fmt data)
     let pin := Flags.when (k = 0 && (old.getD []).any Elem.poisoned) Flags.poisonIn
     let applied (left : List Staged) (t : State) : Prop :=
       let y := t.window i n.toNat
       y.staged = left ∧ y.flags = w.flags ||| r.2 ||| pin ∧ y.err = w.err ∧ (∀ c, t.core c = s.core c) ∧
       (k + 1 < w.n → t.mem = s.mem ∧ y.opened = true ∧ mapGet 0 ln y.next = k + 1 ∧ mapFind ln y.vals = some r.1 ∧
         y.linesDone = w.linesDone) ∧
       (k + 1 = w.n → Written s.mem t.mem a (lineBytes w.fmt r.1) ∧ y.linesDone = w.linesDone + 1 ∧
         (y.opened = true ↔ w.linesDone + 1 < w.lines) ∧ (y.done = true ↔ w.done = true ∨ w.lines ≤ w.linesDone + 1))
     w.opened = true → w.spoiled = false → ln < w.lines → w.linesDone < w.lines → data.length = 128 →
       (∀ (y : Staged) (pre post : List Staged), w.staged = pre ++ y :: post → y.line = ln → y.idx = k → y.data = data → k < w.n →
         (k = 0 → w.acc = true → s.unreadable a 128 = false) → (k + 1 = w.n → s.midOffline a = false) → (∀ z ∈ pre ++ post, z.line ≠ ln ∨ z.idx ≠ k) →
           Answers (exec (.stagedContributionApply i n line) s) (applied (pre ++ post))) ∧
       (∀ (va : BitVec 56) (idx : BitVec 10) (f : FerryFrom) (leaf : Word),
         s.translate f.ctx.toNat va.toNat .write f.level true = .ok a leaf → s.tagOk f.ctx.toNat a = true → a % 128 = 0 →
         s.waitsOn f.ctx.toNat va.toNat { cls := 1, core := f.core.val, stream := f.stream.toNat, write := true, read := false } = false →
         let staged := w.staged.any fun z => z.line == ln && z.idx == idx.toNat
         let go := exec (.contribution i n va idx f data) s
         (idx.toNat = k → k < w.n → staged = false → (k = 0 → w.acc = true → s.unreadable a 128 = false) → (k + 1 = w.n → s.midOffline a = false) →
           Answers go (applied w.staged)) ∧
         (k < idx.toNat → idx.toNat < w.n → staged = false → (s.isle i).stagingUsed < s.stagingMiB i * 8192 →
           Answers go fun t => t.mem = s.mem ∧
             t.window i n.toNat = { w with staged := w.staged ++ [{ line := ln, idx := idx.toNat, data := data }] }) ∧
         (idx.toNat < k ∨ w.n ≤ idx.toNat ∨ staged = true → s.launchOfCore f.core.val = none →
           Answers go fun t => t.mem = s.mem ∧ t.window i n.toNat = { w with err := true, reason := 8#8 })))

/-- SCRUB (R245, R246, R251, R256, R274, R277, R282-R286): a clean visit does nothing; a corrected error is counted where the manual counts it and
reported; an uncorrectable one of Near or Mid marks its block and raises MEMORY_ERROR, one of a lagoon, a scratch way, a modified L1 line or
a Deep page without a stripe is kept with it and raises MEMORY_ERROR too, a clean L1 line is filled again; a line that a cove holds does so
where it is modified, and is fetched again where it is not; the fourth corrected error of a Near row within 24
hours repairs the row with the next spare of its bank, four being the model's count (log 60). No byte of memory changes. DEEP_WRITE,
DEEP_READ and ENDURANCE_UPDATE (R275-R279): whole units within one frame of the context are written and counted, and no other byte; a part
of a unit, or any write once Deep is read-only, writes nothing; a page that LDPC corrects, or that its stripe rebuilds, is counted;
WEAR_USED at 100 % posts DEEP_WEAR_OUT once, and SPARE_LEFT at 10 % ends writes. -/
def Obligations.ScrubbingAndDeepAccounts : Prop :=
  (∀ s : State, s.powered = true →
     (∀ p, exec (.scrub p .clean) s = .next s) ∧
     (∀ p o, Answers (exec (.scrub p o) s) fun t => t.mem = s.mem ∧ t.hb.queues = s.hb.queues ∧
       ∀ c, (t.sc c).g = (s.sc c).g ∧ (t.sc c).lagoon = (s.sc c).lagoon ∧ (t.sc c).scratch = (s.sc c).scratch ∧ (t.sc c).run = (s.sc c).run) ∧
     (∀ c w, Answers (exec (.scrub (.lagoon c w) .corrected) s) (OnlyReports s) ∧
       (let u := s.updSc c fun x => { x with lagoonBad := addOnce w.toNat x.lagoonBad }
        Answers (exec (.scrub (.lagoon c w) .uncorrectable) s) fun t => OnlyReports u t ∧ t.alarmed 8#16 (BitVec.ofNat 16 (0x5000 + c.val)))) ∧
     (∀ c (w : BitVec 12), w.toNat < (s.sc c).scratchW * 1024 → Answers (exec (.scrub (.scratch c w) .corrected) s) (OnlyReports s) ∧
       (let u := s.updSc c fun x => { x with scratchBad := addOnce w.toNat x.scratchBad }
        Answers (exec (.scrub (.scratch c w) .uncorrectable) s) fun t => OnlyReports u t ∧ t.alarmed 8#16 (BitVec.ofNat 16 (0x6000 + c.val)))) ∧
     (∀ c set w y, (s.sc c).l1Line set.toNat w.toNat = some y →
       Answers (exec (.scrub (.l1 c set w) .corrected) s) (OnlyReports s) ∧
       (y.modified = true →
         let u := s.updSc c fun x => x.setL1 set.toNat w.toNat (some { y with bad := true }) false
         Answers (exec (.scrub (.l1 c set w) .uncorrectable) s) fun t => OnlyReports u t ∧ t.alarmed 8#16 (BitVec.ofNat 16 (0x6000 + c.val))) ∧
       (y.modified = false → Answers (exec (.scrub (.l1 c set w) .uncorrectable) s) fun t => t.rep = s.rep ∧ t.mem = s.mem)) ∧
     (∀ i (d : BitVec 42) y, mapFind (d.toNat / 128) (s.cove i.val).lines = some y →
       Answers (exec (.scrub (.cove i d) .corrected) s) (OnlyReports (s.updIsle i fun y => { y with cvce := satInc y.cvce })) ∧
       (y.modified = true → Answers (exec (.scrub (.cove i d) .uncorrectable) s) fun t =>
         OnlyReports { s with marks := addOnce (d.toNat / 64) s.marks } t ∧ t.alarmed 8#16 (coveSource i d.toNat)) ∧
       (y.modified = false → exec (.scrub (.cove i d) .uncorrectable) s = .next s)) ∧
     (∀ i (d : BitVec 42) o, mapFind (d.toNat / 128) (s.cove i.val).lines = none → exec (.scrub (.cove i d) o) s = .next s) ∧
     (∀ d : BitVec 42,
       let a := d.toNat
       let i : IsleId := Fin.ofNat 8 (isleOfDpa a)
       (tierOf a = 1 →
         let row := Config.nearRow a
         let old := mapGet { events := [], spare := none } row (s.isle i).rows
         let evs := (old.events.filter fun t => s.since t < dayTicks) ++ [s.tide]
         let bank := Config.nearBank row
         let used := mapGet 0 bank (s.isle i).badSpares
         Answers (exec (.scrub (.near d) .corrected) s) fun t =>
           (evs.length < 4 → OnlyReports (s.updIsle i fun y => { y with rows := mapSet row { old with events := evs } y.rows }) t) ∧
           (4 ≤ evs.length → used < 4 →
             mapFind row (t.isle i).rows = some { events := [], spare := some used } ∧ mapGet 0 bank (t.isle i).badSpares = used + 1 ∧
             t.flash = { s.flash with repairs := s.flash.repairs ++ [(i.val, row, used)] })) ∧
       (tierOf a = 2 → Answers (exec (.scrub (.mid d) .corrected) s)
         (OnlyReports (s.updIsle i fun y => { y with mid := { y.mid with corrected := y.mid.corrected + 1 } }))) ∧
       (∀ p, (p = .near d ∧ tierOf a = 1) ∨ (p = .mid d ∧ tierOf a = 2) → Answers (exec (.scrub p .uncorrectable) s) fun t =>
         t.marks = addOnce (a / 64) s.marks ∧ t.alarmed 8#16 (memSource a)) ∧
       (tierOf a = 3 → Answers (exec (.scrub (.deep d) .corrected) s) (OnlyReports s) ∧
         exec (.scrub (.deep d) .rebuilt) s = .next { s with deep := { s.deep with rebuilt := s.deep.rebuilt + 1 } } ∧
         Answers (exec (.scrub (.deep d) .uncorrectable) s) fun t =>
           OnlyReports { s with deep := { s.deep with lost := addOnce ((a - 0x20000000000) / 4096) s.deep.lost } } t ∧
           t.alarmed 8#16 (memSource a) ∧ t.unreadable a 1 = true))) ∧
  (∀ s : State, s.powered = true →
     (∀ (c : CoreId) (addr : BitVec 41) (data : List Byte),
       let n := data.length
       let d := 0x20000000000 + addr.toNat
       let whole := addr.toNat % 4096 = 0 ∧ n % 4096 = 0 ∧ s.deep.readOnly = false ∧ addr.toNat + n ≤ 2 ^ 41
       0 < n →
         (whole → addr.toNat % 65536 + n ≤ 65536 → s.tagOk (s.sc c).ctxid.toNat d = true → s.inOpenWindow d n = false →
           Answers (exec (.deepWrite c addr data) s) fun t =>
             Written s.mem t.mem d data ∧ t.deep.hostWritten = s.deep.hostWritten + n ∧
             t = s.withMemoryOf t) ∧
         (¬whole → s.launchOfCore c.val = none → exec (.deepWrite c addr data) s = .next s)) ∧
     (∀ (c : CoreId) (addr : BitVec 41) (len : BitVec 20), len ≠ 0#20 →
       let src := memSource (0x20000000000 + addr.toNat)
       exec (.deepRead c addr len .clean false) s = .next s ∧
       Answers (exec (.deepRead c addr len .corrected false) s) (OnlyReports s) ∧
       exec (.deepRead c addr len .uncorrectable true) s = .next { s with deep := { s.deep with rebuilt := s.deep.rebuilt + 1 } } ∧
       (s.launchOfCore c.val = none →
         Answers (exec (.deepRead c addr len .uncorrectable false) s) fun t =>
           OnlyReports { s with deep := { s.deep with lost := addOnce (addr.toNat / 4096) s.deep.lost } } t ∧ t.alarmed 8#16 src)) ∧
     (∀ (media : BitVec 64) (wear spare : Nat), Answers (exec (.enduranceUpdate media wear spare) s) fun t =>
       t.deep.mediaWritten = media.toNat ∧ t.deep.wear = wear ∧ t.deep.spare = spare ∧
       (t.deep.readOnly = true ↔ s.deep.readOnly = true ∨ spare ≤ 1000) ∧
       (t.deep.wearPosted = true ↔ s.deep.wearPosted = true ∨ 10000 ≤ wear) ∧
       (10000 ≤ wear → s.deep.wearPosted = false →
         ∃ e ∈ t.hb.events.unacked.map Unacked.entry ++ t.hb.events.waiting, Entry.kind e = 3) ∧
       OnlyReports { s with deep := t.deep } t))

/-- LANE_TRAINING, MID_RETRAIN and MID_FRAME (R271-R273): the link runs with all lanes, with a good half, or not at all, and anything but
all lanes raises MID_LINK; it trains again only after eight replays; a good frame brings the other side's ACK, credits and NAK, which sends
the frames that it has not acknowledged again, and one in order is taken and the next number expected; a frame whose CRC-64 fails counts a
replay and is answered with NAK; one of a reserved TYPE, or of TRAIN, changes nothing (log 190). READ64, READ128, WRITE64, WRITE128,
WRITEMASK64 and RESPONSE (R273, R274, R283, Table 9.11): a command goes out in frames that carry their CRC-64 and stay in the replay buffer,
and it waits for its response under its tag, a read with the bytes that it found; a write stores its bytes, or those its mask selects, at the
buffer's DPA and nothing else, and clears the marks of blocks that it covers whole; a response ends its request, returning a read's bytes,
counting a corrected error and marking the blocks of an uncorrectable one. -/
def Obligations.MidLinksTrainAndServe : Prop :=
  (∀ (s : State) (i : IsleId), s.powered = true →
     let m := (s.isle i).mid
     let goTo (f : MidLink → MidLink) : State := s.updIsle i fun y => { y with mid := f y.mid }
     (∀ lanes : BitVec 16,
       let l := if lanes = 0xffff#16 then lanes else if lanes &&& 0xff#16 = 0xff#16 then 0xff#16
         else if lanes >>> 8 = 0xff#16 then 0xff00#16 else 0#16
       let u := goTo fun m =>
         { m with lanes := l, replays := 0, resends := 0, nak := false, retraining := false, waiting := if l = 0#16 then [] else m.waiting }
       let trained (r : Instr) : Prop :=
         (l = 0xffff#16 → exec r s = .next (u.midDrain i)) ∧ (m.waiting = [] → u.midDrain i = u) ∧
         (l ≠ 0xffff#16 → l = 0#16 ∨ m.waiting = [] →
           Answers (exec r s) fun t => OnlyReports u t ∧ t.alarmed 0x000b#16 (BitVec.ofNat 16 i.val))
       trained (.laneTraining i lanes) ∧ (m.retraining = true → trained (.midRetrain i lanes)) ∧
       (m.retraining = false → exec (.midRetrain i lanes) s = .next s)) ∧
     (m.lanes ≠ 0#16 → m.retraining = false → m.waiting = [] → ∀ (h : BitVec 64) (rest : List Byte),
       let good := crc64 (leBytes 8 h.toNat ++ rest.take 128) = word (leNat (rest.drop 128))
       let type := fld h 63 60
       let ack := h.extractLsb' 36 12
       let n := (ack - m.acked).toNat
       let left := m.replay.drop n
       let credited (m : MidLink) : MidLink :=
         { m with commandCredits := m.commandCredits + fld h 23 16, dataCredits := m.dataCredits + fld h 15 8 }
       let took (m : MidLink) : MidLink :=
         { m with
           expect := m.expect + 1#12, nak := false, replays := 0
           owedCommands := m.owedCommands + (if type = 1 then 8 else if type = 2 then 0 else 4)
           owedData := m.owedData + (if type = 1 then 0 else if type = 2 then 2 else 1) }
       (¬good → ∃ out : MidFrame,
         fld out.header 63 60 = 0 ∧ out.header.getLsbD 35 = true ∧ out.header.extractLsb' 36 12 = m.expect - 1#12 ∧
         out.header.extractLsb' 48 12 = m.next ∧ out.payload.length = 128 ∧ crc64 (leBytes 8 out.header.toNat ++ out.payload) = out.crc ∧
         exec (.midFrame i h rest) s = .next (goTo fun m =>
           { m with
             nak := true, replays := m.replays + 1, retraining := decide (8 ≤ m.replays + 1), sent := m.sent ++ [out]
             owedCommands := m.owedCommands - 255, owedData := m.owedData - 255 })) ∧
       (good → 4 ≤ type → exec (.midFrame i h rest) s = .next s) ∧
       (good → type < 4 → n ≤ m.replay.length →
         let acked (m : MidLink) : MidLink :=
           credited { m with acked := ack, replay := left, resends := if n = 0 then m.resends else 0, resend := h.getLsbD 35 }
         let again := h.getLsbD 35 = true ∧ left ≠ []
         let heard (m : MidLink) : MidLink :=
           let y := acked m
           { y with sent := y.sent ++ left, resends := y.resends + 1, retraining := decide (8 ≤ y.resends + 1) }
         let inOrder := type ≠ 0 ∧ h.extractLsb' 48 12 = m.expect
         (inOrder → ¬again → exec (.midFrame i h rest) s = .next (goTo fun m => took (acked m))) ∧
         (¬inOrder → ¬again → exec (.midFrame i h rest) s = .next (goTo acked)) ∧
         (inOrder → again → exec (.midFrame i h rest) s = .next (goTo fun m => took (heard m))) ∧
         (¬inOrder → again → exec (.midFrame i h rest) s = .next (goTo heard))) ∧
       (good → type < 4 → m.replay.length < n → Answers (exec (.midFrame i h rest) s) fun t =>
         (t.isle i).mid.acked = m.acked ∧ (t.isle i).mid.replay = m.replay))) ∧
  (∀ (s : State) (i : IsleId) (tag : BitVec 10) (addr : BitVec 37), s.midRuns i = true →
     let m := (s.isle i).mid
     let d := 0x10000000000 + i.val * 2 ^ 37 + addr.toNat
     let mid (f : Map MidRequest → Map MidRequest) : State :=
       s.updIsle i fun y => { y with mid := { y.mid with outstanding := f y.mid.outstanding } }
     let links (t : State) : Prop := t.isle i = { s.isle i with mid := (t.isle i).mid } ∧ ∀ j, j ≠ i → t.isle j = s.isle j
     let asked (n : Nat) (rd : Bool) (bs : List Byte) (frames : Nat) (t : State) : Prop :=
       mapFind tag.toNat (t.isle i).mid.outstanding = some { read := rd, addr := addr.toNat, bytes := n, data := bs } ∧
       (t.isle i).mid.replay.length = m.replay.length + frames ∧ (t.isle i).mid.sent.length = m.sent.length + frames ∧
       (∃ new, (t.isle i).mid.replay = m.replay ++ new ∧
         ∀ f ∈ new, f.payload.length = 128 ∧ crc64 (leBytes 8 f.header.toNat ++ f.payload) = f.crc) ∧ links t
     let read (n : Nat) (bs : List Byte) (t : State) : Prop := t = { s with isles := t.isles } ∧ asked n true bs 1 t
     let wrote (n frames : Nat) (t : State) : Prop :=
       t = { s with mem := t.mem, marks := t.marks, isles := t.isles } ∧ asked n false [] frames t ∧
       ∀ b, b ∈ t.marks ↔ b ∈ s.marks ∧ ¬(d ≤ b * 64 ∧ b * 64 + 64 ≤ d + n)
     (addr.toNat % 64 = 0 → m.waiting = [] → m.replay.length + 2 ≤ 64 →
       Answers (exec (.read64 i tag addr) s) (read 64 (if s.marked d 64 then [] else readBytes s.mem d 64)) ∧
       (addr.toNat + 128 ≤ 2 ^ 37 →
         Answers (exec (.read128 i tag addr) s) (read 128 (if s.marked d 128 then [] else readBytes s.mem d 128))) ∧
       (∀ data : List Byte, data.length = 64 →
         Answers (exec (.write64 i tag addr data) s) (fun t => wrote 64 1 t ∧ Written s.mem t.mem d data) ∧
         Answers (exec (.writeMask64 i tag addr (BitVec.allOnes 64) data) s) (fun t => wrote 64 1 t ∧ Written s.mem t.mem d data) ∧
         ∀ mask : BitVec 64, mask ≠ BitVec.allOnes 64 → s.marked d 64 = false → Answers (exec (.writeMask64 i tag addr mask data) s) fun t =>
           t = { s with mem := t.mem, isles := t.isles } ∧ asked 64 false [] 1 t ∧ SameOutside s.mem t.mem d 64 ∧
           ∀ j, j < 64 → byteAt t.mem (d + j) = if mask.getLsbD j then data.getD j 0#8 else byteAt s.mem (d + j)) ∧
       (∀ data : List Byte, data.length = 128 → addr.toNat + 128 ≤ 2 ^ 37 →
         Answers (exec (.write128 i tag addr data) s) (fun t => wrote 128 2 t ∧ Written s.mem t.mem d data))) ∧
     (∀ r, mapFind tag.toNat m.outstanding = some r →
       let a := 0x10000000000 + i.val * 2 ^ 37 + r.addr
       let u := mid (mapErase tag.toNat)
       let v := if r.read then u.updIsle i fun y => { y with mid := { y.mid with returned := mapSet tag.toNat r.data y.mid.returned } } else u
       (r.read = true → r.data = [] → exec (.response i tag .clean) s = exec (.response i tag .uncorrectable) s) ∧
       (r.read = false ∨ r.data ≠ [] →
         exec (.response i tag .clean) s = .next v ∧
         Answers (exec (.response i tag .corrected) s)
           (OnlyReports (v.updIsle i fun y => { y with mid := { y.mid with corrected := y.mid.corrected + 1 } }))) ∧
       Answers (exec (.response i tag .uncorrectable) s) fun t =>
         OnlyReports { u with marks := t.marks } t ∧ t.alarmed 8#16 (memSource a) ∧ a / 64 ∈ t.marks ∧
         (r.bytes = 128 → (a + 64) / 64 ∈ t.marks) ∧ ∀ b ∈ s.marks, b ∈ t.marks))

/-! ### The Harbour Mailbox Protocol and the heads of queues -/

/-- CMD and DOORBELL (R326, R329, R331): the entries of a frame from the next number expected on are stored while the ring has room and
acknowledged, which accepts the frame; a frame that has been received already is acknowledged again and a gap is answered with NAK, and
neither stores; a doorbell commits up to TAIL, and above the next number expected it is answered with NAK. A malformed frame is only counted
(R327). ACK, NAK, HELLO and RETRANSMIT (R326, R330, R333): an ACK releases the completions, or the events, below it; a NAK does so and has
the rest sent again; HELLO names where completions and events go and is answered with the state of every sequence space; an entry that stays
unacknowledged is sent again when its own interval has passed, and that interval doubles up to 6.4 ms. -/
def Obligations.FramesAreStoredAndAcknowledged : Prop :=
  (∀ (s : State) (f : HmpFrame) (q : QueueId), f.queue = q.val →
     let x := s.queue q
     let n := f.count
     let k := (x.expect - f.seq).toNat
     let slot (j : Nat) : Nat := (x.expect + BitVec.ofNat 32 j).toNat % 256
     let answer (type : BitVec 8) (ack : BitVec 32) : OutFrame :=
       { dest := some f.source, type := type, queue := BitVec.ofNat 4 q.val, seq := 0#32, ack := ack, tide := s.tide, entries := [] }
     let kept (t : State) : Prop := (t.queue q).expect = x.expect ∧ (t.queue q).ring = x.ring
     (Takes s 1 f → f.db = false → x.compWaiting = [] → Answers (exec (.cmd f) s) fun t =>
       (t.queue q).committed = x.committed ∧ (t.queue q).started = x.started ∧ (∀ p, p ≠ q → t.queue p = s.queue p) ∧
       (seqLt x.expect (f.seq + BitVec.ofNat 32 n) = true → seqLt x.expect f.seq = false → k < n →
         (∀ j, j < n - k → mapFind (slot j) x.ring = none) →
           (t.queue q).expect = x.expect + BitVec.ofNat 32 (n - k) ∧
           (∀ j, j < n - k → mapFind (slot j) (t.queue q).ring = some (payloadEntry f.payload (k + j))) ∧
           (∀ m, (∀ j, j < n - k → m ≠ slot j) → mapFind m (t.queue q).ring = mapFind m x.ring) ∧
           t.hb.lastCmd = some f.source ∧ t.hb.sent = s.hb.sent ++ [answer 5#8 (x.expect + BitVec.ofNat 32 (n - k))]) ∧
       (seqLt x.expect (f.seq + BitVec.ofNat 32 n) = false →
         kept t ∧ t.hb.lastCmd = s.hb.lastCmd ∧ t.hb.sent = s.hb.sent ++ [answer 5#8 x.expect]) ∧
       (seqLt x.expect (f.seq + BitVec.ofNat 32 n) = true → seqLt x.expect f.seq = true →
         kept t ∧ t.hb.lastCmd = s.hb.lastCmd ∧ t.hb.sent = s.hb.sent ++ [answer 6#8 x.expect])) ∧
     (∀ i : Instr, (i = .cmd f ∧ Takes s 1 f ∧ f.db = true ∧ seqLt x.expect (f.seq + BitVec.ofNat 32 n) = false) ∨
         (i = .doorbell f ∧ Takes s 2 f) →
       Answers (exec i s) fun t =>
         (seqLt x.expect f.tail = true → kept t ∧ (t.queue q).committed = x.committed ∧ answer 6#8 x.expect ∈ t.hb.sent) ∧
         (seqLt x.expect f.tail = false → seqLt x.committed f.tail = true → (t.queue q).committed = f.tail) ∧
         (seqLt x.expect f.tail = false → seqLt x.committed f.tail = false → kept t ∧ (t.queue q).committed = x.committed)) ∧
     (∀ i ∈ [Instr.cmd f, .doorbell f, .ack f, .nak f, .hello f], s.harbourRuns = true → s.hasIp f.eth = true → f.checksumOk = true →
       hmpMalformed f = true → Answers (exec i s) fun t => t.hb.discarded = satInc s.hb.discarded ∧ t.hb.queues = s.hb.queues ∧
         t.mem = s.mem ∧ t.cores = s.cores)) ∧
  (∀ (s : State) (f : HmpFrame),
     (∀ q : QueueId, f.queue = q.val →
       let x := s.queue q
       let y : Queue :=
         if seqLt x.compNext f.ack then x
         else { x with unacked := x.unacked.filter fun z => !seqLt z.seq f.ack }
       (Takes s 5 f → x.compWaiting = [] → Answers (exec (.ack f) s) fun t => t.queue q = y ∧ SentSince s t 3#8 [] ∧ ∀ p, p ≠ q → t.queue p = s.queue p) ∧
       (Takes s 6 f → x.compWaiting = [] → Answers (exec (.nak f) s) fun t =>
         t.queue q = y ∧ SentSince s t 3#8 (y.unacked.map Unacked.entry) ∧ ∀ p, p ≠ q → t.queue p = s.queue p)) ∧
     (f.queue = 15 → seqLt s.hb.events.next f.ack = false → s.hb.events.waiting = [] → (∀ a ∈ s.rep.alarms, a.pendingRepeat = false) →
       let left := s.hb.events.unacked.filter fun z => !seqLt z.seq f.ack
       (Takes s 5 f → Answers (exec (.ack f) s) fun t => t.hb.events.unacked = left ∧ t.hb.queues = s.hb.queues) ∧
       (Takes s 6 f → Answers (exec (.nak f) s) fun t =>
         t.hb.events.unacked = left ∧ SentSince s t 4#8 (left.map Unacked.entry) ∧ t.hb.queues = s.hb.queues)) ∧
     (Takes s 7 f → Answers (exec (.hello f) s) fun t =>
       t.hb.hello = some f.source ∧ t.hostDest = some f.source ∧ t.hb.queues = s.hb.queues ∧ t.hb.events = s.hb.events ∧
       (let r : OutFrame :=
         { dest := some f.source, type := 8#8, queue := 0#4, seq := 0#32, ack := 0#32, tide := s.tide, entries := s.helloEntries }
        t.hb.sent = s.hb.sent ++ [r])) ∧
     (s.harbourRuns = true →
       let due (z : Unacked) : Bool := s.passedUs z.sentAt z.interval
       let timed (z : Unacked) : Unacked := if due z then { z with sentAt := s.tide, interval := min 6400 (2 * z.interval) } else z
       (∀ q : QueueId,
         let x := s.queue q
         let r := exec (.retransmit (BitVec.ofNat 4 q.val)) s
         ((∀ z ∈ x.unacked, due z = false) → r = .next s) ∧
         Answers r fun t => SentSince s t 3#8 ((x.unacked.filter due).map Unacked.entry) ∧
           t.queue q = { x with unacked := x.unacked.map timed } ∧ ∀ p, p ≠ q → t.queue p = s.queue p) ∧
       (let e := s.hb.events
        Answers (exec (.retransmit 0xf#4) s) fun t =>
          SentSince s t 4#8 ((e.unacked.filter due).map Unacked.entry) ∧ t.hb.queues = s.hb.queues ∧
          t.hb.events = { e with unacked := e.unacked.map timed })))

/-- The head of a queue (R12, R335, R338, R359, R447): a command acts only when its own opcode stands at the head of its queue; an entry with a
reserved field completes with RESERVED_NONZERO, and under Clamp all but a few complete with BUSY. Completing the head frees its place,
posts a completion with the queue's next number and its results, and touches nothing else of the device. -/
def Obligations.HeadsCompleteInOrder : Prop :=
  ∀ (s : State) (q : QueueId) (e : Entry), s.head q = some e → s.harbourRuns = true →
    (∀ (img : ImageHeader) (body : BitVec 384) (v : Signatures) (i : Instr) (op : Nat),
      (i, op) ∈ [(.graphStore q img body v, 0x01), (.graphDrop q, 0x02), (.graphLaunch q, 0x03), (.dispatch q, 0x03), (.paramPatch q, 0x04),
        (.fenceWait q, 0x09), (.fenceReset q, 0x0a), (.ctxOpen q, 0x10), (.ctxConfig q, 0x11), (.ctxReset q, 0x12), (.ctxClose q, 0x13),
        (.map q, 0x14), (.unmap q, 0x15), (.regionDrop q, 0x16), (.retire q, 0x18), (.copy q, 0x19), (.query q, 0x20), (.logRead q, 0x21),
        (.traceRead q, 0x22), (.partSet q, 0x28), (.regSet q, 0x29), (.powerTol q, 0x2a), (.powerCap q, 0x2b)] →
      (e.op ≠ op → exec i s = .next s) ∧
      (e.op = op → s.lh.clamp = 0 → e.reserved = true →
        exec i s = .next ((if op ∈ [0x20, 0x21, 0x22, 0x2a, 0x2b] then s else s.wake).complete q 0x01 0#64 0#64)) ∧
      (e.op = op → s.lh.clamp ≠ 0 → op ∉ [0x03, 0x20, 0x2a, 0x2b] → exec i s = .next (s.complete q 0x0c 0#64 0#64))) ∧
    (∀ (st : Nat) (r0 r1 : Word),
      let x := s.queue q
      let t := s.complete q st r0 r1
      let done := completion q e.tag e.op st x.started r0 r1 0#64 s.tide s.tide 0#64
      (x.compNext, done) ∈ (t.queue q).owed ∧
      (∃ f ∈ t.hb.sent, f.type = 3#8 ∧ f.queue = BitVec.ofNat 4 q.val ∧ f.seq = x.compNext ∧ f.entries = [done]) ∧
      mapFind (x.started.toNat % 256) (t.queue q).ring = none ∧ (t.queue q).running = none ∧ (t.queue q).committed = x.committed ∧
      (∀ p, p ≠ q → t.queue p = s.queue p) ∧
      t = { s with rep := t.rep, hb := { s.hb with queues := t.hb.queues, sent := t.hb.sent } })

/-- FENCE_SIGNAL, FENCE_WAIT, FENCE_TIMEOUT and FENCE_RESET (R334, R352-R354, R366): a signal waits for the queue's launches, never lowers
its counter, and carries their failure in ERR; a wait begins at the head of its queue, which frees its slot, and ends with its counter's
VALUE; one whose counter has ERR or does not come in time halts its queue; a reset sets VALUE and clears ERR. QUEUE_CTL (R354, R367): a QUEUE above 5 or the command's own, or a bad ACTION, gives BAD_VALUE; a queue that is not halted is
left as it is; RESUME lets a halted one go on, and FLUSH first ends its committed entries with FLUSHED and counts them. -/
def Obligations.FencesAndQueueControl : Prop :=
  (∀ (s : State) (q : QueueId) (e : Entry),
     let u := s.wake
     let x := s.counter e.fence
     let v := e.fenceV
     let out := fld e[3] 31 0
     let begun : State := u.updQueue q fun y =>
       { y.free y.started with
         started := y.started + 1#32, running := some { seq := y.started, entry := e, start := s.tide, count := 0 } }
     let ends (st : Nat) (halt : Bool) (r : Running) (t : State) : State :=
       ((t.updQueue q fun y => { y with halted := y.halted || halt, running := none }).postCompletion q
         (completion q e.tag e.op st r.seq (if st = 0x0c then 0#64 else x.word) 0#64 0#64 r.start s.tide 0#64)).step1 q
     let first : Running := { seq := (s.queue q).started, entry := e, start := s.tide, count := 0 }
     (Heads s q 0x08 e →
       (s.launchesOf q = true → exec (.fenceSignal q) s = .next s) ∧
       (s.launchesOf q = false → exec (.fenceSignal q) s = .next
         (((u.setCounter e.fence { err := x.err || (s.queue q).failedSince, value := if x.value < v then v else x.value }).updQueue q
           fun y => { y with failedSince := false }).complete q 0 x.word 0#64))) ∧
     (Heads s q 0x09 e →
       (x.err = true → exec (.fenceWait q) s = .next (ends 7 true first begun)) ∧
       (x.err = false → v ≤ x.value → exec (.fenceWait q) s = .next (ends 0 false first begun)) ∧
       (x.err = false → x.value < v →
         (out = 0 → exec (.fenceWait q) s = .next (ends 6 true first begun)) ∧
         (out ≠ 0 → exec (.fenceWait q) s = .next begun))) ∧
     (∀ r : Running, (s.queue q).running = some r → r.entry = e → e.op = 0x09 → s.harbourRuns = true →
       (s.lh.clamp ≠ 0 → exec (.fenceWait q) s = .next (ends 0x0c false r s) ∧ exec (.fenceTimeout q) s = .next s) ∧
       (s.lh.clamp = 0 →
         (x.err = true → exec (.fenceWait q) s = .next (ends 7 true r s)) ∧
         (x.err = false → v ≤ x.value → exec (.fenceWait q) s = .next (ends 0 false r s)) ∧
         (x.err = false → x.value < v → out ≠ 0 → exec (.fenceWait q) s = .next s ∧
           (s.passedUs r.start out = true → exec (.fenceTimeout q) s = .next (ends 6 true r s)) ∧
           (s.passedUs r.start out = false → exec (.fenceTimeout q) s = .next s)))) ∧
     (Heads s q 0x0a e →
       exec (.fenceReset q) s = .next ((u.setCounter e.fence { err := false, value := v }).complete q 0 x.word 0#64))) ∧
  (∀ (s : State) (q : QueueId) (e : Entry), Heads s q 0x0b e →
     let u := s.wake
     let target := fld e[1] 3 0
     let action := fld e[1] 9 8
     ((6 ≤ target ∨ target = q.val) → action = 1 → exec (.queueCtlResume q) s = .next (u.complete q 0x0d 0#64 0#64)) ∧
     ((6 ≤ target ∨ target = q.val) → action = 2 → exec (.queueCtlFlush q) s = .next (u.complete q 0x0d 0#64 0#64)) ∧
     (action = 0 ∨ action = 3 → exec (.queueCtlResume q) s = .next (u.complete q 0x0d 0#64 0#64)) ∧
     (∀ t : QueueId, target = t.val → t ≠ q →
       ((s.queue t).halted = false →
         (action = 1 → exec (.queueCtlResume q) s = .next (u.complete q 0 0#64 0#64)) ∧
         (action = 2 → exec (.queueCtlFlush q) s = .next (u.complete q 0 0#64 0#64))) ∧
       ((s.queue t).halted = true →
         (action = 1 → exec (.queueCtlResume q) s = .next (((u.unhalt t).step1 t).complete q 0 1#64 0#64)) ∧
         (action = 2 →
           let v := u.flushQueue t
           exec (.queueCtlFlush q) s = .next (((v.1.unhalt t).step1 t).complete q 0 (word (v.2 * 2 ^ 32 + 1)) 0#64) ∧
           ∀ i, i < ((s.queue t).committed - (s.queue t).started).toNat →
             mapFind (((s.queue t).started + BitVec.ofNat 32 i).toNat % 256) (v.1.queue t).ring = none))))

/-! ### Contexts, mappings, faults and frames -/

/-- CTX_OPEN, CTX_CONFIG, CTX_RESET, CTX_CLOSE and EPOCH_RETIRE (R312, R369-R372): the checks of CTX_OPEN in order, and its empty root table; a fault
timeout of 1 to 600,000 ms; a reset fails every launch of the context and completes once the context is quiet; a close then unmaps
everything; with the last request of its epoch an UNMAP gives back the frames that are mapped no more, zeroed, and completes, and a
close empties the context's graph slots and ends it. -/
def Obligations.ContextsOpenResetAndClose : Prop :=
  ∀ (s : State) (q : QueueId) (e : Entry),
    let u := s.wake
    let c := e.ctx
    (Heads s q 0x10 e →
      let part := fld e[1] 18 16
      let first := fld e[2] 41 16
      let last := fld e[3] 41 16
      let fails (st : Nat) : Prop := exec (.ctxOpen q) s = .next (u.complete q st 0#64 0#64)
      let value := last < first ∨ s.partIsles part = []
      let taken := c = 0 ∨ s.ctx c ≠ none
      let busy := s.framesTagged first last (fun t => t.ctx = 0) = true ∨ s.framesPooled first last = true
      (value → fails 0x0d) ∧ (¬value → taken → fails 0x0e) ∧
      (¬value → ¬taken → s.framesInPart part first last = false → fails 0x11) ∧
      (¬value → ¬taken → s.framesInPart part first last = true → busy → fails 0x0c) ∧
      (¬value → ¬taken → s.framesInPart part first last = true → ¬busy → ∃ v : State,
        exec (.ctxOpen q) s = .next (v.complete q 0 (word (last + 1 - first)) 0#64) ∧
        Written s.mem v.mem (first * 65536) (List.replicate 2048 0#8) ∧
        (let x : Ctx :=
          { part := part, poolFirst := first, poolLast := last, tables := [{ dpa := first * 65536, size := 2048 }], epoch := 0#16
            faultTimeout := 10000, regions := [], unmapping := [] }
         v = { u with mem := v.mem, marks := v.marks, hb := { u.hb with ctxs := mapSet c x u.hb.ctxs } }))) ∧
    (Heads s q 0x11 e →
      let t := fld e[2] 19 0
      (t = 0 ∨ 600000 < t → exec (.ctxConfig q) s = .next (u.complete q 0x0d 0#64 0#64)) ∧
      (1 ≤ t → t ≤ 600000 → s.ctx c = none → exec (.ctxConfig q) s = .next (u.complete q 0x0e 0#64 0#64)) ∧
      (∀ x, 1 ≤ t → t ≤ 600000 → s.ctx c = some x →
        exec (.ctxConfig q) s = .next ((u.setCtx c { x with faultTimeout := t }).complete q 0 0#64 0#64))) ∧
    (∀ (i : Instr) (op : Nat), (i, op) ∈ [(.ctxReset q, 0x12), (.ctxClose q, 0x13)] → Heads s q op e →
      (s.ctx c = none → exec i s = .next (u.complete q 0x0e 0#64 0#64)) ∧
      (s.ctx c ≠ none →
        let r := u.resetContext c
        let w := r.1.startHead q r.2
        (∀ k l, s.launch k = some l → l.ctx = c → ∃ l', r.1.launch k = some l' ∧ l'.failure.isSome = true) ∧
        (r.1.head q = some e → w.contextQuiet c = false → exec i s = .next w) ∧
        (r.1.head q = some e → w.contextQuiet c = true → op = 0x12 → exec i s = .next (w.finishRunning q 0 (word r.2) 0#64)) ∧
        (∀ x, r.1.head q = some e → w.contextQuiet c = true → op = 0x13 → w.ctx c = some x → x.unmapping = [] →
          exec i s = .next (w.unmapRange q c x 0 vaTop false false true true)))) ∧
    (∀ (n : BitVec 12) (x : Ctx) (y : Unmapping) (ys : List Unmapping), s.ctx n.toNat = some x → x.unmapping = y :: ys →
      s.harbourRuns = true →
        let p : QueueId := Fin.ofNat 6 y.queue
        (s.epochBusy n.toNat y.epoch = true → exec (.epochRetire n) s = .next s) ∧
        (s.epochBusy n.toNat y.epoch = false → y.closing = false → ∃ v : State,
          exec (.epochRetire n) s = .next (v.finishRunning p 0 (word y.cleared) 0#64) ∧
          v.ctx n.toNat = some { x with unmapping := ys } ∧ v.cores = s.cores ∧ v.hb.queues = s.hb.queues ∧
          ∀ f, s.frameTag f = { retired := false, ctx := n.toNat } → n ≠ 0#12 → holdsFrame y.ranges f = true →
            holdsFrame (s.mappedOf x) f = false →
              v.frameTag f = { retired := false, ctx := 0 } ∧
              ∀ a, f * 65536 ≤ a → a < f * 65536 + 65536 → byteAt v.mem a = unlistedByte) ∧
        (s.epochBusy n.toNat y.epoch = false → y.closing = true → ∃ (v : State) (k : Nat),
          exec (.epochRetire n) s = .next (v.finishRunning p 0 (word k) 0#64) ∧
          v.ctx n.toNat = none ∧ (∀ j g, v.graph j = some g → g.ctx ≠ n.toNat) ∧ v.hb.queues = s.hb.queues))

/-- MAP, UNMAP and REGION_DROP (R310, R312, R373-R375): the statuses of MAP that need no table; MAP of one 64 KiB page below tables that exist
writes its leaf and nothing else, tags its frame, and with HOST names a region and its key; UNMAP of a range advances the context's
epoch and waits, and one of no bytes succeeds (R16); a dropped region's generation advances below 0xff, and at 0xff its index is retired. -/
def Obligations.MappingsAndRegions : Prop :=
  ∀ (s : State) (q : QueueId) (e : Entry),
    let u := s.wake
    let c := e.ctx
    let va := fld e[2] 55 0
    let len := fld e[3] 42 0
    (Heads s q 0x14 e →
      let f := mapFields e[1]
      let dpa := fld e[4] 41 0
      let fails (st : Nat) : Prop := exec (.map q) s = .next (u.complete q st 0#64 0#64)
      let value := f.psize = 3 ∨ f.wlevel = 3#2 ∨ (f.host = true ∧ f.reserve = true) ∨
        (f.reserve = true ∧ (dpa ≠ 0 ∨ f.r = true ∨ f.w = true ∨ f.c = true))
      (value → fails 0x0d) ∧ (¬value → s.ctx c = none → fails 0x0e) ∧ (¬value → s.ctx c ≠ none → 2 ^ 42 < len → fails 0x02) ∧
      (∀ x : Ctx,
        let a0 := x.root + 8 * levelIndex va 0
        let a1 := nextTable (readWord s.mem a0) + 8 * levelIndex va 1
        let a2 := nextTable (readWord s.mem a1) + 8 * levelIndex va 2
        let a3 := nextTable (readWord s.mem a2) + 8 * levelIndex va 3
        let a4 := nextTable (readWord s.mem a3) + 8 * levelIndex va 4
        ¬value → f.reserve = false → f.psize = 0 → len = 65536 → va % 65536 = 0 → dpa % 65536 = 0 → va + len ≤ vaTop →
        tierOf dpa = tierOf (dpa + 65535) → dpa + 65535 < dpaEnd → s.ctx c = some x →
        (∀ a ∈ [a0, a1, a2, a3], isTable (readWord s.mem a) = true) → isTable (readWord s.mem a4) = false →
        ((s.entriesOf x va (va + 65536)).any fun y => isLeaf y.2.2.2) = false →
        s.framesTagged (frameOf dpa) (frameOf dpa) (fun t => t.ctx = 0 || t.ctx = c) = false →
        s.framesPooled (frameOf dpa) (frameOf dpa) = false →
        (nearOrMid dpa = true → s.framesInPart x.part (frameOf dpa) (frameOf dpa) = true) →
          let done (v : State) : Prop :=
            Written s.mem v.mem a4 (leBytes 8 (leafWord f (frameOf dpa)).toNat) ∧
            v.frameTag (frameOf dpa) = { retired := false, ctx := c } ∧ (∀ g, g ≠ frameOf dpa → v.frameTag g = s.frameTag g) ∧
            v.cores = s.cores ∧ v.marks = s.marks
          (f.host = false → ∃ v, exec (.map q) s = .next (v.complete q 0 0#64 0#64) ∧ done v ∧ v.ctx c = some x) ∧
          (∀ r, f.host = true → s.freeRegion c x = some r → ∃ v,
            exec (.map q) s = .next (v.complete q 0 (word (r * 2 ^ 48)) (word (c * 2 ^ 20 + r * 2 ^ 8 + s.generation c r))) ∧
            done v ∧ v.ctx c = some { x with regions := mapSet r { base := va, len := 65536 } x.regions }))) ∧
    (Heads s q 0x15 e →
      (s.ctx c = none → exec (.unmap q) s = .next (u.complete q 0x0e 0#64 0#64)) ∧
      (∀ x, s.ctx c = some x →
        let es := s.entriesOf x va (va + len)
        let partly := ∃ y ∈ es, isLeaf y.2.2.2 = true ∧ (y.2.1 < va ∨ va + len < y.2.1 + y.2.2.1)
        (2 ^ 42 < len → exec (.unmap q) s = .next (u.complete q 0x02 0#64 0#64)) ∧
        (len ≤ 2 ^ 42 → va % 65536 ≠ 0 ∨ len % 65536 ≠ 0 ∨ (0 < len ∧ partly) →
          exec (.unmap q) s = .next (u.complete q 0x0f 0#64 0#64)) ∧
        (va % 65536 = 0 → len = 0 → exec (.unmap q) s = .next (u.complete q 0 0#64 0#64)) ∧
        (len ≤ 2 ^ 42 → va % 65536 = 0 → len % 65536 = 0 → 0 < len → ¬partly →
          (x.unmapping ≠ [] → exec (.unmap q) s = .next u) ∧
          (x.unmapping = [] → (∀ i, (s.isle i).windows = []) →
            let w := u.unmapRange q c x va len (e[1].getLsbD 17) (e[1].getLsbD 16) (e[1].getLsbD 18) false
            exec (.unmap q) s = .next (w.startHead q 0) ∧
            ∃ y : Unmapping, w.ctx c = some { x with epoch := x.epoch + 1#16, unmapping := [y] } ∧ y.queue = q.val ∧
              y.epoch = x.epoch ∧ y.closing = false ∧ y.cleared = (es.filter fun z => isLeaf z.2.2.2).length ∧
              (e[1].getLsbD 18 = false → y.ranges = []))))) ∧
    (Heads s q 0x16 e →
      let r := fld e[1] 43 32
      let g := s.generation c r
      (s.ctx c = none → exec (.regionDrop q) s = .next (u.complete q 0x0e 0#64 0#64)) ∧
      (∀ x, s.ctx c = some x →
        (mapFind r x.regions = none → exec (.regionDrop q) s = .next (u.complete q 0x09 0#64 0#64)) ∧
        (mapFind r x.regions ≠ none → ∃ v : State,
          exec (.regionDrop q) s = .next (v.complete q 0 (word (if g < 255 then g + 1 else g)) 0#64) ∧
          v.ctx c = some { x with regions := mapErase r x.regions } ∧
          (g < 255 → v.generation c r = g + 1 ∧ v.hb.regionRetired = s.hb.regionRetired) ∧
          (255 ≤ g → v.generation c r = g ∧ c * 4096 + r ∈ v.hb.regionRetired) ∧ v.mem = s.mem)))

/-- FAULT_RESOLVE and FAULT_TIMEOUT (R308, R376): no record of that ID and context gives NO_RECORD; REPLAY lets the waiting cores go on;
FAIL, and a record's timeout, fail the waiter's launch; either way the record is free, and the completion counts its waiters (a REPLAY
of a launch's Strait access may open another record). RETIRE and
COPY (R296, R377, R378): RETIRE of a mapped frame gives MAPPED, of a pool frame BUSY, of a retired frame OK, and any other frame is
retired and recorded; COPY moves its bytes within the context and no others, here between one page of each side, and checks the context,
the length and Deep's units first. -/
def Obligations.FaultsFramesAndCopies : Prop :=
  (∀ (s : State) (q : QueueId) (e : Entry),
     let u := s.wake
     let id := fld e[1] 23 16
     let failed (w : Waiter) (v : State) : Prop :=
       ∀ k l, (if w.cls = 4 then k = w.core ∧ s.launch k = some l else s.launchOfCore w.core = some (k, l)) →
         ∃ l', v.launch k = some l' ∧ l'.failure.isSome = true
     (∀ (i : Instr) (fail : Bool), (i, fail) ∈ [(.faultResolveReplay q, false), (.faultResolveFail q, true)] → Heads s q 0x17 e →
       e[1].getLsbD 24 = fail →
         (s.ctx e.ctx = none → exec i s = .next (u.complete q 0x0e 0#64 0#64)) ∧
         (s.ctx e.ctx ≠ none → (∀ r, mapFind id s.hb.faults = some r → r.ctx ≠ e.ctx) → exec i s = .next (u.complete q 0x16 0#64 0#64)) ∧
         (∀ r, s.ctx e.ctx ≠ none → mapFind id s.hb.faults = some r → r.ctx = e.ctx → s.hb.faultsWaiting = [] → ∃ v : State,
           exec i s = .next (v.complete q 0 (word r.waiters.length) 0#64) ∧
           (fail = true ∨ (∀ w ∈ r.waiters, w.cls ≠ 4) → v.hb.faults = mapErase id s.hb.faults) ∧
           (fail = false → (∀ w ∈ r.waiters, w.cls ≠ 4) → v.mem = s.mem ∧ ∀ w ∈ r.waiters, w.cls = 0 → (s.sc (coreOf w.core)).run = .faultWait →
             (v.sc (coreOf w.core)).run = .running) ∧
           (∀ w, fail = true → r.waiters = [w] → failed w v))) ∧
     (∀ (n : BitVec 8) (r : FaultRec), mapFind n.toNat s.hb.faults = some r → s.harbourRuns = true →
       (s.passedUs r.firstTide (1000 * r.timeout) = false → exec (.faultTimeout n) s = .next s) ∧
       (s.passedUs r.firstTide (1000 * r.timeout) = true → s.hb.faultsWaiting = [] → Answers (exec (.faultTimeout n) s) fun v =>
         v.hb.faults = mapErase n.toNat s.hb.faults ∧ v.hb.queues = s.hb.queues ∧ ∀ w, r.waiters = [w] → failed w v))) ∧
  (∀ (s : State) (q : QueueId) (e : Entry),
     let u := s.wake
     (Heads s q 0x18 e →
       let f := fld e[2] 41 16
       let mapped := ∃ x ∈ s.hb.ctxs, holdsFrame (s.mappedOf x.2) f = true
       (mapped → exec (.retire q) s = .next (u.complete q 0x10 0#64 0#64)) ∧
       (¬mapped → s.framesPooled f f = true → exec (.retire q) s = .next (u.complete q 0x0c 0#64 0#64)) ∧
       (¬mapped → s.framesPooled f f = false → (s.frameTag f).retired = true → exec (.retire q) s = .next (u.complete q 0 0#64 0#64)) ∧
       (¬mapped → s.framesPooled f f = false → (s.frameTag f).retired = false → ∃ v : State,
         exec (.retire q) s = .next (v.complete q 0 1#64 0#64) ∧ (v.frameTag f).retired = true ∧ f ∈ v.flash.retired ∧
         (∀ g, g ≠ f → v.frameTag g = s.frameTag g) ∧
         v = { u with frames := v.frames, flash := { u.flash with retired := v.flash.retired } })) ∧
     (Heads s q 0x19 e →
       let c := e.ctx
       let src := e[2].toNat
       let dst := e[3].toNat
       let len := fld e[4] 36 0
       (s.ctx c = none → exec (.copy q) s = .next (u.complete q 0x0e 0#64 0#64)) ∧
       (s.ctx c ≠ none → 2 ^ 36 < len → exec (.copy q) s = .next (u.complete q 0x02 0#64 0#64)) ∧
       (s.ctx c ≠ none → len ≤ 2 ^ 36 → s.deepBroken c dst len = true → exec (.copy q) s = .next (u.complete q 0x18 0#64 0#64)) ∧
       (∀ d1 d2 leaf1 leaf2, s.ctx c ≠ none → 0 < len → src % 65536 + len ≤ 65536 → dst % 65536 + len ≤ 65536 →
         src + len ≤ dst ∨ dst + len ≤ src → s.deepBroken c dst len = false → s.translate c src .read 0#2 = .ok d1 leaf1 →
         s.translate c dst .write 0#2 true = .ok d2 leaf2 → PlainMemory s c d1 len → PlainMemory s c d2 len → ∃ v : State,
           exec (.copy q) s = .next (v.complete q 0 (word len) 0#64) ∧ Written s.mem v.mem d2 (readBytes s.mem d1 len) ∧
           v = u.withMemoryOf v)))

/-- QUERY, LOG_READ, TRACE_READ, PART_SET, REG_SET, POWER_TOL and POWER_CAP (R362, R379-R385, Tables 12.6, 12.8), each with the statuses
in check order and with its completion. QUERY answers the first two words of its class and fills a buffer with the class, here one
within a page; a read of the log or of a trace ring does the same with the records held from FROM on that fit, and answers the next
number and how many from FROM on are gone; a partition's isles or staging change only while no context is open in it, and its regulators
return to their defaults; a bucket's fields keep within their bounds; every tolerance is accepted; DEFAULT restores the profile limit, a
cap below 350 W is refused and one above the limit takes the limit. With LEN 0 no record is read: the next number is then the first one
held (the model's reading, log 210), and the POWER class's draw is a mean of duty windows (log 114). -/
def Obligations.QueriesAndSettings : Prop :=
  ∀ (s : State) (q : QueueId) (e : Entry),
    let u := s.wake
    let c := e.ctx
    let len := fld e[3] 31 0
    let ends (i : Instr) (t : State) (st : Nat) (r0 r1 : Word) : Prop := exec i s = .next (t.complete q st r0 r1)
    let fills (i : Instr) (bs : List Byte) (r0 r1 : Word) : Prop :=
      (len = 0 → ends i s 0 r0 r1) ∧
      (0 < len → (s.ctx c = none → ends i s 0x0e 0#64 0#64) ∧
        (s.ctx c ≠ none → s.buffer c e[2] len = none → ends i s 0x09 0#64 0#64) ∧
        (∀ va, s.ctx c ≠ none → s.buffer c e[2] len = some va →
          (s.presentAll c va len = false → ends i s 0x09 0#64 0#64) ∧
          (∀ d leaf, va % 65536 + len ≤ 65536 → s.walk c va = .ok d leaf → PlainMemory s 0 d len → s.deepRejects d (bs.take len).length = false →
            ∃ v : State, ends i v 0 r0 r1 ∧ Written s.mem v.mem d (bs.take len) ∧ v = s.withMemoryOf v)))
    let records (i : Instr) (size next : Nat) (held : List (Nat × List Word)) : Prop :=
      let start := e[4].toNat
      let rest := held.filter fun r => start ≤ r.1
      let got := rest.take (len / size)
      let upTo := match got.getLast?, rest with
        | some r, _ => r.1 + 1
        | none, r :: _ => r.1
        | none, [] => max start next
      (0x100000 < len → ends i s 0x02 0#64 0#64) ∧
      (len ≤ 0x100000 → fills i (wordBytes (got.flatMap Prod.snd)) (word upTo) (word (min (upTo - start - got.length) 0xffffffff)))
    (Heads s q 0x20 e →
      let cls := fld e[1] 23 16
      (7 ≤ cls → ends (.query q) s 0x0d 0#64 0#64) ∧
      (cls < 7 → 0x10000 < len → ends (.query q) s 0x02 0#64 0#64) ∧
      (∀ ws : List Word, len ≤ 0x10000 → s.query cls = some ws → fills (.query q) (wordBytes ws) (ws.getD 0 0#64) (ws.getD 1 0#64))) ∧
    ((∀ cls, cls < 7 → (s.query cls).map List.length = some ([2, 21, 5, 2, 2, 2, 8].getD cls 0)) ∧
      s.query 0 = some [0x0000_0000_0fff_1fff#64, 0x0014_04b0_9682_0806#64] ∧
      s.query 2 = some ([s.deep.hostWritten, s.deep.mediaWritten, s.deep.wear, s.deep.spare, s.deep.rebuilt].map fun n => word n) ∧
      s.query 4 = some [s.hb.discarded, s.hb.roceNaks] ∧
      (∀ f, s.boot.running = some f → s.query 5 = some [word f.version, word f.svn])) ∧
    (Heads s q 0x21 e → records (.logRead q) 64 s.rep.logNext (s.rep.log.map fun r => (r.seq, r.words))) ∧
    (Heads s q 0x22 e →
      let n := fld e[1] 19 16
      (7 ≤ n → ends (.traceRead q) s 0x0d 0#64 0#64) ∧
      (∀ h : n < 7, let g := s.rep.traces.get ⟨n, h⟩
        records (.traceRead q) 32 g.next (g.entries.map fun x => (x.1, [x.2.1, x.2.2.1, x.2.2.2.1, x.2.2.2.2])))) ∧
    (Heads s q 0x28 e →
      let part (i : Nat) : Nat := fld e[1] (4 * i + 3) (4 * i)
      let code (p : Nat) : Nat := fld e[2] (2 * p + 1) (2 * p)
      let bad := ∃ i, i < 8 ∧ (8 ≤ part i ∨ code i = 3)
      let changes (p : Nat) : Prop :=
        ∃ h : p < 8, (∃ i : Fin 8, (part i.val = p ∧ s.hb.partition.get i ≠ p) ∨ (part i.val ≠ p ∧ s.hb.partition.get i = p)) ∨
          s.hb.staging.get ⟨p, h⟩ ≠ 4 * code p
      (bad → ends (.partSet q) u 0x0d 0#64 0#64) ∧
      (¬bad → (∃ x ∈ s.hb.ctxs, changes x.2.part) → ends (.partSet q) u 0x0c 0#64 0#64) ∧
      (¬bad → (∀ x ∈ s.hb.ctxs, ¬changes x.2.part) → ∃ v : State, ends (.partSet q) v 0 0#64 0#64 ∧
        (∀ i : Fin 8, v.hb.partition.get i = part i.val ∧ v.hb.staging.get i = 4 * code i.val) ∧
        (∀ r, r ∈ v.hb.regulators ↔ r ∈ s.hb.regulators ∧ ¬changes (r.1 / 64)) ∧
        v = { u with hb :=
          { u.hb with partition := v.hb.partition, staging := v.hb.staging, regulators := v.hb.regulators } })) ∧
    (Heads s q 0x29 e →
      let b := fld e[1] 7 4
      let p := fld e[1] 2 0
      let isles := (List.range 8).filter fun i => e[1].getLsbD (16 + i)
      let r : Regulator := { rate := fld e[2] 31 0, burst := fld e[2] 47 32, floor := fld e[3] 31 0 }
      let full := [3500, 256, 256, 230, 40].getD b 0
      let floors := (((List.range 8).filter fun x => x != p).map fun x => (s.bucket x b 8).floor).sum + r.floor
      let bad := 5 ≤ b ∨ (b < 3 ∧ isles = []) ∨ (3 ≤ b ∧ isles ≠ []) ∨ full < r.rate ∨ r.burst < r.rate ∨ r.rate < r.floor ∨
        (3 ≤ b ∧ full < floors)
      (bad → ends (.regSet q) u 0x0d 0#64 0#64) ∧
      (¬bad → (∃ i ∈ isles, s.inPart p i = false) → ends (.regSet q) u 0x11 0#64 0#64) ∧
      (¬bad → (∀ i ∈ isles, s.inPart p i = true) → ∃ v : State, ends (.regSet q) v 0 0#64 0#64 ∧
        (∀ i ∈ isles, v.bucket p b i = r) ∧ (3 ≤ b → v.bucket p b 8 = r) ∧
        (∀ k, (∀ i ∈ 8 :: isles, k ≠ bucketKey p b i) → mapFind k v.hb.regulators = mapFind k s.hb.regulators) ∧
        v = { u with hb := { u.hb with regulators := v.hb.regulators } })) ∧
    (Heads s q 0x2a e →
      let t := fld e[1] 31 0
      let deepest := if 400000 ≤ t then 4 else if 15000 ≤ t then 3 else if 80 ≤ t then 2 else if 2 ≤ t then 1 else 0
      ends (.powerTol q) { s with power := { s.power with tolerance := t } } 0 (word deepest) 0#64) ∧
    (Heads s q 0x2b e →
      let cap := fld e[1] 15 0
      let o := fld e[2] 5 0
      let f : Shares := { compute := fld e[3] 47 32, memory := fld e[3] 31 16, links := fld e[3] 15 0 }
      let force := min cap s.power.limit
      let sum := f.links + f.memory + f.compute
      let rated (w : Nat) : Nat := min w (s.power.rating.getD w)
      let plain := cap = 0 ∧ e[2] = 0#64 ∧ e[3] = 0#64
      (e[1].getLsbD 16 = true → ¬plain → ends (.powerCap q) s 0x0d 0#64 0#64) ∧
      (e[1].getLsbD 16 = true → plain → ∃ v : State,
        ends (.powerCap q) v 0 (word s.power.limit) 0#64 ∧ v.power.cap = none ∧ v.power.capEff = rated s.power.limit ∧
        v.power.order = 0x24#6 ∧ v.power.floors = none) ∧
      (e[1].getLsbD 16 = false →
        (orderOk o = false ∨ force < sum → ends (.powerCap q) s 0x0d 0#64 0#64) ∧
        (orderOk o = true → sum ≤ force → cap < 350 → ends (.powerCap q) s 0x17 0#64 0#64) ∧
        (orderOk o = true → sum ≤ force → 350 ≤ cap → ∃ v : State, ends (.powerCap q) v 0 (word force) 0#64 ∧
          v.power.capEff = rated force ∧ v.power.order = BitVec.ofNat 6 o ∧ v.power.floors = some f)))

/-! ### Graphs, launches and moorings -/

/-- GRAPH_STORE, GRAPH_DROP and PARAM_PATCH (R343, R363-R365): a store that fails a check completes with its status and leaves the slot; one that
passes fills the slot with the image and its initial block, and waits for the moorings of the old image; a drop empties a slot that
nothing refers to; a patch applies all of its values to the live block, or none. -/
def Obligations.GraphsStoreDropAndPatch : Prop :=
  ∀ (s : State) (q : QueueId) (e : Entry),
    let u := s.wake
    let g? := s.graph e.slot
    let bound := s.boundWhere fun x => x == e.slot
    let same (v : State) : Prop := ∀ k, k ≠ e.slot → v.graph k = s.graph k
    (∀ (img : ImageHeader) (body : BitVec 384) (w : Signatures),
      let st := u.storeStatus e img body w
      let i := Instr.graphStore q img body w
      let len := fld e[3] 31 0
      (Heads s q 0x01 e →
        (0x40000000 < len → exec i s = .next (u.complete q 0x02 0#64 0#64)) ∧
        (len = 0 → exec i s = .next (u.complete q 0 0#64 0#64)) ∧
        (0 < len → len ≤ 0x40000000 → st ≠ 0 → exec i s = .next (u.complete q st 0#64 0#64)) ∧
        (0 < len → len ≤ 0x40000000 → st = 0 → ∃ v : State, v.graph e.slot = some { ctx := e.ctx, img := img, live := initialBlock img } ∧ same v ∧
          (bound = [] → exec i s = .next (v.complete q 0 (word (img.blockLen * 2 ^ 32 + img.points.length)) (word img.cores.length))) ∧
          (bound ≠ [] → exec i s = .next (v.startHead q 0)))) ∧
      (∀ (r : Running) (g : Graph), (s.queue q).running = some r → r.entry.op = 0x01 → s.graph r.entry.slot = some g →
        (s.boundWhere (fun x => x == r.entry.slot) = [] →
          exec i s = .next (s.finishRunning q 0 (word (g.img.blockLen * 2 ^ 32 + g.img.points.length)) (word g.img.cores.length))) ∧
        (s.boundWhere (fun x => x == r.entry.slot) ≠ [] → exec i s = .next s))) ∧
    (Heads s q 0x02 e →
      (g? = none → exec (.graphDrop q) s = .next (u.complete q 0x0b 0#64 0#64)) ∧
      (g? ≠ none → s.slotInUse e.slot = true → exec (.graphDrop q) s = .next (u.complete q 0x0c 0#64 0#64)) ∧
      (g? ≠ none → s.slotInUse e.slot = false → ∃ v : State, v.graph e.slot = none ∧ same v ∧
        (bound = [] → exec (.graphDrop q) s = .next (v.complete q 0 0#64 0#64)) ∧
        (bound ≠ [] → exec (.graphDrop q) s = .next (v.startHead q 0)))) ∧
    (Heads s q 0x04 e →
      let len := fld e[3] 31 0
      let ends (st : Nat) : Prop := exec (.paramPatch q) s = .next (u.complete q st 0#64 0#64)
      (0x100000 < len → ends 0x02) ∧ (len ≤ 0x100000 → g? = none → ends 0x0b) ∧ (g? ≠ none → len = 0 → ends 0) ∧
      (∀ g, g? = some g → 0 < len → len ≤ 0x100000 → s.buffer g.ctx e[2] len = none → ends 0x09) ∧
      (∀ (g : Graph) (va : Nat) (v : State) (bs : List Byte), g? = some g → 0 < len → len ≤ 0x100000 →
        s.buffer g.ctx e[2] len = some va → u.harbourRead g.ctx va len = some (v, bs) →
        (∀ (rs : List PatchRec) (whole : Bool), patchRecords (len / 8 + 1) bs = (rs, whole) →
          ((∃ r ∈ rs, r.clean = false) → exec (.paramPatch q) s = .next (v.complete q 0x01 0#64 0#64)) ∧
          ((∀ r ∈ rs, r.clean = true) → whole = false → exec (.paramPatch q) s = .next (v.complete q 0x02 0#64 0#64))) ∧
        (∀ rs : List PatchRec, patchRecords (len / 8 + 1) bs = (rs, true) → (∀ r ∈ rs, r.clean = true) →
          ((∃ r ∈ rs, v.patchValue g r = none) → exec (.paramPatch q) s = .next (v.complete q 0x09 0#64 0#64)) ∧
          ((∀ r ∈ rs, v.patchValue g r ≠ none) → (∃ r ∈ rs, patchFits g r = false) →
            exec (.paramPatch q) s = .next (v.complete q 0x0a 0#64 0#64)) ∧
          ((∀ r ∈ rs, v.patchValue g r ≠ none) → (∀ r ∈ rs, patchFits g r = true) →
            let live := (rs.map fun r => (r, (v.patchValue g r).getD [])).foldl (patchBlock g.img) g.live
            exec (.paramPatch q) s = .next ((v.updHb fun y =>
              { y with graphs := mapSet e.slot { g with live := live } y.graphs }).complete q 0 (word rs.length) 0#64)))))

/-- GRAPH_LAUNCH, DISPATCH and LAUNCH_END (R338, R340, R344, R364, R447, R451, R457): a launch of an empty slot completes with NO_GRAPH, and under Clamp or
a Lighthouse fault with LAUNCH_FAILED in the SAFETY class; otherwise it waits until all it needs is free, and then holds its cores, the
lowest free snapshot slot and record, and the live block is copied; one whose cores are unavailable does not wait but ends; a launch
ends when its work is complete or has failed, and its completion says which; a failed launch's core is filled once its slots are EMPTY, and
no core of its set is free before all of it is filled (an unavailable core keeps no launch waiting: it counts as free, R457). -/
def Obligations.LaunchesDispatchAndEnd : Prop :=
  ∀ (s : State) (q : QueueId) (e : Entry),
    let u := s.wake
    let refused (d : BitVec 56) (t : State) : State :=
      (t.updQueue q fun x => { x with failedSince := true }).complete q 0x08 0#64 (failWord 11#8 d)
    (s.head q = some e → e.op = 0x03 → s.harbourRuns = true → e.reserved = false → s.objectHeld q e = false → s.lh.clamp ≠ 0 →
      exec (.graphLaunch q) s = .next (refused (s.lh.code.setWidth 56) u)) ∧
    (Heads s q 0x03 e →
      (s.lh.fault = true → exec (.graphLaunch q) s = .next (refused 0#56 u)) ∧
      (s.lh.fault = false → s.graph e.slot = none → exec (.graphLaunch q) s = .next (u.complete q 0x0b 0#64 0#64)) ∧
      (s.lh.fault = false → s.graph e.slot ≠ none → exec (.graphLaunch q) s = .next u) ∧
      (∀ g, s.lh.fault = false → s.graph e.slot = some g →
        (u.mayDispatch q e.slot g = false → exec (.dispatch q) s = .next u) ∧
        (∀ (snap k f : Nat) (w : State), u.mayDispatch q e.slot g = true → u.freeSnap e.slot g.img = some snap →
          mapFree 64 s.hb.launches = some k → firstPhase g.img g.live = some f → f < g.img.phases.length → spans g.img = false →
          g.img.runs = [] → g.img.hasMark = false →
          let l := u.newLaunch q e (s.queue q).started g snap f (if f = 0 then 0 else ((g.img.phase f).map PhaseEntry.s).getD 0)
          u.harbourWrite g.ctx (g.img.snapVa snap) (snapshotBytes l g.img.blockLen g.live) = some w →
            ((∀ c ∈ g.img.cores, u.unavailable (coreOf c) = false) → Answers (exec (.dispatch q) s) fun t =>
              t.launch k = some l ∧ l.id = s.hb.nextLaunch ∧ t.hb.nextLaunch = s.hb.nextLaunch + 1#64 ∧ l.cores = g.img.cores ∧
              l.snapSlot = snap ∧ l.startTick = s.tide + word g.img.lead ∧ t.mem = w.mem ∧ t.cores = s.cores) ∧
            (∀ c rest, (g.img.cores.filter fun c => u.unavailable (coreOf c)) = c :: rest → c < 2 ^ 16 →
              Answers (exec (.dispatch q) s) fun t => t.launch k = none ∧ t.hb.nextLaunch = s.hb.nextLaunch + 1#64 ∧
                ((s.queue q).compNext, completion q e.tag 0x03 0x08 (s.queue q).started s.hb.nextLaunch
                  (word (10 * 2 ^ 56 + 4 * 2 ^ 48 + c)) l.srTide s.tide s.tide 0#64) ∈ (t.queue q).owed)))) ∧
    (∀ (n : BitVec 6) (l : Launch), s.launch n.toNat = some l → s.harbourRuns = true →
      let p : QueueId := Fin.ofNat 6 l.queue
      let ended (st : Nat) (r1 : Word) (t : State) : Prop :=
        t.launch n.toNat = none ∧
        ((s.queue p).compNext, completion p l.tag 0x03 st l.seq l.id r1 l.srTide l.dispatchTide s.tide l.timing.word) ∈ (t.queue p).owed
      (l.stop ≠ none → exec (.launchEnd n) s = .next s) ∧
      (∀ f : Failure, l.stop = none → l.failure = some f → Answers (exec (.launchEnd n) s) fun t =>
        ended 0x08 f.result t ∧ (t.queue p).failedSince = true ∧
        (∀ c ∈ l.cores, (t.mx (coreOf c)).seq = none ∧
          (((t.sc (coreOf c)).lagoon = [] ∧ (t.sc (coreOf c)).scratch = [] ∧ (coreOf c).val ∉ t.hb.unclean) ∨
            ((coreOf c).val ∈ t.hb.unclean ∧ ∀ m, m < 8 → (t.sc (coreOf c)).mooringState m ≠ 2#8))) ∧
        ((∀ c ∈ l.cores, c < 1200) → (∃ c ∈ l.cores, c ∈ t.hb.unclean) →
          ∀ c ∈ l.cores, (t.unavailable (coreOf c) || !t.coreFree (coreOf c)) = true)) ∧
      (∀ h, l.stop = none → l.failure = none → s.image l = some h →
        (s.launchComplete l h = true → Answers (exec (.launchEnd n) s) fun t => ended 0 0#64 t ∧ t.mem = s.mem ∧ t.cores = s.cores) ∧
        (s.launchComplete l h = false → exec (.launchEnd n) s = .next s)))

/-- WORK_ITEM_POST, MOORING, MOORING_WRITE and MOORING_TIMEOUT (R347-R351): a work item goes into the IDLE slot of its graph's task, or the
task is bound to the first EMPTY slot, at least 64 ticks ahead; a core of another context has its lagoon filled first; the line lets
a waiting core go on; of the core's own writes of STATE those of Table 11.8 take effect, DONE being answered with IDLE and a RESULT of
zero, and any other fails its launch (other bytes of the word are not the runtime's: log 84); the task of a core whose launch has failed is
unbound when it is DONE, and the lagoon is filled once every slot is EMPTY; a BIND or UNBIND not answered in 20 µs quarantines the core, and
a slot that keeps a change of context or a fill waiting that long resets the core's registers, not its accumulator banks. -/
def Obligations.MooringsCarryWork : Prop :=
  ∀ (s : State) (c : CoreId),
    let x := s.sc c
    (∀ (n : BitVec 6) (l : Launch) (h : ImageHeader), s.launch n.toNat = some l → s.image l = some h → s.powered = true →
      s.harbourRuns = true → c.val ∈ l.cores → c.val ∉ l.posted → l.agreed = true → l.failure = none → l.stop = none →
      (l.startTick < s.tide + 64#64 → exec (.workItemPost n c) s = .next s) ∧
      (s.tide + 64#64 ≤ l.startTick →
        let go := exec (.workItemPost n c) s
        let mine (m : Nat) : Prop := (s.mooring c m).graph = some l.slot ∧ x.mooringState m ≠ 6#8
        (mapFind c.val s.hb.lastCtx = some l.ctx → x.scratchW = h.scratchW →
          (∀ m, m < 8 → mine m → (∀ j, j < m → ¬mine j) → x.mooringState m = 2#8 → Answers go fun t =>
            (t.sc c).mooringState m = 3#8 ∧ (t.sc c).mooringWord m 2 = l.id ∧ (t.sc c).mooringWord m 3 = word (h.snapVa l.snapSlot) ∧
            (t.sc c).mooringWord m 4 = l.startTick ∧ (t.sc c).mooringWord m 5 = (h.taskOf c.val).2 ∧
            SameOutside x.lagoon (t.sc c).lagoon (mooringAddr m 0) 48 ∧ ∃ l', t.launch n.toNat = some l' ∧ c.val ∈ l'.posted) ∧
          (∀ m, m < 8 → (∀ j, j < 8 → ¬mine j) → x.mooringState m = 0#8 → (∀ j, j < m → x.mooringState j ≠ 0#8) → Answers go fun t =>
            (t.sc c).mooringState m = 1#8 ∧ (t.sc c).mooringWord m 1 = (h.taskOf c.val).1 ∧ (t.mooring c m).graph = some l.slot ∧
            SameOutside x.lagoon (t.sc c).lagoon (mooringAddr m 0) 64)) ∧
        (mapFind c.val s.hb.lastCtx ≠ some l.ctx → (∀ m, m < 8 → x.mooringState m = 0#8) → Answers go fun t =>
          (t.sc c).ctxid = BitVec.ofNat 12 l.ctx ∧ (t.sc c).scratchW = h.scratchW ∧ mapFind c.val t.hb.lastCtx = some l.ctx ∧
          (t.sc c).mooringState 0 = 1#8 ∧ ∀ a, a < mooringFree → byteAt (t.sc c).lagoon a = unlistedByte))) ∧
    (let line := ∃ m, m < 8 ∧ x.mooringState m = 3#8 ∧ x.mooringWord m 4 ≤ s.tide
     (¬line → exec (.mooring c) s = .next s) ∧
     (line → (s.core c).pw.want = none → x.run = .waiting → s.irqEnabled c = true → s.clocked c = true →
      exec (.mooring c) s = .next (s.setSc c { x with run := .running })) ∧
     (∀ w k l, line → (s.core c).pw.want = some w → s.launchOfCore c.val = some (k, l) →
      exec (.mooring c) s = .next (s.setLaunch k { l with timing := { l.timing with wake := true } }))) ∧
    (∀ (m : BitVec 3) (v : Word), s.canIssue c = true → s.engineHolds c (mooringAddr m.toNat 0) 8 = false → c.val ∉ s.hb.unclean →
      let old := x.mooringState m.toNat
      let new : BitVec 8 := v.extractLsb' 0 8
      let own := x.settled ∧ v.extractLsb' 8 56 = (x.mooringWord m.toNat 0).extractLsb' 8 56
      let o := mooringAddr m.toNat 0
      let put (last : BitVec 8) : State := s.retires c fun k => k.onSc fun y =>
        let z := y.putLagoon o (leBytes 8 v.toNat)
        { z with lagoon := setByte z.lagoon o last }
      let go := exec (.mooringWrite c m v) s
      (own → (old = 1#8 ∧ new = 2#8) ∨ (old = 3#8 ∧ new = 4#8) → go = .next (put new)) ∧
      (own → old = 6#8 → new = 0#8 →
        go = .next ((put new).setMooring c m.toNat { s.mooring c m.toNat with graph := none })) ∧
      (∀ k l, own → old = 4#8 → new = 5#8 → s.launchOfCore c.val = some (k, l) → fld (x.mooringWord m.toNat 6) 7 0 = 0 →
        go = .next ((put 2#8).setLaunch k { l with done := addOnce c.val l.done })) ∧
      (∀ k l, runtimeMay old new = false ∨ (old = 4#8 ∧ new = 5#8 ∧ fld (x.mooringWord m.toNat 6) 7 0 ≠ 0) →
        s.launchOfCore c.val = some (k, l) → Answers go fun t => ∃ l', t.launch k = some l' ∧ l'.failure.isSome = true)) ∧
    (∀ (m : BitVec 3) (v : Word), s.canIssue c = true → s.engineHolds c (mooringAddr m.toNat 0) 8 = false → c.val ∈ s.hb.unclean →
      s.launchOfCore c.val = none →
      let old := x.mooringState m.toNat
      let new : BitVec 8 := v.extractLsb' 0 8
      (old = 4#8 → new = 5#8 → Answers (exec (.mooringWrite c m v) s) fun t => (t.sc c).mooringState m.toNat = 6#8) ∧
      (old = 6#8 → new = 0#8 → (∀ j, j < 8 → j ≠ m.toNat → x.mooringState j = 0#8) →
        Answers (exec (.mooringWrite c m v) s) fun t => (t.sc c).lagoon = [] ∧ (t.sc c).scratch = [] ∧ c.val ∉ t.hb.unclean)) ∧
    (∀ m : BitVec 3,
      let stuck := x.mooringState m.toNat = 1#8 ∨ x.mooringState m.toNat = 6#8
      let change := c.val ∈ s.hb.unclean ∨ ∃ k l, s.launchOfCore c.val = some (k, l) ∧ mapFind c.val s.hb.lastCtx ≠ some l.ctx
      let due := (stuck ∨ (change ∧ x.mooringState m.toNat ≠ 0#8)) ∧ s.passedUs (s.mooring c m.toNat).since 20 = true
      (¬due → exec (.mooringTimeout c m) s = .next s) ∧
      (due → s.harbourRuns = true → Answers (exec (.mooringTimeout c m) s) fun t =>
        (stuck → (t.sc c).run = .quarantined ∧ t.canIssue c = false) ∧ (∀ j, j < 8 → (t.sc c).mooringState j = 0#8) ∧
        (change → (∀ r, (t.sc c).rg r = 0#64) ∧ (t.sc c).preds = 1#64 ∧ (t.sc c).mode = 0x12#64) ∧ t.mx c = s.mx c ∧
        (c.val ∈ s.hb.unclean → (t.sc c).lagoon = [] ∧ (t.sc c).scratch = [] ∧ c.val ∉ t.hb.unclean)))

/-! ### RoCE -/

/-- RDMA_WRITE, RDMA_READ, SEND and CONNECTION_ESTABLISH (R302, R355): a packet proceeds only if its key's generation is current, its remote
address names the key's region and its handle converts there; then its bytes move and are acknowledged, or come back; any failure is
answered with the remote-access NAK and moves nothing. SEND is refused with an invalid-request NAK. A connection needs one of three
path MTUs and a port with an address. -/
def Obligations.RemoteTransfersMoveBytes : Prop :=
  ∀ (s : State) (qp : BitVec 8),
    let u := s.wake
    let nak (r : Reply) (t : State) : State :=
      { t with hb := { t.hb with roceNaks := satInc t.hb.roceNaks }, io := { t.io with replies := t.io.replies ++ [r] } }
    (∀ (key : BitVec 32) (addr : Word) (bs : List Byte) (len : BitVec 32) (x : QueuePair),
      let n := len.toNat
      let ctx := (key.extractLsb' 20 12).toNat
      let region := (key.extractLsb' 8 12).toNat
      let mine := fld addr 59 48 = region ∧ (key.extractLsb' 0 8).toNat = s.generation ctx region
      let write := exec (.rdmaWrite qp key addr bs) s
      let read := exec (.rdmaRead qp key addr len) s
      let refused := nak (.roceAccessNak qp.toNat)
      mapFind qp.toNat s.hb.qps = some x → s.harbourRuns = true → 0 < bs.length → bs.length ≤ x.mtu → 0 < n → n ≤ x.mtu →
        (s.lh.clamp = 0 → exec (.send qp) s = .next (nak (.roceInvalidNak qp.toNat) u)) ∧
        (s.lh.clamp ≠ 0 → exec (.send qp) s = .next (nak (.roceInvalidNak qp.toNat) s)) ∧
        (s.lh.clamp ≠ 0 → write = .next (refused s) ∧ read = .next (refused s)) ∧
        (s.lh.clamp = 0 → ¬mine ∨ s.handle ctx addr = none → write = .next (refused u) ∧ read = .next (refused u)) ∧
        (∀ va left, s.lh.clamp = 0 → mine → s.handle ctx addr = some (va, left) →
          (left < bs.length → write = .next (refused u)) ∧ (left < n → read = .next (refused u)) ∧
          (bs.length ≤ left → va % 65536 + bs.length ≤ 65536 →
            (∀ r rp, s.translate ctx va .write privTask true = .fault r rp → write = .next (refused u)) ∧
            (∀ dpa leaf, s.translate ctx va .write privTask true = .ok dpa leaf → PlainMemory s ctx dpa bs.length → nearOrMid dpa = true →
              Answers write fun t => Written s.mem t.mem dpa bs ∧ t.io.replies = s.io.replies ++ [.roceAck qp.toNat] ∧
                t = { u.withMemoryOf t with io := t.io })) ∧
          (n ≤ left → va % 65536 + n ≤ 65536 →
            (∀ r rp, s.translate ctx va .read privTask true = .fault r rp → read = .next (refused u)) ∧
            (∀ dpa leaf, s.translate ctx va .read privTask true = .ok dpa leaf → PlainMemory s ctx dpa n →
              Answers read fun t => t = { u.answer (.roceData qp.toNat (readBytes s.mem dpa n)) with coves := t.coves })))) ∧
    (∀ (port : Bool) (mtu : BitVec 16),
      let ok := s.harbourRuns = true ∧ s.hasIp port = true ∧ mtu.toNat ∈ [1024, 2048, 4096]
      let y : QueuePair := { mtu := mtu.toNat, port := port }
      (ok → exec (.connectionEstablish qp port mtu) s = .next
        ((s.updHb fun h => { h with qps := mapSet qp.toNat y h.qps }).answer (.roceConnected qp.toNat))) ∧
      (¬ok → exec (.connectionEstablish qp port mtu) s = .next s))

/-! ### Tide and Strait -/

/-- PORT_TRAINING, PORT_RETRAIN, SILENT, FILLER and SIDE (R390, R395, R398, R416, R502): training checks lanes, wiring and latency in order, and
a port that passes is IDLE; one without a cable, or in S4, stays DOWN; a FAILED port trains again after 1 s, once no launch claims it; 4 ticks without a valid side flit, or 16 CRC
failures within 1,024 ticks, fail a port. A failed port is alarmed and every launch that uses it coasts down. TIDE_ADJUST (R390, R391):
away from SCHEDULED and COASTING ports a device that is on average more than one tick behind its parent steps its tide forward to the
estimate; in no other case does the tide change; a level whose bound the mean has exceeded twice over for 256 ticks coasts its launches
down with SKEW. TWAKE_EXPIRY (R388): the TIDE line ends the core's WAIT. -/
def Obligations.PortsTrainAndFollowTheTide : Prop :=
  (∀ (s : State) (p : PortId),
     let x := s.port p
     let recent := (x.crcTimes.filter fun t => s.since t < 1024).length
     let others (t : State) : Prop := t.mem = s.mem ∧ t.cores = s.cores ∧ ∀ q, q ≠ p → (t.port q).state = (s.port q).state
     let fails (reason : BitVec 4) (o : Host.Outcome State Fault Refusal) : Prop := Answers o fun t => others t ∧
       (t.port p).state = 5#3 ∧ (t.port p).reason = reason ∧ (t.port p).failedAt = s.tide ∧ t.alarmed 0x000a#16 (BitVec.ofNat 16 p.val) ∧
       ∀ (k : Nat) (l : Launch) (h : ImageHeader), s.launch k = some l → s.image l = some h → p ∈ launchPorts h → topLevel h ≠ 0 →
         l.unloaded = false → l.stop = none → ∃ l', t.launch k = some l' ∧
           l'.stop = some { tc := s.tide + word (propBound (topLevel h)), reason := 2#8, origin := BitVec.ofNat 10 h.rank }
     let crc (i : Instr) : Prop :=
       (recent + 1 < 16 → Answers (exec i s) fun t => t = { s with strait := t.strait } ∧ (∀ q, q ≠ p → t.port q = s.port q) ∧
         t.port p = { x with crcErr := satInc x.crcErr, crcTimes := (t.port p).crcTimes } ∧ (t.port p).crcTimes.length = recent + 1) ∧
       (16 ≤ recent + 1 → fails 5#4 (exec i s))
     s.powered = true →
       (∀ r : TrainingResult, s.power.idle = 4 → exec (.portTraining p r) s = .next s) ∧
       (∀ r : TrainingResult, r.cable = false → s.power.idle ≠ 4 → x.state = 0#3 ∨ x.state = 1#3 → Answers (exec (.portTraining p r) s) fun t =>
         (t.port p).state = 0#3 ∧ others t ∧ t.hb = s.hb) ∧
       (∀ r : TrainingResult, r.cable = true → s.power.idle ≠ 4 → x.state = 0#3 ∨ x.state = 1#3 →
         let wired := r.peerPort.toNat = peerPort p
         let go := exec (.portTraining p r) s
         (r.lanes ≠ 0xff#8 → fails 1#4 go) ∧
         (r.lanes = 0xff#8 → ¬wired → fails 2#4 go) ∧
         (r.lanes = 0xff#8 → wired → 4 < r.latency → fails 3#4 go) ∧
         (r.lanes = 0xff#8 → wired → r.latency ≤ 4 → Answers go fun t => others t ∧ t.hb = s.hb ∧
           (t.port p).state = 2#3 ∧ (t.port p).neighbour = r.peerId ∧ (1 ≤ r.latency → (t.port p).d.toNat = r.latency))) ∧
       (let again := x.state = 5#3 ∧ second ≤ s.since x.failedAt ∧ s.launchesOn p = []
        (again → Answers (exec (.portRetrain p) s) fun t => others t ∧ t.hb = s.hb ∧ (t.port p).state = 1#3) ∧
        (¬again → exec (.portRetrain p) s = .next s)) ∧
       (x.trained = true →
         (4 ≤ s.since x.lastSide → fails 4#4 (exec (.silent p) s)) ∧ (s.since x.lastSide < 4 → exec (.silent p) s = .next s) ∧
         (∀ f : Flit, (f.crcOk = true → exec (.filler p f) s = .next s) ∧ (f.crcOk = false → crc (.filler p f))) ∧
         (∀ f : Flit, (f.crcOk = false → crc (.side p f)) ∧ (f.crcOk = true → f.type ≠ 2 → exec (.side p f) s = .next s) ∧
           (f.crcOk = true → f.type = 2 → exec (.side p f) s =
             .next (f.cells.foldl (fun t y => t.takeCell p y) (s.setPort p { x with peerTide := f.peerTide, lastSide := s.tide })))))) ∧
  (∀ s : State,
     (s.strait.parent = none ∨ s.powered = false → exec .tideAdjust s = .next s) ∧
     (∀ p, s.strait.parent = some p → s.powered = true →
       let x := s.port p
       let e := (x.peerTide + x.d.setWidth 64 - x.lastSide).toInt
       let es := (s.strait.errors ++ [e]).drop (s.strait.errors.length + 1 - 256)
       let busy := ∃ q, (s.port q).state = 3#3 ∨ (s.port q).state = 4#3
       let behind := es.length = 256 ∧ 256 < es.sum
       Answers (exec .tideAdjust s) fun t => t.mem = s.mem ∧ t.cores = s.cores ∧
         (¬busy → behind → t.tide = s.tide + BitVec.ofInt 64 (es.sum / 256) ∧ t.strait.errors = []) ∧
         (busy ∨ ¬behind → t.tide = s.tide ∧ t.strait.errors = es) ∧
         ∀ (k : Nat) (l : Launch) (h : ImageHeader) (lv : Nat) (hl : lv < 4), s.launch k = some l → s.image l = some h →
           (∀ l', (k, l') ∈ s.hb.launches → l' = l) → topLevel h = lv → lv ≠ 0 → l.unloaded = false → l.stop = none →
           let exceeds := es.length = 256 ∧ 512 * skewBound lv < es.sum.natAbs
           t.strait.skew[lv] = (if exceeds then s.strait.skew[lv] + 1 else 0) ∧
           (exceeds → 255 ≤ s.strait.skew[lv] → ∃ l', t.launch k = some l' ∧
             l'.stop = some { tc := s.tide + word (propBound lv), reason := 6#8, origin := BitVec.ofNat 10 h.rank }) ∧
           (¬exceeds ∨ s.strait.skew[lv] < 255 → t.launch k = some l)) ∧
     (∀ c : CoreId,
       let x := (s.core c).tp
       let line := x.wakeEn = true ∧ x.wakeTick.setWidth 64 ≤ s.tide
       let wakes := line ∧ (s.sc c).run = .waiting ∧ s.irqEnabled c = true ∧ s.clocked c = true
       (wakes → exec (.twakeExpiry c) s = .next (s.setSc c { s.sc c with run := .running })) ∧
       (¬wakes → exec (.twakeExpiry c) s = .next s)))

/-- DATA (R398, R402, R405): a flit that no loaded run expects is counted in MISMATCH, and 16 within 1,024 ticks fail the port; one that a
run expects names its port, stream, index, send tick and slot; a RECV run's bytes reach memory once, a FORWARD run keeps them; a flit
whose CRC fails is asked for again, and its third failure fails the port. SLOT_TRANSMISSION and LATE_FLIT (R397, R398, R404, R407): each
trained port sends its side flit of this tick once; a data slot carries only a flit that a loaded run sends then, or a kept flit asked for
again; a flit that its slot did not carry goes with RPL set, under its scheduled tick and slot, in the lowest free slot. -/
def Obligations.FlitsKeepTheirSchedule : Prop :=
  (∀ (s : State) (p : PortId) (f : Flit), s.powered = true → (s.port p).trained = true →
     let x := s.port p
     let go := exec (.data p f) s
     let i := f.fidx
     (∀ e, s.expects p f = some e → e.r.isSend = false ∧ e.r.port.toNat = p.val ∧ e.r.stream = f.stream ∧ i < e.r.flits ∧
       (e.r.place i).2 = f.slot ∧ e.at_.setWidth 16 = f.tick ∧
       ∃ l h, (e.launch, l) ∈ s.hb.launches ∧ s.image l = some h ∧ (e.run, e.r) ∈ l.loaded h ∧
         e.at_ = l.eff h (e.r.tstart + (e.r.place i).1) ∧ s.acceptsAt p l h e.r f.rpl e.at_ = true) ∧
     (f.crcOk = true → f.type ≠ 1 → go = .next s) ∧
     (f.crcOk = true → f.type = 1 → s.expects p f = none →
       let n := (x.missTimes.filter fun t => s.since t < 1024).length + 1
       (n < 16 → Answers go fun t => t = { s with strait := t.strait } ∧ (∀ q, q ≠ p → t.port q = s.port q) ∧
         t.port p = { x with mismatch := satInc x.mismatch, missTimes := (t.port p).missTimes } ∧ (t.port p).missTimes.length = n) ∧
       (16 ≤ n → Answers go fun t => (t.port p).state = 5#3 ∧ (t.port p).reason = 6#4 ∧ (t.port p).mismatch = satInc x.mismatch ∧
         t.mem = s.mem)) ∧
     (∀ (e : Expected) (l : Launch), f.crcOk = true → f.type = 1 → s.expects p f = some e → s.launch e.launch = some l →
       let got : Launch := { l with flits := mapSet (2 * e.run) (l.got e.run ++ [i]) l.flits }
       let va := e.r.buf.toNat + 240 * i
       let bs := f.payload.take (e.r.bytes - 240 * i)
       (i ∈ l.got e.run → go = .next s) ∧
       (i ∉ l.got e.run → e.r.isForward = true →
         go = .next (s.setLaunch e.launch { got with rx := mapSet (65536 * e.run + i) f.payload l.rx })) ∧
       (i ∉ l.got e.run → e.r.isForward = false → e.r.isReduce = false → (s.setLaunch e.launch got).backlog p ≤ 1920 →
         (bs = [] → go = .next (s.setLaunch e.launch got)) ∧
         (∀ dpa leaf, bs ≠ [] → va % 65536 + bs.length ≤ 65536 → s.translate l.ctx va .write privTask true = .ok dpa leaf →
           PlainMemory s l.ctx dpa bs.length → nearOrMid dpa = true → Answers go fun t =>
             Written s.mem t.mem dpa bs ∧ t = (s.setLaunch e.launch got).withMemoryOf t))) ∧
     (f.crcOk = false →
       let n := mapGet 0 (lostKey f) x.lost
       let recent := (x.crcTimes.filter fun t => s.since t < 1024).length
       (n < 2 → recent + 1 < 16 → Answers go fun t => t = { s with strait := t.strait } ∧ (t.port p).state = x.state ∧
         (t.port p).cells = x.cells ++ [s.replayCell f] ∧ (t.port p).crcErr = satInc x.crcErr ∧ mapGet 0 (lostKey f) (t.port p).lost = n + 1) ∧
       (2 ≤ n ∨ 16 ≤ recent + 1 → Answers go fun t => (t.port p).state = 5#3 ∧ (t.port p).reason = 5#4 ∧ t.mem = s.mem))) ∧
  (∀ s : State, s.powered = true →
     (Answers (exec .slotTransmission s) fun t =>
       (∀ p, (s.port p).trained = true → ∃ x ∈ t.strait.sent, x.1 = p ∧ x.2.tick = s.tide ∧ x.2.slot = 0) ∧
       ∃ new, t.strait.sent = s.strait.sent ++ new ∧ ∀ x ∈ new, x.2.tick = s.tide ∧ (s.port x.1).trained = true ∧ x.2.flit.crcOk = true ∧
         (x.2.slot = 0 ∨
          (∃ d ∈ s.dueFlits x.1, let r := d.2.1.2
            x.2.slot = (r.place d.2.2).2 ∧ x.2.flit.header = flitHeader 1 false x.2.slot s.tide r.stream d.2.2) ∨
          (∃ y ∈ (s.port x.1).kept, y.due = true ∧
            x.2.flit.header = flitHeader 1 true y.slot y.tick y.stream y.fidx ∧ x.2.flit.payload = y.payload))) ∧
     (∀ p : PortId, (s.port p).trained = true →
       (s.lateFlits p = [] ∨ s.freeSlots p = [] → exec (.lateFlit p) s = .next s) ∧
       (∀ k x i at_ rest n more l bs, s.lateFlits p = (k, x, i, at_) :: rest → s.freeSlots p = n :: more → s.launch k = some l →
         (∃ u, s.flitData l x i = .ok u bs) → Answers (exec (.lateFlit p) s) fun t =>
           let own := (x.2.place i).2
           let f := Flit.make (flitHeader 1 true own at_ x.2.stream i) bs
           t.strait.sent = s.strait.sent ++ [(p, { tick := s.tide, slot := n, flit := f })] ∧ t.mem = s.mem ∧ t.cores = s.cores ∧
           ∃ l', t.launch k = some l' ∧ i ∈ l'.sent x.1)))

/-- START, START_AT, VOTE, OUTCOME, COAST, REPLAY, ROOT, HARBOUR and CELL_HOLD_EXPIRY (R389, R398, R400, R409, R411, R417): a travelling cell acts
once; a START or VOTE of no launch here is held 1 s, goes on toward rank 0 elsewhere, and is recorded by rank 0, which agrees on
START_TICK from the last START; START_AT fixes START_TICK, OUTCOME is held for its boundary, and the smallest COAST tick counts; REPLAY
asks a kept flit again at most twice; ROOT runs the election. -/
def Obligations.CellsActOnce : Prop :=
  ∀ (s : State) (p : PortId) (x : Cell), s.powered = true → (s.port p).trained = true →
    let tick := s.fullTick x.tick
    let tracedOnly (o : Host.Outcome State Fault Refusal) : Prop := Answers o fun t => t = { s with rep := t.rep }
    let fresh := s.strait.seen.contains (cellId x) = false
    let here (k : Nat) (l : Launch) (h : ImageHeader) : Prop :=
      s.launchOfKey x.key = some (k, l) ∧ s.launch k = some l ∧ s.image l = some h
    let floods (h : ImageHeader) (t : State) : Prop :=
      x.hops ≠ 15#4 → ∀ q, q ≠ p → q ∈ launchPorts h → ({ x with hops := x.hops + 1#4 } : Cell) ∈ (t.port q).cells
    (∀ (i : Instr) (kind : BitVec 8),
      (i, kind) ∈ [(.start p x, 1#8), (.startAt p x, 2#8), (.vote p x, 3#8), (.outcome p x, 4#8), (.coast p x, 5#8), (.replay p x, 6#8),
        (.root p x, 7#8), (.harbour p x, 8#8)] →
      (x.kind ≠ kind → exec i s = .next s) ∧ (x.kind = kind → ¬fresh → kind.toNat ≤ 5 → tracedOnly (exec i s)) ∧
      (x.kind = kind → kind = 8#8 → tracedOnly (exec i s))) ∧
    (∀ i : Instr, fresh → (i = .start p x ∧ x.kind = 1#8) ∨ (i = .vote p x ∧ x.kind = 3#8) →
      (s.launchOfKey x.key = none → Answers (exec i s) fun t =>
        t.strait.held = s.strait.held ++ [{ cell := x, port := some p, since := s.tide }] ∧ t.hb = s.hb) ∧
      (∀ k l h, here k l h → h.rank ≠ 0 → Answers (exec i s) fun t => t.hb = s.hb ∧
        (∀ hp : h.votePort.toNat < 12, x.hops ≠ 15#4 →
          ({ x with hops := x.hops + 1#4 } : Cell) ∈ (t.port ⟨h.votePort.toNat, hp⟩).cells) ∧
        (x.hops = 15#4 → t.strait.ports = s.strait.ports))) ∧
    (∀ k l h, here k l h → h.rank = 0 → fresh → x.kind = 1#8 → x.body.extractLsb' 0 64 = h.uid → l.agreed = false → l.stop = none →
      (l.starts.any fun y => y.rank = x.origin) = false →
        let starts := l.starts ++ [{ rank := x.origin, tick := tick, arrived := s.tide }]
        let least := s.tide + word (propBound (topLevel h) + 64)
        Answers (exec (.start p x) s) fun t => ∃ l', t.launch k = some l' ∧ l'.starts = starts ∧
          (starts.length < shapeRanks h → l' = { l with starts := starts }) ∧
          (shapeRanks h ≤ starts.length → l'.agreed = true ∧ least ≤ l'.startTick ∧ (∀ y ∈ starts, y.tick ≤ l'.startTick) ∧
            (l'.startTick = least ∨ ∃ y ∈ starts, y.tick = l'.startTick) ∧
            ∀ q ∈ launchPorts h, mkCell 2#8 l.key l'.startTick h.rank (h.uid.setWidth 128) ∈ (t.port q).cells)) ∧
    (∀ k l h, here k l h → h.rank = 0 → fresh → x.kind = 3#8 → x.body.extractLsb' 0 16 = BitVec.ofNat 16 l.phase →
      tick = l.boundary h → (l.votes.any fun v => v.1 = x.origin) = false →
        Answers (exec (.vote p x) s) fun t => t.launch k = some { l with votes := l.votes ++ [(x.origin, x.body.getLsbD 16)] }) ∧
    (∀ k l h, here k l h → fresh →
      (x.kind = 2#8 → x.body.extractLsb' 0 64 = h.uid → l.agreed = false → Answers (exec (.startAt p x) s) fun t =>
        t.launch k = some { l with startTick := tick, agreed := true } ∧ floods h t) ∧
      (x.kind = 4#8 → x.body.extractLsb' 0 16 = BitVec.ofNat 16 l.phase → tick = l.boundary h →
        Answers (exec (.outcome p x) s) fun t => floods h t ∧
          t.launch k = some { l with outcome := some { slip := x.body.getLsbD 16, commit := x.body.getLsbD 17 } }) ∧
      (x.kind = 5#8 → Answers (exec (.coast p x) s) fun t => floods h t ∧
        let y : Stop := { tc := tick, reason := x.body.extractLsb' 0 8, origin := x.origin }
        let old := match l.stop with | some z => z.tc ≤ tick | none => False
        (old → t.launch k = some l) ∧ (¬old → t.launch k = some { l with stop := some y }))) ∧
    (x.kind = 6#8 →
      let mine (y : SentFlit) : Prop := y.stream = x.body.extractLsb' 0 12 ∧ y.fidx = (x.body.extractLsb' 12 16).toNat ∧
        y.slot = (x.body.extractLsb' 28 5).toNat ∧ y.tick.setWidth 32 = x.tick ∧ y.resends < 2
      Answers (exec (.replay p x) s) fun t => t.hb = s.hb ∧ (∀ q, q ≠ p → t.port q = s.port q) ∧
        (∀ y ∈ (s.port p).kept, mine y → { y with due := true } ∈ (t.port p).kept) ∧
        (∀ y ∈ (s.port p).kept, ¬mine y → y ∈ (t.port p).kept) ∧ (t.port p).kept.length = (s.port p).kept.length) ∧
    (x.kind = 7#8 → Answers (exec (.root p x) s) fun t =>
      (t.port p).rootId = x.body.extractLsb' 0 64 ∧ (t.port p).rootHops = (x.body.extractLsb' 64 8).toNat ∧ t.hb = s.hb ∧
      t.strait.root ≤ t.strait.id ∧
      (∀ q, (t.port q).trained = true → (t.port q).rootId ≠ 0#64 → (t.port q).rootHops < 255 → t.strait.root ≤ (t.port q).rootId) ∧
      (∀ q, t.strait.parent = some q → (t.port q).rootId = t.strait.root ∧ t.strait.hops = (t.port q).rootHops + 1)) ∧
    (∀ key : Word, exec (.cellHoldExpiry key) s = .next { s with strait := { s.strait with
      held := s.strait.held.filter fun y => !(y.cell.key = key && decide (second ≤ s.since y.since)) } })

/-- TVOTE, VOTE_SAMPLE, DECISION_TICK and START_TIMEOUT (R409-R411): TVOTE of the current phase marks the core with its first
tick, and any other sets VOTEREJ; at its boundary a device samples once whether it is ready (every core's TVOTE is of an earlier tick, and
the phase's runs are complete) and votes, setting TSTAT.LATE when it is not; rank 0 decides: no slip, with
COMMIT for a MARK phase, when all ranks are ready, a slip otherwise, and COAST with OVERRUN once MAX_SLIP slips are used; a launch
without START_TICK for 1 s fails, and does not coast. -/
def Obligations.DevicesVoteOnPhases : Prop :=
  ∀ s : State,
    (∀ (c : CoreId) (v : Word), s.canIssue c = true → 1#2 ≤ (s.sc c).priv → (s.sc c).settled →
      let rejected := s.retires c fun y => { y with tp := { y.tp with tstat := y.tp.tstat ||| 1#5 } }
      let go := exec (.tvote c v) s
      (s.launchOfCore c.val = none → go = .next rejected) ∧
      (∀ k l h, s.launchOfCore c.val = some (k, l) → s.image l = some h →
        let now := fld v 15 0 = l.phase ∧ l.phase < h.phases.length
        let first := mapFind c.val l.voted = none
        (now → go = .next ((s.setLaunch k { l with voted := if first then mapSet c.val s.tide l.voted else l.voted }).retires c id)) ∧
        (¬now → go = .next rejected))) ∧
    (∀ (n : BitVec 6) (l : Launch) (h : ImageHeader), s.launch n.toNat = some l → s.image l = some h → s.powered = true →
      let k := n.toNat
      let b := l.boundary h
      let open_ := l.phaseRuns h = true
      let ready := l.ready h
      let sample := exec (.voteSample n) s
      let decide_ := exec (.decisionTick n) s
      let from_ := b + word (voteWindow (topLevel h)) - word (propBound (topLevel h))
      let all := shapeRanks h ≤ (l.votes.filter fun v => v.2).length
      (¬open_ ∨ l.sampled = true ∨ s.tide < b → sample = .next s) ∧
      (ready = true ↔ (∀ c ∈ l.cores, ∃ t, mapFind c l.voted = some t ∧ t < b) ∧
        ∀ r ∈ l.loaded h, h.phaseOf r.2 = l.phase → l.runDone r = true) ∧
      (open_ → l.sampled = false → b ≤ s.tide → (s.tide - b).toNat < 2 ^ 31 →
        (h.rank = 0 → (l.votes.any fun v => v.1 = 0#10) = false → Answers sample fun t => t.mem = s.mem ∧
          t.launch k = some { l with sampled := true, votes := l.votes ++ [(0#10, ready)] } ∧
          (ready = false → ∀ c ∈ l.cores, (t.core (coreOf c)).tp.tstat.getLsbD 2 = true)) ∧
        (∀ hp : h.votePort.toNat < 12, h.rank ≠ 0 → topLevel h ≠ 0 → Answers sample fun t => t.mem = s.mem ∧
          t.launch k = some { l with sampled := true } ∧ l.voteCell h ready ∈ (t.port ⟨h.votePort.toNat, hp⟩).cells ∧
          (ready = false → ∀ c ∈ l.cores, (t.core (coreOf c)).tp.tstat.getLsbD 2 = true))) ∧
      (¬open_ ∨ (h.rank ≠ 0 ∧ topLevel h ≠ 0) ∨ l.outcome ≠ none ∨ l.sampled = false ∨ s.tide < from_ → decide_ = .next s) ∧
      (∀ ph, open_ → h.rank = 0 → l.outcome = none → l.sampled = true → from_ ≤ s.tide → l.phaseNow h = some ph →
        (all ∨ l.phaseSlips < ph.maxSlip → Answers decide_ fun t =>
          t.launch k = some { l with outcome := some { slip := ¬all, commit := all ∧ ph.mark = true } } ∧ t.mem = s.mem ∧
          t.cores = s.cores) ∧
        (¬all → ph.maxSlip ≤ l.phaseSlips → topLevel h ≠ 0 → Answers decide_ fun t =>
          (∃ l', t.launch k = some l' ∧ l'.outcome = none ∧
            l'.stop = some { tc := s.tide + word (propBound (topLevel h)), reason := 3#8, origin := 0#10 }) ∧
          t.mem = s.mem ∧ t.cores = s.cores)) ∧
      (let due := l.agreed = false ∧ l.failure = none ∧ l.stop = none ∧ second ≤ s.since l.dispatchTide
       (¬due → exec (.startTimeout n) s = .next s) ∧
       (due → Answers (exec (.startTimeout n) s) fun t =>
         t.launch k = some { l with
           failure := some { result := failWord 7#8 (BitVec.ofNat 56 (0x10 * 2 ^ 48 + h.rank * 2 ^ 32)), tide := s.tide } } ∧
         t.cores = s.cores)))

/-- OUTCOME_APPLY, COAST_STOP and COAST_UNLOAD (R411, R414, R416-R418): at B + V a slip moves the launch by 1,024 ticks and sets TSTAT.SLIPPED; a
phase that ends makes the next one current and, with COMMIT, writes its mark record; without an outcome the launch coasts down with
NO_OUTCOME; a stop at or before B + V voids the outcome, and one after it does not, even where the device's own failure began it. At tc a stopped launch's flits end; at the drain bound after it the launch
ends in the STRAIT class and sets TSTAT.COAST. -/
def Obligations.PhasesEndOrCoast : Prop :=
  ∀ (s : State) (n : BitVec 6) (l : Launch) (h : ImageHeader), s.launch n.toNat = some l → s.image l = some h → s.powered = true →
    let k := n.toNat
    let top := topLevel h
    let at_ := l.boundary h + word (voteWindow top)
    let apply := exec (.outcomeApply n) s
    let live := l.agreed = true ∧ (l.failure = none ∨ l.stop ≠ none) ∧ l.phase < h.phases.length ∧ at_ ≤ s.tide
    let void := match l.stop with | some y => y.tc ≤ at_ | none => False
    (¬live ∨ void → apply = .next s) ∧
    (live → ¬void →
      (l.outcome = none → l.failure ≠ none ∨ (l.stop ≠ none ∧ top ≠ 0) → apply = .next s) ∧
      (l.outcome = none → l.stop = none → top ≠ 0 → Answers apply fun t => t.mem = s.mem ∧ ∃ l', t.launch k = some l' ∧
        l'.phase = l.phase ∧ l'.stop = some { tc := s.tide + word (propBound top), reason := 4#8, origin := BitVec.ofNat 10 h.rank }) ∧
      (∀ o, l.outcome = some o → o.slip = true → Answers apply fun t => t.mem = s.mem ∧
        (∃ l', t.launch k = some l' ∧ l'.offset = l.offset + 1024 ∧ l'.phase = l.phase ∧ l'.phaseSlips = l.phaseSlips + 1 ∧
          l'.timing.slip = l.timing.slip + 1 ∧ l'.sampled = false ∧ l'.votes = [] ∧ l'.voted = l.voted ∧ l'.outcome = none) ∧
        ∀ c ∈ l.cores, (t.core (coreOf c)).tp.tstat.getLsbD 1 = true) ∧
      (∀ o, l.outcome = some o → o.slip = false →
        let ended : Launch := { l with
          phase := l.phase + 1, phaseSlips := 0, sampled := false, votes := [], voted := [], outcome := none
          mark := if o.commit then some l.phase else l.mark }
        (o.commit = false → apply = .next (s.setLaunch k ended)) ∧
        (o.commit = true →
          let va := h.markLog.toNat + 32 * (l.phase % h.markSlots)
          let bs := leBytes 8 (l.phase % 2 ^ 16 * 2 ^ 48 + l.timing.slip % 2 ^ 32) ++ leBytes 8 l.key.toNat ++
            leBytes 8 (l.boundary h).toNat ++ leBytes 8 at_.toNat
          ∀ dpa leaf, s.walk l.ctx va = .ok dpa leaf → va % 65536 + 32 ≤ 65536 → PlainMemory s 0 dpa 32 → s.deepRejects dpa 32 = false →
            Answers apply fun t => t.launch k = some ended ∧ Written s.mem t.mem dpa bs ∧ t.cores = s.cores))) ∧
    (∀ y, l.stop = some y →
      (l.stopped = true ∨ s.tide < y.tc → exec (.coastStop n) s = .next s) ∧
      (l.stopped = false → y.tc ≤ s.tide → Answers (exec (.coastStop n) s) fun t =>
        t.launch k = some { l with stopped := true } ∧ t.mem = s.mem ∧ t.cores = s.cores ∧
        ∀ r ∈ l.loaded h, ∀ u ∈ r.2.uses, ∀ hp : u.1 < 12, (s.port ⟨u.1, hp⟩).trained = true → (t.port ⟨u.1, hp⟩).state = 4#3) ∧
      (s.tide < y.tc + word (drainBound top) → exec (.coastUnload n) s = .next s) ∧
      (y.tc + word (drainBound top) ≤ s.tide → s.harbourRuns = true → Answers (exec (.coastUnload n) s) fun t =>
        let q : QueueId := Fin.ofNat 6 l.queue
        let r1 := failWord 7#8 (BitVec.ofNat 56 (y.reason.toNat * 2 ^ 48 + y.origin.toNat * 2 ^ 32))
        t.launch k = none ∧ (t.queue q).failedSince = true ∧
        (∃ e : Entry, ((s.queue q).compNext, e) ∈ (t.queue q).owed ∧
          e = completion q l.tag 0x03 0x08 l.seq l.id r1 l.srTide l.dispatchTide s.tide l.timing.word) ∧
        (∀ c ∈ l.cores, (t.core (coreOf c)).tp.tstat.getLsbD 3 = true ∧
          (y.reason = 3#8 → (t.core (coreOf c)).tp.tstat.getLsbD 4 = true)))) ∧
    (l.stop = none → exec (.coastStop n) s = .next s ∧ exec (.coastUnload n) s = .next s)

/-! ### Power and heat -/

/-- DUTY_WINDOW, DUTY_GROUP and CAP_UNREACHABLE (R427, R430-R432, R438): at a window boundary the shares take their grants, the base draw always,
cores whose pattern reaches the window are gated and counted, a core whose ballast showed a mismatch is quarantined (R437; which it is, the
command says, log 115), and ageing steps that are due are made; at a group boundary the patterns
rise to what is needed and fall by at most 1, deterministic cores following the others; 500 ms of unmet cap, and then every 100 ms,
shed the lowest queue that has dispatched work. -/
def Obligations.TheCapIsSharedAndEnforced : Prop :=
  ∀ s : State, s.powered = true → s.harbourRuns = true →
    let p := s.power
    let det (c : CoreId) : Prop := ∃ x, s.launchOfCore c.val = some x ∧ x.2.deterministic = true
    (∀ r : PowerReading,
      let go := exec (.dutyWindow r) s
      let f := p.floorsNow
      let cap := p.capEff
      let l0 := max (min r.demandLinks f.links) r.base
      let m0 := min r.demandMemory f.memory
      let c0 := min r.demandCompute f.compute
      let left := cap - (l0 + m0 + c0)
      let c1 := c0 - ((l0 + m0 + c0) - cap)
      let la := min (r.demandLinks - l0) left
      let ma := min (r.demandMemory - m0) (left - la)
      (s.tide.toNat % 1024 ≠ 0 → go = .next s) ∧
      (s.tide.toNat % 1024 = 0 → Answers go fun t =>
        let g := t.power.grant
        (r.ballast = [] → OnlyPowerPorts s t ∧ t.mem = s.mem) ∧ t.hb.queues = s.hb.queues ∧ r.base ≤ g.links ∧
        (∀ c ∈ r.ballast, (t.sc c).run = .quarantined ∧ ∀ k l, s.launchOfCore c.val = some (k, l) →
          ∃ l', t.launch k = some l' ∧ l'.failure.isSome = true) ∧
        t.power.draws = (p.draws.filter fun x => s.since x.1 < second) ++ [(s.tide, r.draw)] ∧
        g.links + g.memory + g.compute ≤ max cap (l0 + m0) ∧
        (p.order = 0x24#6 → g.links = l0 + la ∧ g.memory = m0 + ma ∧ g.compute = c1 + min (r.demandCompute - c1) (left - la - ma)) ∧
        (∀ c : CoreId,
          let y := (t.core c).pw
          let pattern : Nat → Prop := fun n => 16 ≤ s.tide.toNat / 1024 % 16 + n
          (2 ≤ (s.isle (isleOf c)).heat.junctionStep → (y.gated = true ↔ pattern 15)) ∧
          ((s.isle (isleOf c)).heat.junctionStep < 2 → det c → (y.gated = true ↔ pattern p.dutyDet)) ∧
          ((s.isle (isleOf c)).heat.junctionStep < 2 → ¬det c → (y.gated = true ↔ pattern p.duty)) ∧
          y.dutyCnt = if y.gated then satInc (s.core c).pw.dutyCnt else (s.core c).pw.dutyCnt) ∧
        (∀ k l, s.launch k = some l → ∃ l', t.launch k = some l' ∧
          ((∃ c ∈ l.cores, (t.core (coreOf c)).pw.gated = true) → l'.timing.duty = l.timing.duty + 1) ∧
          (r.ballast = [] → (∀ c ∈ l.cores, (t.core (coreOf c)).pw.gated = false) → l' = l)) ∧
        (∀ i : IsleId,
          let h := (s.isle i).heat
          let due := h.ageingDue = true ∧ ∀ u, h.ageingAt = some u → 3600 * second ≤ s.since u
          (due → (t.isle i).heat = { h with ageing := h.ageing + 1, ageingAt := some s.tide, ageingDue := false } ∧
            mapFind i.val t.flash.ageing = some (h.ageing + 1)) ∧
          (¬due → (t.isle i).heat = h ∧ (r.ballast = [] → t.isle i = s.isle i))))) ∧
    (∀ (need needDet : BitVec 4) (mean : Nat),
      let go := exec (.dutyGroup need needDet mean) s
      let moved (old target new : Nat) : Prop := (old ≤ target → new = target) ∧ (target < old → new = old - 1)
      (s.tide.toNat % 16384 ≠ 0 → go = .next s) ∧
      (s.tide.toNat % 16384 = 0 → Answers go fun t =>
        let unmet := p.capEff < mean ∧ p.duty = 15 ∧ (p.dutyDet = 15 ∨ ∀ x ∈ s.hb.launches, x.2.deterministic = false)
        OnlyPowerPorts s t ∧ t.mem = s.mem ∧ t.hb = s.hb ∧
        (need = 15#4 → p.duty = 15 → moved p.dutyDet needDet.toNat t.power.dutyDet) ∧
        (need ≠ 15#4 ∨ p.duty ≠ 15 → moved p.dutyDet 0 t.power.dutyDet) ∧
        (0 < t.power.dutyDet → t.power.duty = 15) ∧ (t.power.dutyDet = 0 → moved p.duty need.toNat t.power.duty) ∧
        (unmet → t.power.unmet = some (p.unmet.getD (s.tide - 16384#64)) ∧ t.power.lastShed = p.lastShed) ∧
        (¬unmet → t.power.unmet = none ∧ t.power.lastShed = none) ∧
        ∀ c : CoreId, (p.duty = 0 ∧ 0 < t.power.duty ∧ ¬det c) ∨ (p.dutyDet = 0 ∧ 0 < t.power.dutyDet ∧ det c) →
          (t.core c).pw.evt.getLsbD 2 = true)) ∧
    (let due := ∃ u, p.unmet = some u ∧ (p.lastShed = none → s.passedUs u 500000 = true) ∧
       ∀ v, p.lastShed = some v → s.passedUs v 100000 = true
     (¬due ∨ (∀ q, s.launchesOf q = false) → exec .capUnreachable s = .next s) ∧
     (∀ q : QueueId, due → s.launchesOf q = true → (∀ z, q.val < z.val → s.launchesOf z = false) →
       Answers (exec .capUnreachable s) fun t =>
         t.queue q = { s.queue q with halted := true } ∧ (∀ z, z ≠ q → t.queue z = s.queue z) ∧ q.val ∈ t.power.shed ∧
         t.power.lastShed = some s.tide ∧ t.alarmed 0x0004#16 (BitVec.ofNat 16 q.val) ∧
         (∀ k l, s.launch k = some l → l.queue = q.val → ∃ l', t.launch k = some l' ∧ l'.failure.isSome = true ∧
           (l.failure = none → l'.failure = some { result := failWord 8#8 (BitVec.ofNat 56 (2 ^ 48)), tide := s.tide })) ∧
         ∀ c, (t.core c).pw.evt.getLsbD 3 = true))

/-- THERMAL_TOP_READ, JUNCTION_TEMPERATURE, NEAR_TEMPERATURE_READ and AGEING_CHECK (R288, R420, R421, R429, R433, R438): a profile takes effect
when a second read 100 ms later agrees, keeps POWER_CAP's setting and scales floors that no longer fit; a junction step or a stack's
band is entered at its temperature and left 2 °C below it; the highest raises an alarm; short margin asks for an ageing step, lowers
the boost ceiling at the limit, and at the guaranteed frequency makes the isle's cores unavailable. -/
def Obligations.ProfilesAndHeat : Prop :=
  ∀ s : State, s.powered = true → s.harbourRuns = true →
    let p := s.power
    let all (bit : Nat) (t : State) : Prop := ∀ c, (t.core c).pw.evt.getLsbD bit = true
    (∀ r : Option TopRecord,
      let good (x : TopRecord) : Prop := x.magic = 0x5054#16 ∧ x.version = 1#8 ∧ x.crcOk = true
      let reads (k : Nat) : Prop :=
        (∃ x, r = some x ∧ good x ∧ x.kind.toNat = s.lh.kind ∧ x.kind.toNat < 4 ∧ k = x.kind.toNat) ∨
        (k = 0 ∧ ∀ x, r = some x → good x → x.kind.toNat ≠ s.lh.kind ∨ 4 ≤ x.kind.toNat)
      Answers (exec (.thermalTopRead r) s) fun t =>
        OnlyPowerPorts s t ∧ t.mem = s.mem ∧ t.hb.queues = s.hb.queues ∧ t.power.cap = p.cap ∧
        (∀ x, r = some x → good x → t.power.rating = some x.ratingW.toNat) ∧
        ((∀ x, r = some x → ¬good x) → t.power.rating = none) ∧
        (t.power.capEff ≠ p.capEff → (t.power.profile = p.profile → all 1 t)) ∧
        ∀ k, reads k →
          (k = p.profile → t.power.profile = k ∧ t.power.topPending = none) ∧
          (k ≠ p.profile → (∀ u, p.topPending ≠ some (k, u)) → t.power.profile = p.profile ∧ t.power.topPending = some (k, s.tide)) ∧
          (∀ u, k ≠ p.profile → p.topPending = some (k, u) →
            (s.passedUs u 100000 = false → t.power.profile = p.profile ∧ t.power.topPending = p.topPending) ∧
            (s.passedUs u 100000 = true → t.power.profile = k ∧ t.power.topPending = none ∧ all 0 t ∧
              t.boot = { s.boot with config := configDigest t.commonMode k } ∧
              t.alarmed 0x0003#16 (BitVec.ofNat 16 k) ∧
              ∀ f, p.floors = some f →
                let sum := f.links + f.memory + f.compute
                let limit := profileLimit k
                (sum ≤ limit → t.power.floors = some f) ∧
                (limit < sum → t.power.floors = some
                  { links := f.links * limit / sum, memory := f.memory * limit / sum, compute := f.compute * limit / sum })))) ∧
    (∀ i : IsleId,
      let h := (s.isle i).heat
      let only (t : State) : Prop := OnlyPowerPorts s t ∧ t.mem = s.mem ∧ (∀ j, j ≠ i → t.isle j = s.isle j) ∧
        t.hb.queues = s.hb.queues ∧ ∀ c, isleOf c ≠ i → t.core c = s.core c
      (∀ v : BitVec 16, h.junctionStep ≤ 3 → Answers (exec (.junctionTemperature i v) s) fun t =>
        let new := (t.isle i).heat.junctionStep
        only t ∧ (t.isle i).heat = { h with junction := v, junctionStep := new } ∧ new ≤ 3 ∧
        (∀ (k : Nat) (entry : Int), (k, entry) ∈ [(1, 800), (2, 816), (3, 840)] →
          (k ≤ new ↔ entry ≤ v.toInt ∨ (k ≤ h.junctionStep ∧ entry - 16 < v.toInt))) ∧
        ((h.junctionStep = 0 ∧ 0 < new) ∨ (h.junctionStep < 2 ∧ 2 ≤ new) →
          ∀ c, isleOf c = i → (t.core c).pw.evt.getLsbD 4 = true) ∧
        (h.junctionStep < 3 → new = 3 → t.alarmed 0x0001#16 (BitVec.ofNat 16 i.val))) ∧
      (∀ t0 t1 : BitVec 8, h.band0 ≤ 3 → h.band1 ≤ 3 → Answers (exec (.nearTemperatureRead i t0 t1) s) fun t =>
        let y := (t.isle i).heat
        let banded (old new temp : Nat) : Prop := new ≤ 3 ∧
          ∀ k edge, (k, edge) ∈ [(1, 85), (2, 90), (3, 95)] → (k ≤ new ↔ edge ≤ temp ∨ (k ≤ old ∧ edge < temp + 2))
        only t ∧ y = { h with t0 := t0.toNat, t1 := t1.toNat, band0 := y.band0, band1 := y.band1 } ∧
        banded h.band0 y.band0 t0.toNat ∧ banded h.band1 y.band1 t1.toNat ∧
        (h.band0 ≠ 3 → y.band0 = 3 → t.alarmed 0x0002#16 (BitVec.ofNat 16 (2 * i.val))) ∧
        (h.band1 ≠ 3 → y.band1 = 3 → t.alarmed 0x0002#16 (BitVec.ofNat 16 (2 * i.val + 1)))) ∧
      (∀ short atGuaranteed : Bool, Answers (exec (.ageingCheck i short atGuaranteed) s) fun t =>
        let y := (t.isle i).heat
        only t ∧ y.ageing = h.ageing ∧
        (short = false → y.ageingDue = false ∧ y.ageingCut = h.ageingCut) ∧
        (short = true → h.ageing < 10 → y.ageingDue = true ∧ y.ageingCut = h.ageingCut) ∧
        (short = true → 10 ≤ h.ageing → y.ageingCut = min 25 (h.ageingCut + 1) ∧ y.ageingDue = h.ageingDue ∧
          ∀ c, isleOf c = i → (t.core c).pw.evt.getLsbD 5 = true) ∧
        (y.worn = true ↔ h.worn = true ∨ atGuaranteed = true) ∧
        (atGuaranteed = true → h.worn = false →
          t.alarmed 0x0007#16 (BitVec.ofNat 16 i.val) ∧ ∀ c, isleOf c = i → t.unavailable c = true)))

/-- WAKE_TOKEN_GRANT, S1, S2, S3 and S4 (R434, R435, R440): the first core that waits rises to its point once its isle's and the module's bucket
hold the tokens, and takes them from both; an isle without work is clock-gated, 1 ms later loses its lagoons, L1 and scratch ways; the
device whose isles have all been in S2 for 1 s enters S3, and 10 s later S4 with its Strait ports DOWN; each within the tolerance. -/
def Obligations.WakeTokensAndIdleStates : Prop :=
  ∀ s : State,
    (∀ (c : CoreId) (mhz : Nat),
      let x := (s.core c).pw
      let i := isleOf c
      let n := wakeTokensAt mhz - wakeTokensAt x.point
      let ok := x.want = some mhz ∧ s.clockFree c = true ∧ s.wakeBefore c = false ∧ n ≤ (s.isle i).tokens ∧ 2 * n ≤ s.power.tokens
      (¬ok → exec (.wakeTokenGrant c mhz) s = .next s) ∧
      (ok → Answers (exec (.wakeTokenGrant c mhz) s) fun t =>
        (t.core c).pw = { x with point := mhz, want := none } ∧ t.sc c = { s.sc c with run := (t.sc c).run } ∧ (∀ d, d ≠ c → t.core d = s.core d) ∧
        t.isle i = { s.isle i with tokens := (s.isle i).tokens - n } ∧ (∀ j, j ≠ i → t.isle j = s.isle j) ∧
        t.power = { s.power with tokens := s.power.tokens - 2 * n } ∧ t.mem = s.mem ∧
        ∀ k l, s.launchOfCore c.val = some (k, l) → ∃ l', t.launch k = some l' ∧
          (mooringLine s (s.sc c) = true → l'.timing.wake = true) ∧
          (l.deterministic = false → s.power.profile ≠ 0 → c.val ∈ l.posted → profileMhz s.power.profile < mhz → l'.timing.boost = true))) ∧
    (s.powered = true → s.harbourRuns = true →
      (∀ i : IsleId,
        let x := s.isle i
        let s1 := x.idle = 0 ∧ 2 ≤ s.power.tolerance ∧ s.isleIdle i = true
        let s2 := x.idle = 1 ∧ 80 ≤ s.power.tolerance ∧ s.passedUs x.idleSince 1000 = true
        (¬s1 → exec (.s1 i) s = .next s) ∧ (¬s2 → exec (.s2 i) s = .next s) ∧
        (s1 → Answers (exec (.s1 i) s) fun t => t.isle i = { x with idle := 1, idleSince := s.tide } ∧ OnlyPowerPorts s t ∧
          t.mem = s.mem ∧ t.hb = s.hb ∧ ∀ c, isleOf c = i → t.clocked c = false ∧ (t.core c).pw.point = 0) ∧
        (s2 → Answers (exec (.s2 i) s) fun t => t.isle i = { x with idle := 2, idleSince := s.tide } ∧ t.mem = s.mem ∧
          (∀ c, isleOf c = i → (t.sc c).lagoon = [] ∧ (t.sc c).l1 = [] ∧ (t.sc c).scratch = []) ∧
          ∀ c, isleOf c ≠ i → t.core c = s.core c)) ∧
      (let s3 := s.power.idle = 0 ∧ 15000 ≤ s.power.tolerance ∧ s.deviceIdle = true ∧
         ∀ i : IsleId, (s.isle i).idle = 2 ∧ s.passedUs (s.isle i).idleSince 1000000 = true
       let s4 := s.power.idle = 3 ∧ 400000 ≤ s.power.tolerance ∧ s.passedUs s.power.idleSince 10000000 = true
       (¬s3 → exec .s3 s = .next s) ∧ (¬s4 → exec .s4 s = .next s) ∧
       (s3 → exec .s3 s = .next { s with coves := [], power := { s.power with idle := 3, idleSince := s.tide } }) ∧
       (s4 → exec .s4 s = .next { s with
         power := { s.power with idle := 4, idleSince := s.tide }
         strait := { s.strait with ports := s.strait.ports.map fun x => { x with state := 0#3 } } })))

/-! ### The barriers and reporting -/

/-- LIMITER, LIMITER_RELEASE, LIGHTHOUSE_TRIP, HEARTBEAT and LIGHTHOUSE_SELF_CHECK (R446-R452): above 1.10 times the module limit at 48 V the limiter
stops every core clock and fails every launch, until the current is below the limit; a trip applies its stage of Table 15.2, is kept
among the last 16 and told to the sideband; the first stage loses Near, Mid, windows and lagoons and ends every launch in the SAFETY
class, which Harbour reports while it runs (under stage 2 the limiter acts alone, R448); a failed self-check raises LIGHTHOUSE_FAULT and leaves dispatched launches alone. -/
def Obligations.LimiterAndLighthouseAct : Prop :=
  ∀ s : State,
    (∀ amps : Nat,
      let limit := profileLimit s.power.profile
      let exceeds := s.power.on = true ∧ s.lh.limiter = false ∧ 110 * limit < 48 * amps
      let under := s.lh.limiter = true ∧ 48 * amps < 100 * limit
      (¬exceeds → exec (.limiter amps) s = .next s) ∧ (¬under → exec (.limiterRelease amps) s = .next s) ∧
      (exceeds → Answers (exec (.limiter amps) s) fun t =>
        t.lh = { s.lh with limiter := true } ∧ (∀ c, t.clocked c = false) ∧ OnlyPowerPorts s t ∧ t.hb.queues = s.hb.queues ∧
        (2 ≤ s.lh.clamp → t.hb = s.hb ∧ t.rep = s.rep) ∧
        (s.lh.clamp < 2 → t.alarmed 0x000c#16 0#16 ∧ ∀ k l, s.launch k = some l → ∃ l', t.launch k = some l' ∧ l'.failure.isSome = true ∧
          (l.failure = none → l'.failure = some { result := failWord 8#8 (BitVec.ofNat 56 (2 * 2 ^ 48)), tide := s.tide }))) ∧
      (under → Answers (exec (.limiterRelease amps) s) fun t =>
        t.lh = { s.lh with limiter := false } ∧ OnlyPowerPorts s t ∧ t.mem = s.mem ∧ t.hb = s.hb)) ∧
    (∀ (code : BitVec 8) (reading : Word),
      let r := reading.toNat
      let x := s.lh
      let limit := profileLimit x.kind
      let met := (code = 1#8 ∧ 115 * limit < 100 * r) ∨ ((code = 2#8 ∨ code = 5#8) ∧ 864 ≤ r) ∨ (code = 3#8 ∧ 760 ≤ r) ∨ code = 4#8 ∨
        (code = 6#8 ∧ s.passedUs x.beat 250000 = true) ∨ code = 7#8 ∨
        (code = 8#8 ∧ ((x.clamp = 1 ∧ limit < r) ∨ (x.clamp = 2 ∧ 450 < r)))
      let stage := if code.toNat ≤ 4 then 1 else if code.toNat ≤ 7 then 2 else 3
      let trip : Trip := { code := code, stage := stage, tide := s.tide, reading := reading, posted := false }
      let y : Lighthouse := { x with
        clamp := max x.clamp (min stage 2), shed := x.shed || stage = 3, code := code, count := x.count + 1
        trips := (x.trips ++ [trip]).drop (x.trips.length - 15) }
      let go := exec (.lighthouseTrip code reading) s
      (¬met ∨ s.power.on = false → go = .next s) ∧
      (met → s.power.on = true →
        (x.clamp ≠ 0 → go = .next ({ s with lh := y }.answer (.tripEvent trip))) ∧
        (x.clamp = 0 → Answers go fun t =>
          t.lh = y ∧ t.io.replies = s.io.replies ++ [.tripEvent trip] ∧ t.powered = false ∧
          (∀ a, byteAt t.mem a = if a < deepBase then unlistedByte else byteAt s.mem a) ∧ (∀ c, (t.sc c).lagoon = []) ∧
          (∀ i : IsleId, ∀ w ∈ (t.isle i).windows, w.2.opened = false) ∧
          (stage = 1 → s.harbourRuns = true → t.hb.launches = [] ∧ ∀ k l, s.launch k = some l → l.failure = none →
            ∃ n, (n, completion (Fin.ofNat 6 l.queue) l.tag 0x03 0x08 l.seq l.id (failWord 11#8 (code.setWidth 56)) l.srTide
              l.dispatchTide s.tide l.timing.word) ∈ (t.queue (Fin.ofNat 6 l.queue)).owed) ∧
          (2 ≤ stage → t.harbourRuns = false ∧ t.hb.queues = s.hb.queues ∧
            ∀ k l, s.launch k = some l → ∃ l', t.launch k = some l' ∧ l'.failure.isSome = true)))) ∧
    (s.power.on = true → s.lh.clamp < 2 →
      exec .heartbeat s = .next { s with lh := { s.lh with beat := s.tide } } ∧
      exec (.lighthouseSelfCheck true true true true) s = .next s ∧
      (∀ a b c d : Bool, (a && b && c && d) = false → Answers (exec (.lighthouseSelfCheck a b c d) s) fun t =>
        t.alarmed 0x000d#16 0#16 ∧ OnlyReports { s with lh := { s.lh with fault := true } } t)) ∧
    (s.power.on = false ∨ 2 ≤ s.lh.clamp → exec .heartbeat s = .next s ∧
      ∀ a b c d : Bool, exec (.lighthouseSelfCheck a b c d) s = .next s)

/-- ALARM_CLOSE, LOG_NOTICE, STORM, SELF_TEST and SELF_TEST_END (R455, R456, R459, R460, R463, R466): an identity closes 1 s after its last raise
once its latest entry is acknowledged; a notice is posted at most once a second for what was logged since the last; a storm entry
covers the interval that ends, and 1 s without loss closes the period; both wait for room; a quarantined core whose launch has ended
is tested, and then returns to service or, failing or quarantined three times in 24 hours, is withdrawn. -/
def Obligations.TimedReportsAndSelfTests : Prop :=
  ∀ s : State, s.harbourRuns = true →
    let r := s.rep
    let posted (e : Entry) (t : State) : Prop := (s.hb.events.next, e) ∈ t.hb.events.owed ∧ t.hb.events.next = s.hb.events.next + 1#32
    (∀ source code : BitVec 16,
      exec (.alarmClose source code) s = .next { s with rep := { r with alarms := r.alarms.filter fun a =>
        !(a.code = code && a.source = source && a.acked && !a.pendingRepeat && decide (second ≤ s.since a.lastTide)) } }) ∧
    (let early := ∃ u, r.noticeAt = some u ∧ s.since u < second
     (r.noticeFirst = none ∨ early → exec .logNotice s = .next s) ∧
     (∀ n, r.noticeFirst = some n → ¬early →
       (s.eventRoom 5 = true → Answers (exec .logNotice s) fun t =>
         posted (entry [5#64, word n, word (sat 16 r.noticeCrit * 2 ^ 16 + sat 16 r.noticeErr)]) t ∧
         t.rep.noticeFirst = none ∧ t.rep.noticeCrit = 0 ∧ t.rep.noticeErr = 0 ∧ t.rep.noticeAt = some s.tide ∧ OnlyReports s t) ∧
       (s.eventRoom 5 = false → Answers (exec .logNotice s) fun t =>
         t.rep.noticeFirst = r.noticeFirst ∧ t.rep.noticeCrit = r.noticeCrit ∧ t.rep.noticeErr = r.noticeErr ∧ t = { s with rep := t.rep }))) ∧
    (let x := r.storm
     let losing := s.since x.lastLoss ≤ s.since x.fromTide
     (x.opened = false ∨ s.since x.fromTide < second → exec .storm s = .next s) ∧
     (x.opened = true → second ≤ s.since x.fromTide →
       (¬losing → Answers (exec .storm s) fun t => t.rep.storm.opened = false ∧ t = { s with rep := t.rep }) ∧
       (losing → s.eventRoom 6 = false → exec .storm s = .next s) ∧
       (losing → s.eventRoom 6 = true → Answers (exec .storm s) fun t => posted s.stormEntry t ∧ OnlyReports s t ∧
         (t.rep.storm.opened = true ∨ second ≤ s.since x.lastLoss)) ∧
       s.stormEntry[1] = x.fromTide ∧ s.stormEntry[2] = s.tide ∧
       s.stormEntry[3] = word (sat 32 x.coalesced * 2 ^ 32 + sat 32 x.overflowed))) ∧
    (∀ c : CoreId, s.powered = true →
      let x := s.core c
      let due := x.sc.run = .quarantined ∧ x.health.testing = false ∧ x.health.withdrawn = false ∧ s.launchOfCore c.val = none
      let often := 3 ≤ (x.health.quarantines.filter fun u => s.since u < dayTicks).length
      let others (t : State) : Prop := t.mem = s.mem ∧ (∀ d, d ≠ c → t.core d = s.core d) ∧ t.hb.queues = s.hb.queues ∧
        (t.core c).pw = x.pw ∧ (t.core c).health.quarantines = x.health.quarantines
      (due → exec (.selfTest c) s =
        .next (s.setCore c { x with sc := { x.sc with opmode := 2#2 }, health := { x.health with testing := true } })) ∧
      (¬due → exec (.selfTest c) s = .next s) ∧
      (∀ ok : Bool,
        (x.health.testing = false → exec (.selfTestEnd c ok) s = .next s) ∧
        (x.health.testing = true → ok = true → ¬often → Answers (exec (.selfTestEnd c ok) s) fun t => others t ∧
          (t.sc c).run = .running ∧ (t.sc c).opmode = 0#2 ∧ (t.sc c).lagoon = [] ∧ (t.core c).health.testing = false ∧
          (t.core c).health.withdrawn = x.health.withdrawn ∧ t.alarmed 0x0005#16 (BitVec.ofNat 16 c.val)) ∧
        (x.health.testing = true → ok = false ∨ often → Answers (exec (.selfTestEnd c ok) s) fun t => others t ∧
          (t.core c).health.withdrawn = true ∧ (t.core c).health.testing = false ∧ c.val ∈ t.flash.withdrawn ∧ t.unavailable c = true ∧
          (t.sc c).run = x.sc.run ∧ t.alarmed 0x0006#16 (BitVec.ofNat 16 c.val))))

/-! ### Boot, identity, recovery and the module's interfaces -/

/-- BOOT_STAGES, MODULE_RESET, PWR_EN, INPUT_VOLTAGE and COOLING_KIND_DECODE (R450, R467-R470, R473-R475, R488, R493, R496, R508, R511): a PUF or part
record that fails halts stage 0; BOOT_FAILS is counted, and three failures, a request or an image that fails R473 enter recovery; at the
ready point the keys that the seed gives are held, BOOT_FAILS is cleared, MIN_SVN has risen to the image's SVN and every core is in
service mode; nothing boots under stage 2; a reset ends Clamp, except while SHED_REQ keeps stage 2 in force, keeps flash, trips, log and
traces and restarts all else; a power loss ends SHED_REQ too and keeps flash and trips alone. -/
def Obligations.BootAndResets : Prop :=
  ∀ s : State,
    let f := s.flash
    (∀ r : BootReading,
      let go := exec (.bootStages r) s
      let starts := s.power.on = true ∧ s.lh.clamp < 2 ∧ s.boot.phase = .stages
      let x := s.readSlot r.slotId
      let fails := (if r.securityRecordOk then f.bootFails else 0) + 1
      let svn := if r.securityRecordOk then f.minSvn else Config.svnFloor.toNat
      let u := x.bootRecords r
      let good := f.erased = false ∧ u.checkObject r.firmware r.verdict [0x0001] = 0#8
      let recovers := s.boot.askRecovery = true ∨ 3 ≤ fails ∨ ¬good
      (¬starts → go = .next s) ∧ x.io.slot = r.slotId ∧
      (starts → r.pufOk = false → go = .next (({ x with boot := { s.boot with phase := .pufFail } }).answer (.bootHalt true))) ∧
      (starts → r.pufOk = true → r.partRecordOk = false →
        go = .next (({ x with boot := { s.boot with phase := .partRecordFail } }).answer (.bootHalt false))) ∧
      (starts → r.pufOk = true → r.partRecordOk = true →
        u.flash.bootFails = fails ∧ u.flash.minSvn = svn ∧ u.flash.owner = (if r.ownerRecordOk then f.owner else none) ∧
        (recovers → go = .next { u with boot := { u.boot with phase := .recovery } }) ∧
        (¬recovers → Answers go fun t => t.boot.phase = .ready ∧ t.harbourRuns = true ∧ t.flash.bootFails = 0 ∧ t.io.slot = r.slotId ∧
          (∃ fw, t.boot.running = some fw ∧ t.flash.minSvn = max svn fw.svn ∧ t.boot.keys = some (keysOf Config.pufSeed (some fw)) ∧
            ∀ x, f.firmware = some x → fw = x) ∧
          (∀ c, (t.sc c).opmode = 0#2) ∧ (∀ x ∈ t.lh.trips, x.posted = true) ∧ t.lh.clamp = s.lh.clamp ∧ t.mem = s.mem ∧
          t.boot.map = mapDigest t.flash ∧ t.boot.config = configDigest 0 t.power.profile ∧
          (∀ c : CoreId, c.val ∈ t.flash.withdrawn → t.unavailable c = true) ∧ t.power.profile = s.topProfile r.top))) ∧
    let held := if s.lh.shed then 2 else 0
    (∀ flags : BitVec 8,
      let heard := s.serves = true ∨ s.lighthouseAnswers = true
      (¬heard → exec (.moduleReset flags) s = .next s) ∧
      (heard → flags.extractLsb' 1 7 ≠ 0#7 → exec (.moduleReset flags) s = .next (s.answer (.pldm .invalidData))) ∧
      (heard → flags.extractLsb' 1 7 = 0#7 → Answers (exec (.moduleReset flags) s) fun t =>
        t.io.replies = s.io.replies ++ [.pldm .success] ∧ t.flash = f ∧ t.pending = s.pending ∧ t.power.on = true ∧
        t.boot.phase = .stages ∧ t.boot.askRecovery = flags.getLsbD 0 ∧ t.tide = 0#64 ∧ t.mem = [] ∧ t.cores = [] ∧
        t.lh.clamp = held ∧ t.lh.shed = s.lh.shed ∧ t.lh.fault = false ∧ t.lh.trips = s.lh.trips ∧ t.lh.count = s.lh.count ∧
        (∀ q, t.queue q = Queue.reset) ∧ t.hb.launches = [] ∧ t.hb.fences = [] ∧ t.rep.log = s.rep.log ∧ t.rep.traces = s.rep.traces ∧
        t.rep.alarms.map (fun a => (a.code, a.source, a.count, a.acked)) =
          s.rep.alarms.map fun a => (a.code, a.source, a.count, a.acked))) ∧
    (let lost (t : State) : Prop := t.power.on = false ∧ t.powered = false ∧ t.flash = f ∧ t.lh.trips = s.lh.trips ∧
       t.lh.count = s.lh.count ∧ t.lh.clamp = 0 ∧ t.lh.shed = false ∧ t.since t.io.inputSince = s.since s.io.inputSince ∧
       t.rep = Report.reset ∧ t.mem = [] ∧ t.cores = [] ∧ t.pending = s.pending
     let up (t : State) : Prop := t.power.on = true ∧ t.boot.phase = .stages ∧ t.flash = f ∧ t.lh.trips = s.lh.trips ∧
       t.lh.clamp = held ∧ t.mem = [] ∧ t.cores = [] ∧ t.pending = s.pending
     let waited := s.passedUs s.io.inputSince 10000 = true
     let pin (b : Bool) : State := { s with io := { s.io with pwrEn := b } }
     let may := s.power.on = false ∧ s.io.inputOk = true ∧ waited
     (s.power.on = true → Answers (exec (.pwrEn false) s) lost) ∧ (s.power.on = false → exec (.pwrEn false) s = .next (pin false)) ∧
     (may → Answers (exec (.pwrEn true) s) up) ∧ (¬may → exec (.pwrEn true) s = .next (pin true)) ∧
     ∀ mv : Nat,
       let go := exec (.inputVoltage mv) s
       let cut := mv < 40000 ∨ 60000 < mv
       let fit := 44000 ≤ mv ∧ mv ≤ 58000
       (s.power.on = true → cut → Answers go lost) ∧ (s.power.on = true → ¬cut → go = .next s) ∧
       (s.power.on = false → ¬fit → go = .next { s with io := { s.io with inputOk := false } }) ∧
       (s.power.on = false → fit → s.io.inputOk = false →
         go = .next { s with io := { s.io with inputOk := true, inputSince := s.tide } }) ∧
       (fit → may → s.io.pwrEn = true → Answers go up) ∧
       (s.power.on = false → fit → s.io.inputOk = true → s.io.pwrEn = false ∨ ¬waited → go = .next s)) ∧
    (∀ straps : BitVec 2, ∀ absent : Bool,
      let kind := if absent then 0 else if straps = 0b01#2 then 1 else if straps = 0b10#2 then 2 else if straps = 0b00#2 then 3 else 0
      (s.power.on = true → exec (.coolingKindDecode straps absent) s = .next { s with lh := { s.lh with kind := kind } }) ∧
      (s.power.on = false → exec (.coolingKindDecode straps absent) s = .next s))

/-- SPDM_REQUEST, GET_MEASUREMENTS, GET_HSS_IDENTITY, GET_HSS_SIGNATURE, REQUEST_UPDATE and REQUEST_FIRMWARE_DATA (R473, R478-R484, R486, R487): what
is supported is answered and the rest is refused; under stage 2 a request on the sideband is not ready (R509); at most 4 sessions are open; an HSS index is used once, after a signed response on
the connection and within the rate; an object is accepted only when every check of R473 passes, before anything is erased. -/
def Obligations.AttestationAndUpdate : Prop :=
  ∀ (s : State) (b : Binding),
    (∀ (h : SignedHeader) (v : SigVerdict) (types : List Nat),
      let t := fld h.word0 47 32
      let svn := fld h.ver 63 32
      s.checkObject h v types = 0#8 ↔
        fld h.word0 31 0 = 0x4f53464b ∧ t ∈ types ∧ fld h.word0 63 48 = 0 ∧ fld h.len 63 40 = 0 ∧ h.reservedZero = true ∧
        fld h.len 39 0 = h.bytes ∧ v.digest = true ∧ v.ecdsa = true ∧ v.hss = true ∧
        ((h.target ≠ 0#64 ∧ h.target = Config.straitId) ∨ (h.target = 0#64 ∧ t ≠ 0x0002 ∧ t ≠ 0x0012)) ∧
        (t = 0x0001 ∨ t = 0x0002 → max s.flash.minSvn Config.svnFloor.toNat ≤ svn) ∧ (t ≠ 0x0001 → t ≠ 0x0002 → svn = 0)) ∧
    (s.harbourRuns = false →
      let no := if b = .i3c ∧ s.lighthouseAnswers = true then s.answer (.pldm .notReady) else s
      (∀ k, exec (.spdmRequest b k) s = .next no) ∧ (∀ n g, exec (.getMeasurements b n g) s = .next no) ∧
      exec (.getHssIdentity b) s = .next no ∧ (∀ ok, exec (.getHssSignature b ok) s = .next no) ∧ exec (.requestUpdate b) s = .next no) ∧
    (s.harbourRuns = true →
      let say (a : SpdmAnswer) : State := s.answer (.spdm b a)
      let signed (t : State) : State := { t with io := { t.io with signed := addOnce b s.io.signed } }
      (∀ (k : SpdmKind) (a : SpdmAnswer),
        (k, a) ∈ [(.getVersion, .version), (.getCapabilities, .capabilities), (.negotiateAlgorithms true, .algorithms),
          (.negotiateAlgorithms false, .unsupportedRequest), (.getCertificate 0#4, .certificate s.certChain), (.heartbeat, .heartbeatAck),
          (.keyUpdate, .keyUpdateAck), (.chunk, .chunk), (.psk, .unsupportedRequest), (.csr, .unsupportedRequest),
          (.setCertificate, .unsupportedRequest), (.other, .unsupportedRequest)] → exec (.spdmRequest b k) s = .next (say a)) ∧
      (∀ n, exec (.spdmRequest b (.getDigests n)) s = .next (say .digests)) ∧
      (∀ n, n ≠ 0#4 → exec (.spdmRequest b (.getCertificate n)) s = .next (say .invalidRequest)) ∧
      exec (.spdmRequest b .challenge) s = .next (signed (say .challengeAuth)) ∧
      (∀ ok, ok = false ∨ 4 ≤ s.io.sessions.length → exec (.spdmRequest b (.keyExchange ok)) s = .next (say .sessionRefused)) ∧
      (s.io.sessions.length < 4 → Answers (exec (.spdmRequest b (.keyExchange true)) s) fun t => ∃ id,
        t.io.sessions = s.io.sessions ++ [(b, id)] ∧ t.io.replies = s.io.replies ++ [.spdm b (.keyExchange id)] ∧
        t = { s with io := t.io, free := t.free }) ∧
      (∀ n, (b, n) ∈ s.io.sessions → exec (.spdmRequest b (.endSession n)) s =
        .next (({ s with io := { s.io with sessions := s.io.sessions.erase (b, n) } }).answer (.spdm b .endSession))) ∧
      (∀ n, (b, n) ∉ s.io.sessions → exec (.spdmRequest b (.endSession n)) s = .next (say .invalidRequest)) ∧
      (∀ (n : BitVec 8) (g : Bool),
        let go := exec (.getMeasurements b n g) s
        (8#8 < n → n ≠ 0xff#8 → go = .next (say .invalidRequest)) ∧
        (n = 0#8 → Answers go fun t => t.io.replies = s.io.replies ++ [.measurements b [{ index := 0, value := 8 }] g]) ∧
        (1#8 ≤ n → n ≤ 8#8 ∨ n = 0xff#8 → Answers go fun t => ∃ ms, t.io.replies = s.io.replies ++ [.measurements b ms g] ∧
          ms.map Measured.index = (if n = 0xff#8 then [1, 2, 3, 4, 5, 6, 7, 8] else [n.toNat]) ∧
          (∀ m ∈ ms, m.index = 3 → ∀ fw, s.boot.running = some fw → m.value = fw.svn) ∧
          (∀ m ∈ ms, m.index = 5 → m.value = s.boot.map.toNat) ∧ (∀ m ∈ ms, m.index = 7 → m.value = s.boot.config.toNat) ∧
          (∀ m ∈ ms, m.index = 6 → m.value = (s.flash.owner.getD 0#384).toNat) ∧
          (g = true → b ∈ t.io.signed) ∧ (g = false → t.io.signed = s.io.signed) ∧ t = { s with io := t.io })) ∧
      exec (.getHssIdentity b) s = .next (s.answer (.hssIdentity b)) ∧
      (∀ ok : Bool,
        let go := exec (.getHssSignature b ok) s
        let q := s.flash.hss
        let left := min (16 * second) (s.io.hssLevel + s.since s.io.hssAt)
        (b ∉ s.io.signed → go = .next (say .invalidRequest)) ∧ (b ∈ s.io.signed → left < second → go = .next (say .busy)) ∧
        (b ∈ s.io.signed → second ≤ left → ok = false → go = .next (say .unspecified)) ∧
        (b ∈ s.io.signed → second ≤ left → ok = true → q ≠ BitVec.allOnes 40 → go = .next
          (({ s with flash := { s.flash with hss := q + 1#40 },
                     io := { s.io with hssLevel := left - second, hssAt := s.tide } }).answer (.hssSignature b q)))) ∧
      (s.io.updating = true → exec (.requestUpdate b) s = .next (s.answer (.update .alreadyInUpdateMode))) ∧
      (s.io.updating = false →
        exec (.requestUpdate b) s = .next (({ s with io := { s.io with updating := true } }).answer (.update .accepted)))) ∧
    (∀ (h : SignedHeader) (v : SigVerdict) (d : BitVec 384) (ok : Bool),
      let go := exec (.requestFirmwareData h v d ok) s
      let done (f : Flash) (a : UpdateAnswer) : State :=
        ({ s with flash := f, io := { s.io with updating := false } }).answer (.update a)
      let fw : FwImage := { svn := fld h.ver 63 32, version := fld h.ver 31 0, digest := d }
      (s.harbourRuns = false ∨ s.io.updating = false → go = .next s) ∧
      (s.harbourRuns = true → s.io.updating = true →
        (s.checkObject h v [0x0001] ≠ 0#8 → go = .next (done s.flash .verifyFailed)) ∧
        (s.checkObject h v [0x0001] = 0#8 → ok = true →
          go = .next (done { s.flash with firmware := some fw, erased := false } .applyComplete)) ∧
        (s.checkObject h v [0x0001] = 0#8 → ok = false →
          go = .next (done { s.flash with firmware := none, erased := true } .applyFailed))))

/-- ANNOUNCE, OFFER, DATA_RECOVERY, READ_RESEND and SESSION_ABANDON (R487, R489-R491): in recovery a new SESSION is announced every second; the first
OFFER of it opens the session when its kind and total are allowed and the object has bytes, and up to 8 READs go out; DATA that answers one is held; the whole
object is checked, and firmware is written and the device resets itself, a DIAG image runs in recovery mode, an owner object is
stored; a READ is sent again after 100 ms, and 30 s without DATA end the session. -/
def Obligations.RecoverySessions : Prop :=
  ∀ s : State,
    let x? := s.boot.session
    let replies (rs : List Reply) (t : State) : Prop := t.io.replies = s.io.replies ++ rs
    (let ok := s.recovering = true ∧ x? = none ∧ s.io.server ≠ none ∧ ∀ u, s.boot.announcedAt = some u → second ≤ s.since u
     (¬ok → exec .announce s = .next s) ∧
     (ok → Answers (exec .announce s) fun t => ∃ id, t.boot = { s.boot with announced := some id, announcedAt := some s.tide } ∧
       s.boot.announced ≠ some id ∧ replies [.recovery 1#8 id 0#8 0 0] t ∧ t.flash = s.flash)) ∧
    (∀ (id : BitVec 32) (kind : BitVec 8) (total : Word),
      let go := exec (.offer id kind total) s
      let n := total.toNat
      let ok := s.recovering = true ∧ x? = none ∧ s.boot.announced = some id
      let limit := if kind = 2#8 then 65536 else 67108864
      let ended (res : BitVec 8) : State :=
        ({ s with boot := { s.boot with session := none, announced := none } }).answer (.recovery 5#8 id res 0 0)
      let reads := (List.range (min 8 ((n + 1023) / 1024))).map fun i => (1024 * i, s.tide)
      (¬ok → go = .next s) ∧ (ok → 2#8 < kind → go = .next (ended 6#8)) ∧ (ok → kind ≤ 2#8 → limit < n → go = .next (ended 3#8)) ∧
      (ok → kind ≤ 2#8 → n = 0 → go = .next (ended 1#8)) ∧ (ok → kind ≤ 2#8 → 0 < n → n ≤ limit → Answers go fun t =>
        let y : Session := { id := id, kind := kind, total := n, held := [], reads := reads, lastData := s.tide }
        t.boot = { s.boot with session := some y } ∧
        replies (reads.map fun r => .recovery 3#8 id 0#8 r.1 (min 1024 (n - r.1))) t ∧ t.flash = s.flash)) ∧
    (∀ (id : BitVec 32) (offset : Word) (len : BitVec 16) (h : SignedHeader) (v : SigVerdict) (body : BitVec 384) (ok : Bool),
      let go := exec (.dataRecovery id offset len h v body ok) s
      let off := offset.toNat
      (x? = none → go = .next s) ∧
      (∀ x, x? = some x →
        let mine := s.recovering = true ∧ x.id = id ∧ (∃ r ∈ x.reads, r.1 = off) ∧ len.toNat = min 1024 (x.total - off)
        let sum := (x.held.map Prod.snd).sum + len.toNat
        let hdr : SignedHeader := { h with bytes := x.total - 3828 }
        let types := if x.kind = 0#8 then [0x0001] else if x.kind = 1#8 then [0x0002] else [0x0011, 0x0012]
        let res := s.checkObject hdr v types
        let result (r : BitVec 8) : List Reply := [.recovery 5#8 id r 0 0]
        let fw : FwImage := { svn := fld h.ver 63 32, version := fld h.ver 31 0, digest := body }
        (¬mine → go = .next s) ∧
        (mine → sum < x.total → Answers go fun t => ∃ y, t.boot = { s.boot with session := some y } ∧ y.lastData = s.tide ∧
          y.held = x.held ++ [(off, len.toNat)] ∧ (∀ r ∈ x.reads, r.1 ≠ off → r ∈ y.reads) ∧ t.flash = s.flash) ∧
        (mine → x.total ≤ sum →
          (res ≠ 0#8 → Answers go fun t => t.boot.session = none ∧ t.boot.phase = s.boot.phase ∧ t.flash = s.flash ∧ replies (result res) t) ∧
          (res = 0#8 → x.kind = 0#8 → ok = true → Answers go fun t => t.boot = Boot.reset ∧ replies (result 0#8) t ∧
            (s.lh.shed = false → t.lh.clamp = 0) ∧ t.mem = [] ∧ t.flash = { s.flash with firmware := some fw, erased := false }) ∧
          (res = 0#8 → x.kind = 0#8 → ok = false → Answers go fun t => t.boot.session = none ∧ replies (result 5#8) t ∧
            t.flash = { s.flash with firmware := none, erased := true }) ∧
          (res = 0#8 → x.kind = 1#8 → Answers go fun t => t.boot.phase = .diag ∧ replies (result 0#8) t ∧ t.flash = s.flash ∧
            ∀ c, (t.sc c).opmode = 3#2) ∧
          (res = 0#8 → x.kind = 2#8 → ok = true → Answers go fun t => t.boot.session = none ∧ replies (result 0#8) t ∧
            t.flash = { s.flash with owner := if fld h.word0 47 32 = 0x0011 then some body else none })))) ∧
    (∀ (x : Session) (offset : Word), x? = some x →
      let off := offset.toNat
      let go := exec (.readResend offset) s
      (∀ r, x.reads.find? (fun r => r.1 = off) = some r → s.recovering = true → s.passedUs r.2 100000 = true →
        Answers go fun t => replies [.recovery 3#8 x.id 0#8 off (min 1024 (x.total - off))] t ∧
          let again : Session := { x with reads := x.reads.map fun y => if y.1 = off then (off, s.tide) else y }
          t.boot = { s.boot with session := some again }) ∧
      ((∀ r, x.reads.find? (fun r => r.1 = off) = some r → s.passedUs r.2 100000 = false) → go = .next s) ∧
      (s.recovering = true → s.passedUs x.lastData 30000000 = true →
        exec .sessionAbandon s = .next { s with boot := { s.boot with session := none, announced := none } }) ∧
      (s.recovering = false ∨ s.passedUs x.lastData 30000000 = false → exec .sessionAbandon s = .next s))

/-- PLDM_REQUEST, SETDASA, SET_NET, GET_NET, SET_RECOVERY, GET_TRIPS, MCTP_CONTROL, ARP_REQUEST, DHCP and AUTO_NEGOTIATION (R325, R500, R505-R507,
R509): Harbour answers the sideband; under stage 2 the Lighthouse answers GetTID, GET_TRIPS and MCTP control, and all else is not ready;
a bad configuration changes nothing, and a good one is kept and applied, closing the queue pairs of the old address; a port answers
ARP for its own addresses, takes a lease in DHCP mode and the link's speed. -/
def Obligations.SidebandAndHostPorts : Prop :=
  ∀ s : State,
    let harbour := s.serves = true
    let house := s.serves = false ∧ s.lighthouseAnswers = true
    let neither := s.serves = false ∧ s.lighthouseAnswers = false
    let busy := s.answer (.pldm .notReady)
    let moved (port : Nat) (n : NetConfig) (t : State) : Prop :=
      t.io.net = mapSet port n s.io.net ∧ t.hb.hello = none ∧ t.hb.lastCmd = none ∧
      t.hb.qps = s.hb.qps.filter (fun x => x.2.port != decide (port = 1)) ∧ t.hb.queues = s.hb.queues
    (∀ (i : Instr) (r : Reply), (i, r) ∈ [(.pldmRequest .getTid, .pldm .tid), (.getTrips, .trips s.lh.trips),
        (.mctpControl .i3c, .mctp .i3c)] →
      (harbour ∨ house → exec i s = .next (s.answer r)) ∧ (neither → exec i s = .next s)) ∧
    (∀ (i : Instr) (r : Reply), (i, r) ∈ [(.pldmRequest .otherBase, .pldm .base), (.pldmRequest .pdr, .pldm .pdr),
        (.pldmRequest (.stateSensor false), .pldm (.profileSensor s.power.profile)),
        (.pldmRequest (.stateSensor true), .pldm (.lighthouseSensor
          (if s.lh.shed then 3 else if s.lh.clamp ≠ 0 then s.lh.clamp else if s.lh.fault then 4 else 0)))] →
      (harbour → exec i s = .next (s.answer r)) ∧ (house → exec i s = .next busy) ∧ (neither → exec i s = .next s)) ∧
    (∀ id, (harbour → Answers (exec (.pldmRequest (.numericSensor id)) s) fun t => ∃ n,
        t = ({ s with free := t.free }).answer (.pldm (.numericSensor id n))) ∧
      (house → exec (.pldmRequest (.numericSensor id)) s = .next busy)) ∧
    (∀ a, (s.power.on = true → exec (.setdasa a) s = .next { s with io := { s.io with i3c := some a } }) ∧
      (s.power.on = false → exec (.setdasa a) s = .next s)) ∧
    (∀ (port : BitVec 8) (n : NetConfig),
      let ok := port < 2#8 ∧ n.mode < 2#8 ∧ n.prefix4.toNat ≤ 32 ∧ n.prefix6.toNat ≤ 128
      (house → exec (.setNet port n) s = .next busy ∧ exec (.getNet port) s = .next busy) ∧
      (neither → exec (.setNet port n) s = .next s ∧ exec (.getNet port) s = .next s) ∧
      (harbour → ¬ok → exec (.setNet port n) s = .next (s.answer (.pldm .invalidData))) ∧
      (harbour → ok → Answers (exec (.setNet port n) s) fun t => moved port.toNat n.applied t ∧
        (n.mode = 0#8 → n.applied = n) ∧ t.io.replies = s.io.replies ++ [.pldm .success] ∧ t.mem = s.mem ∧ t.cores = s.cores ∧
        (s.boot.phase = .ready → t.flash = { s.flash with net := mapSet port.toNat n s.flash.net })) ∧
      (harbour → 2#8 ≤ port → exec (.getNet port) s = .next (s.answer (.pldm .invalidData))) ∧
      (harbour → port < 2#8 → mapFind port.toNat s.io.net = some n →
        exec (.getNet port) s = .next (s.answer (.netConfig port.toNat n (Config.mac port.toNat))))) ∧
    (∀ a, (harbour → exec (.setRecovery a) s = .next (({ s with io := { s.io with server := some a } }).answer (.pldm .success))) ∧
      (house → exec (.setRecovery a) s = .next busy) ∧ (neither → exec (.setRecovery a) s = .next s)) ∧
    (∀ a, (s.harbourRuns = true → exec (.mctpControl (.ethernet a)) s = .next (s.answer (.mctp (.ethernet a)))) ∧
      (s.harbourRuns = false → exec (.mctpControl (.ethernet a)) s = .next s)) ∧
    (∀ (port : Bool) (n : NetConfig), s.netOf port = some n → harbour →
      (∀ target : BitVec 128,
        let mine := (n.ipv4 ≠ 0#32 ∧ target = n.ipv4.setWidth 128) ∨ (n.ipv6 ≠ 0#128 ∧ target = n.ipv6)
        (mine → exec (.arpRequest port target) s = .next (s.answer (.arp port target))) ∧
        (¬mine → exec (.arpRequest port target) s = .next s)) ∧
      (∀ lease : Option (BitVec 32 × BitVec 8 × BitVec 32),
        let l := lease.getD (0#32, 0#8, 0#32)
        (n.mode ≠ 1#8 ∨ (n.ipv4, n.prefix4, n.gateway4) = l → exec (.dhcp port lease) s = .next s) ∧
        (n.mode = 1#8 → (n.ipv4, n.prefix4, n.gateway4) ≠ l → Answers (exec (.dhcp port lease) s)
          (moved (if port then 1 else 0) { n with ipv4 := l.1, prefix4 := l.2.1, gateway4 := l.2.2 })))) ∧
    (∀ (port : Bool) (gbps : Option Nat),
      let k := if port then 1 else 0
      (s.serves = false → exec (.autoNegotiation port gbps) s = .next s) ∧
      (harbour → Answers (exec (.autoNegotiation port gbps) s) fun t => t = { s with io := { s.io with link := t.io.link } } ∧
        (∀ g, gbps = some g → g ∈ [400, 200, 100] → mapFind k t.io.link = some g) ∧
        ((∀ g, gbps = some g → g ∉ [400, 200, 100]) → mapFind k t.io.link = none)))
end

