-- ==== Sys2Proof/Laws/State.lean ====
section
/-! SUPPORT. Laws of sparse maps, byte memories, accessors and the issue of an instruction: one lemma per operation, for proofs
to cite in place of its definition. -/

namespace Sys2Proof.Machine

/-! ### Sparse maps -/

@[simp] theorem mapGet_mapSet_self {α : Type} (d : α) (k : Nat) (a : α) (m : Map α) : mapGet d k (mapSet k a m) = a := by
  induction m with
  | nil => simp [mapSet, mapGet]
  | cons x t ih =>
    obtain ⟨i, b⟩ := x
    by_cases h : i = k
    · simp [mapSet, mapGet, h]
    · by_cases h' : k < i <;> simp [mapSet, mapGet, h, h', ih]

theorem mapGet_mapSet_ne {α : Type} (d : α) {j k : Nat} (a : α) (m : Map α) (h : j ≠ k) :
    mapGet d j (mapSet k a m) = mapGet d j m := by
  induction m with
  | nil => simp [mapSet, mapGet, Ne.symm h]
  | cons x t ih =>
    obtain ⟨i, b⟩ := x
    by_cases hi : i = k
    · subst hi; simp [mapSet, mapGet, Ne.symm h]
    · by_cases h' : k < i
      · simp [mapSet, mapGet, hi, h', Ne.symm h]
      · by_cases hj : i = j
        · subst hj; simp only [mapSet, hi, if_false, h', mapGet, if_true]
        · simp only [mapSet, hi, if_false, h', mapGet, hj, ih]

@[simp] theorem mapSet_mapSet {α : Type} (k : Nat) (a b : α) (m : Map α) : mapSet k a (mapSet k b m) = mapSet k a m := by
  induction m with
  | nil => simp [mapSet]
  | cons x t ih =>
    obtain ⟨i, c⟩ := x
    by_cases h : i = k
    · simp [mapSet, h]
    · by_cases h' : k < i <;> simp [mapSet, h, h', ih]

@[simp] theorem mapFind_mapSet_self {α : Type} (k : Nat) (a : α) (m : Map α) : mapFind k (mapSet k a m) = some a := by
  induction m with
  | nil => simp [mapSet, mapFind]
  | cons x t ih =>
    obtain ⟨i, b⟩ := x
    by_cases h : i = k
    · simp [mapSet, mapFind, h]
    · by_cases h' : k < i <;> simp [mapSet, mapFind, h, h', ih]

theorem mapFind_mapSet_ne {α : Type} {j k : Nat} (a : α) (m : Map α) (h : j ≠ k) :
    mapFind j (mapSet k a m) = mapFind j m := by
  induction m with
  | nil => simp [mapSet, mapFind, Ne.symm h]
  | cons x t ih =>
    obtain ⟨i, b⟩ := x
    by_cases hi : i = k
    · subst hi; simp [mapSet, mapFind, Ne.symm h]
    · by_cases h' : k < i
      · simp [mapSet, mapFind, hi, h', Ne.symm h]
      · by_cases hj : i = j
        · subst hj; simp only [mapSet, hi, if_false, h', mapFind, if_true]
        · simp only [mapSet, hi, if_false, h', mapFind, hj, ih]

theorem mapGet_mapErase_self {α : Type} (d : α) (k : Nat) (m : Map α) : mapGet d k (mapErase k m) = d := by
  induction m with
  | nil => simp [mapErase, mapGet]
  | cons x t ih =>
    obtain ⟨i, b⟩ := x
    by_cases h : i = k
    · simpa [mapErase, h] using ih
    · simpa [mapErase, h, mapGet] using ih

theorem mapGet_mapErase_ne {α : Type} (d : α) {j k : Nat} (m : Map α) (h : j ≠ k) :
    mapGet d j (mapErase k m) = mapGet d j m := by
  induction m with
  | nil => simp [mapErase, mapGet]
  | cons x t ih =>
    obtain ⟨i, b⟩ := x
    by_cases hi : i = k
    · subst hi; simpa [mapErase, mapGet, Ne.symm h] using ih
    · by_cases hj : i = j
      · subst hj; simp [mapErase, mapGet, hi]
      · simpa [mapErase, hi, mapGet, hj] using ih

/-! ### Byte memories -/

@[simp] theorem byteAt_setByte_self (m : Bytes) (a : Nat) (b : Byte) : byteAt (setByte m a b) a = b := by
  unfold byteAt setByte
  split
  · next h => rw [mapGet_mapErase_self, h]
  · rw [mapGet_mapSet_self]

theorem byteAt_setByte_ne (m : Bytes) {a a' : Nat} (b : Byte) (h : a' ≠ a) : byteAt (setByte m a b) a' = byteAt m a' := by
  unfold byteAt setByte
  split
  · exact mapGet_mapErase_ne _ _ h
  · exact mapGet_mapSet_ne _ _ _ h

/-- A write changes no byte outside its range. -/
theorem byteAt_writeBytes_out (bs : List Byte) : ∀ (m : Bytes) (a x : Nat), x < a ∨ a + bs.length ≤ x →
    byteAt (writeBytes m a bs) x = byteAt m x := by
  induction bs with
  | nil => intros; rfl
  | cons b t ih =>
    intro m a x h
    rw [writeBytes, ih _ _ _ (by simp only [List.length_cons] at h; omega), byteAt_setByte_ne]
    simp only [List.length_cons] at h; omega

/-- A read after a write of the same range gives the bytes written. -/
theorem readBytes_writeBytes (bs : List Byte) : ∀ (m : Bytes) (a : Nat), readBytes (writeBytes m a bs) a bs.length = bs := by
  induction bs with
  | nil => intros; rfl
  | cons b t ih =>
    intro m a
    simp only [writeBytes, List.length_cons, readBytes, ih]
    rw [byteAt_writeBytes_out _ _ _ _ (by omega), byteAt_setByte_self]

theorem bytesFrom_mono {lo lo' : Nat} (h : lo' ≤ lo) : ∀ {m : Bytes}, bytesFrom lo m = true → bytesFrom lo' m = true
  | [], _ => rfl
  | (a, b) :: t, hm => by
    simp only [bytesFrom, Bool.and_eq_true, decide_eq_true_eq] at hm ⊢
    exact ⟨⟨by omega, hm.1.2⟩, hm.2⟩

theorem bytesFrom_mapErase (a : Nat) : ∀ (lo : Nat) (m : Bytes), bytesFrom lo m = true → bytesFrom lo (mapErase a m) = true := by
  intro lo m
  induction m generalizing lo with
  | nil => intro _; rfl
  | cons x t ih =>
    obtain ⟨i, b⟩ := x
    intro h
    simp only [bytesFrom, Bool.and_eq_true, decide_eq_true_eq] at h
    by_cases hi : i = a
    · subst hi
      have := ih lo (bytesFrom_mono (by omega) h.2)
      simpa [mapErase] using this
    · have := ih _ h.2
      simp only [mapErase] at this
      simp [mapErase, hi, bytesFrom, h.1.1, h.1.2, this]

theorem bytesFrom_mapSet (a : Nat) (b : Byte) (hb : b ≠ unlistedByte) : ∀ (lo : Nat) (m : Bytes), lo ≤ a →
    bytesFrom lo m = true → bytesFrom lo (mapSet a b m) = true := by
  intro lo m
  induction m generalizing lo with
  | nil => intro h _; simp [mapSet, bytesFrom, h, hb]
  | cons x t ih =>
    obtain ⟨i, d⟩ := x
    intro ha h
    simp only [bytesFrom, Bool.and_eq_true, decide_eq_true_eq] at h
    by_cases hi : i = a
    · subst hi; simp [mapSet, bytesFrom, ha, hb, h.2]
    · by_cases h' : a < i
      · simp only [mapSet, hi, if_false, h', if_true, bytesFrom, Bool.and_eq_true, decide_eq_true_eq]
        exact ⟨⟨ha, by simpa using hb⟩, ⟨by omega, h.1.2⟩, h.2⟩
      · simp only [mapSet, hi, if_false, h', bytesFrom, Bool.and_eq_true, decide_eq_true_eq]
        exact ⟨h.1, ih _ (by omega) h.2⟩

/-- A one-byte write keeps the canonical form. -/
theorem setByte_wf {m : Bytes} (a : Nat) (b : Byte) (h : m.wf = true) : (setByte m a b).wf = true := by
  unfold setByte
  split
  · exact bytesFrom_mapErase a 0 m h
  · next hb => exact bytesFrom_mapSet a b hb 0 m (Nat.zero_le _) h

/-- A write keeps the canonical form. -/
theorem writeBytes_wf (bs : List Byte) : ∀ {m : Bytes} (a : Nat), m.wf = true → (writeBytes m a bs).wf = true := by
  induction bs with
  | nil => intro _ _ h; exact h
  | cons b t ih => intro m a h; exact ih _ (setByte_wf a b h)

/-- A masked write keeps the canonical form. -/
theorem writeMasked_wf (bs : List Byte) : ∀ {m : Bytes} (a mask : Nat), m.wf = true → (writeMasked m a mask bs).wf = true := by
  induction bs with
  | nil => intro _ _ _ h; exact h
  | cons b t ih =>
    intro m a mask h
    rw [writeMasked]
    apply ih
    split
    · exact setByte_wf a b h
    · exact h

theorem bytesFrom_filter (p : Nat × Byte → Bool) : ∀ (lo : Nat) (m : Bytes), bytesFrom lo m = true → bytesFrom lo (m.filter p) = true := by
  intro lo m
  induction m generalizing lo with
  | nil => intro _; rfl
  | cons x t ih =>
    obtain ⟨i, b⟩ := x
    intro h
    simp only [bytesFrom, Bool.and_eq_true, decide_eq_true_eq] at h
    by_cases hp : p (i, b) = true
    · rw [List.filter_cons_of_pos hp]
      simp only [bytesFrom, Bool.and_eq_true, decide_eq_true_eq]
      exact ⟨h.1, ih _ h.2⟩
    · rw [List.filter_cons_of_neg hp]
      exact ih lo (bytesFrom_mono (by omega) h.2)

/-- Zeroing a range keeps the canonical form. -/
theorem zeroBytes_wf {m : Bytes} (a n : Nat) (h : m.wf = true) : (zeroBytes m a n).wf = true := bytesFrom_filter _ 0 m h

/-- Reset memory is in canonical form. -/
theorem reset_bytesWf : State.reset.bytesWf = true := rfl

/-! ### Vectors -/

theorem vget_set_self {α : Type} {n : Nat} (v : Vector α n) (i : Fin n) (x : α) : (v.set i x).get i = x := by
  show (v.set i x)[i] = x
  simp

theorem vget_set_ne {α : Type} {n : Nat} (v : Vector α n) {i j : Fin n} (x : α) (h : j ≠ i) : (v.set i x).get j = v.get j := by
  have : i.val ≠ j.val := fun e => h (Fin.ext e.symm)
  show (v.set i x)[j] = v[j]
  simp [this]

/-! ### Accessors: one lemma per field per update -/

@[simp] theorem core_setCore_self (s : State) (c : CoreId) (x : Core) : (s.setCore c x).core c = x := mapGet_mapSet_self _ _ _ _

theorem core_setCore_ne (s : State) {c d : CoreId} (x : Core) (h : d ≠ c) : (s.setCore c x).core d = s.core d :=
  mapGet_mapSet_ne _ _ _ fun e => h (Fin.ext e)

@[simp] theorem setCore_setCore (s : State) (c : CoreId) (x y : Core) : (s.setCore c x).setCore c y = s.setCore c y := by
  simp [State.setCore]

@[simp] theorem sc_setCore_self (s : State) (c : CoreId) (x : Core) : (s.setCore c x).sc c = x.sc := by simp [State.sc]
@[simp] theorem vec_setCore_self (s : State) (c : CoreId) (x : Core) : (s.setCore c x).vec c = x.vec := by simp [State.vec]
@[simp] theorem mx_setCore_self (s : State) (c : CoreId) (x : Core) : (s.setCore c x).mx c = x.mx := by simp [State.mx]

@[simp] theorem setCore_isles (s : State) (c : CoreId) (x : Core) : (s.setCore c x).isles = s.isles := rfl
@[simp] theorem setCore_mem (s : State) (c : CoreId) (x : Core) : (s.setCore c x).mem = s.mem := rfl
@[simp] theorem setCore_coves (s : State) (c : CoreId) (x : Core) : (s.setCore c x).coves = s.coves := rfl
@[simp] theorem setCore_marks (s : State) (c : CoreId) (x : Core) : (s.setCore c x).marks = s.marks := rfl
@[simp] theorem setCore_frames (s : State) (c : CoreId) (x : Core) : (s.setCore c x).frames = s.frames := rfl
@[simp] theorem setCore_deep (s : State) (c : CoreId) (x : Core) : (s.setCore c x).deep = s.deep := rfl
@[simp] theorem setCore_hb (s : State) (c : CoreId) (x : Core) : (s.setCore c x).hb = s.hb := rfl
@[simp] theorem setCore_tide (s : State) (c : CoreId) (x : Core) : (s.setCore c x).tide = s.tide := rfl
@[simp] theorem setCore_strait (s : State) (c : CoreId) (x : Core) : (s.setCore c x).strait = s.strait := rfl
@[simp] theorem setCore_rep (s : State) (c : CoreId) (x : Core) : (s.setCore c x).rep = s.rep := rfl
@[simp] theorem setCore_power (s : State) (c : CoreId) (x : Core) : (s.setCore c x).power = s.power := rfl
@[simp] theorem setCore_lh (s : State) (c : CoreId) (x : Core) : (s.setCore c x).lh = s.lh := rfl
@[simp] theorem setCore_flash (s : State) (c : CoreId) (x : Core) : (s.setCore c x).flash = s.flash := rfl
@[simp] theorem setCore_boot (s : State) (c : CoreId) (x : Core) : (s.setCore c x).boot = s.boot := rfl
@[simp] theorem setCore_io (s : State) (c : CoreId) (x : Core) : (s.setCore c x).io = s.io := rfl
@[simp] theorem setCore_free (s : State) (c : CoreId) (x : Core) : (s.setCore c x).free = s.free := rfl
@[simp] theorem setCore_pending (s : State) (c : CoreId) (x : Core) : (s.setCore c x).pending = s.pending := rfl
@[simp] theorem setCore_isle (s : State) (c : CoreId) (x : Core) (i : IsleId) : (s.setCore c x).isle i = s.isle i := rfl

@[simp] theorem setHb_cores (s : State) (f : Harbour → Harbour) : (s.updHb f).cores = s.cores := rfl
@[simp] theorem setHb_mem (s : State) (f : Harbour → Harbour) : (s.updHb f).mem = s.mem := rfl
@[simp] theorem setHb_pending (s : State) (f : Harbour → Harbour) : (s.updHb f).pending = s.pending := rfl
@[simp] theorem setHb_lh (s : State) (f : Harbour → Harbour) : (s.updHb f).lh = s.lh := rfl
@[simp] theorem setHb_coves (s : State) (f : Harbour → Harbour) : (s.updHb f).coves = s.coves := rfl
@[simp] theorem setHb_marks (s : State) (f : Harbour → Harbour) : (s.updHb f).marks = s.marks := rfl
@[simp] theorem setHb_frames (s : State) (f : Harbour → Harbour) : (s.updHb f).frames = s.frames := rfl
@[simp] theorem setHb_deep (s : State) (f : Harbour → Harbour) : (s.updHb f).deep = s.deep := rfl
@[simp] theorem setHb_tide (s : State) (f : Harbour → Harbour) : (s.updHb f).tide = s.tide := rfl
@[simp] theorem setHb_strait (s : State) (f : Harbour → Harbour) : (s.updHb f).strait = s.strait := rfl
@[simp] theorem setHb_rep (s : State) (f : Harbour → Harbour) : (s.updHb f).rep = s.rep := rfl
@[simp] theorem setHb_power (s : State) (f : Harbour → Harbour) : (s.updHb f).power = s.power := rfl
@[simp] theorem setHb_flash (s : State) (f : Harbour → Harbour) : (s.updHb f).flash = s.flash := rfl
@[simp] theorem setHb_boot (s : State) (f : Harbour → Harbour) : (s.updHb f).boot = s.boot := rfl
@[simp] theorem setHb_io (s : State) (f : Harbour → Harbour) : (s.updHb f).io = s.io := rfl
@[simp] theorem setHb_free (s : State) (f : Harbour → Harbour) : (s.updHb f).free = s.free := rfl
@[simp] theorem setHb_isles (s : State) (f : Harbour → Harbour) : (s.updHb f).isles = s.isles := rfl
@[simp] theorem setHb_hb (s : State) (f : Harbour → Harbour) : (s.updHb f).hb = f s.hb := rfl

@[simp] theorem setIsle_cores (s : State) (i : IsleId) (x : Isle) : (s.setIsle i x).cores = s.cores := rfl
@[simp] theorem setIsle_mem (s : State) (i : IsleId) (x : Isle) : (s.setIsle i x).mem = s.mem := rfl
@[simp] theorem setIsle_pending (s : State) (i : IsleId) (x : Isle) : (s.setIsle i x).pending = s.pending := rfl
@[simp] theorem setIsle_lh (s : State) (i : IsleId) (x : Isle) : (s.setIsle i x).lh = s.lh := rfl
@[simp] theorem setIsle_coves (s : State) (i : IsleId) (x : Isle) : (s.setIsle i x).coves = s.coves := rfl
@[simp] theorem setIsle_marks (s : State) (i : IsleId) (x : Isle) : (s.setIsle i x).marks = s.marks := rfl
@[simp] theorem setIsle_frames (s : State) (i : IsleId) (x : Isle) : (s.setIsle i x).frames = s.frames := rfl
@[simp] theorem setIsle_deep (s : State) (i : IsleId) (x : Isle) : (s.setIsle i x).deep = s.deep := rfl
@[simp] theorem setIsle_tide (s : State) (i : IsleId) (x : Isle) : (s.setIsle i x).tide = s.tide := rfl
@[simp] theorem setIsle_strait (s : State) (i : IsleId) (x : Isle) : (s.setIsle i x).strait = s.strait := rfl
@[simp] theorem setIsle_rep (s : State) (i : IsleId) (x : Isle) : (s.setIsle i x).rep = s.rep := rfl
@[simp] theorem setIsle_power (s : State) (i : IsleId) (x : Isle) : (s.setIsle i x).power = s.power := rfl
@[simp] theorem setIsle_flash (s : State) (i : IsleId) (x : Isle) : (s.setIsle i x).flash = s.flash := rfl
@[simp] theorem setIsle_boot (s : State) (i : IsleId) (x : Isle) : (s.setIsle i x).boot = s.boot := rfl
@[simp] theorem setIsle_io (s : State) (i : IsleId) (x : Isle) : (s.setIsle i x).io = s.io := rfl
@[simp] theorem setIsle_free (s : State) (i : IsleId) (x : Isle) : (s.setIsle i x).free = s.free := rfl
@[simp] theorem setIsle_hb (s : State) (i : IsleId) (x : Isle) : (s.setIsle i x).hb = s.hb := rfl
@[simp] theorem isle_setIsle_self (s : State) (i : IsleId) (x : Isle) : (s.setIsle i x).isle i = x := by
  simp [State.setIsle, State.isle, vget_set_self]

@[simp] theorem queue_setQueue_self (s : State) (q : QueueId) (x : Queue) : (s.setQueue q x).queue q = x := by
  simp [State.setQueue, State.queue, State.updHb, vget_set_self]

@[simp] theorem port_setPort_self (s : State) (p : PortId) (x : Port) : (s.setPort p x).port p = x := by
  simp [State.setPort, State.port, vget_set_self]

/-! ### Registers -/

/-- A register write is read back, and g0 reads zero after it (R152). -/
theorem rg_wg_self (x : Scalar) (r : BitVec 5) (v : Word) : (x.wg r v).rg r = if r = 0#5 then 0#64 else v := by
  unfold Scalar.wg Scalar.rg
  split
  · rfl
  · exact vget_set_self _ _ _

/-- A register write leaves every other register. -/
theorem rg_wg_ne (x : Scalar) {r q : BitVec 5} (v : Word) (h : q ≠ r) : (x.wg r v).rg q = x.rg q := by
  have hn : q.toFin ≠ r.toFin := fun e => h (BitVec.eq_of_toFin_eq e)
  unfold Scalar.wg Scalar.rg
  split
  · rfl
  · split
    · rfl
    · exact vget_set_ne _ _ hn

/-! ### Resets of the module -/

@[simp] theorem moduleReset_pending (s : State) (b : Bool) : (s.moduleReset b).pending = s.pending := rfl
@[simp] theorem moduleReset_flash (s : State) (b : Bool) : (s.moduleReset b).flash = s.flash := rfl
@[simp] theorem moduleReset_lh (s : State) (b : Bool) : (s.moduleReset b).lh = s.lh.restart := rfl
@[simp] theorem moduleReset_mem (s : State) (b : Bool) : (s.moduleReset b).mem = [] := rfl
@[simp] theorem moduleReset_cores (s : State) (b : Bool) : (s.moduleReset b).cores = [] := rfl
@[simp] theorem moduleReset_tide (s : State) (b : Bool) : (s.moduleReset b).tide = 0#64 := rfl
@[simp] theorem restart_shed (x : Lighthouse) : x.restart.shed = x.shed := rfl
@[simp] theorem restart_trips (x : Lighthouse) : x.restart.trips = x.trips := rfl
@[simp] theorem restart_count (x : Lighthouse) : x.restart.count = x.count := rfl
@[simp] theorem restart_clamp (x : Lighthouse) : x.restart.clamp = if x.shed then 2 else 0 := rfl
@[simp] theorem powerLoss_shed (s : State) : s.powerLoss.lh.shed = false := rfl
@[simp] theorem powerLoss_clamp (s : State) : s.powerLoss.lh.clamp = 0 := rfl
@[simp] theorem powerLoss_on (s : State) : s.powerLoss.power.on = false := rfl
@[simp] theorem readSlot_flash (s : State) (n : BitVec 3) : (s.readSlot n).flash = s.flash := rfl
@[simp] theorem readSlot_boot (s : State) (n : BitVec 3) : (s.readSlot n).boot = s.boot := rfl
@[simp] theorem measureConfig_power (s : State) : s.measureConfig.power = s.power := rfl

/-- What a management request does (R509): the firmware runs it while it answers; under stage 2 one on the sideband is not ready. -/
theorem managed_cases (s : State) (b : Binding) (body : State → State) :
    (s.answers = true ∧ s.managed b body = body s) ∨
    (s.answers = false ∧ s.managed b body = if b = .i3c ∧ s.lighthouseAnswers = true then s.answer (.pldm .notReady) else s) := by
  cases h : s.answers <;> simp [State.managed, h]

/-! ### The issue of an instruction -/

@[simp] theorem begun_sc (s : State) (c : CoreId) : (s.begun c).sc c = { s.sc c with run := .running, hold := false } := by
  simp [State.begun, State.updSc, State.setSc]

/-- An instruction that a core executes ends as its body says. -/
theorem issue_runs {s : State} {c : CoreId} {g : Guard} {bad : Bool} (body : State → Res) (h : Runs s c g) (hb : bad = false) :
    s.issue c g bad body = (s.begun c).finish c (body (s.begun c)) := by
  obtain ⟨h1, h2, h3, -⟩ := h
  have h4 : ((s.begun c).sc c).rp g.pg = (s.sc c).rp g.pg := by rw [begun_sc]; rfl
  unfold State.issue
  rw [h1, hb, h2]
  change (if ((s.begun c).sc c).rp g.pg != g.pn then _ else _) = _
  rw [h4]
  simp [h3]
  rfl

/-- An instruction boundary at which no late bus error is to be recorded changes nothing (R230). -/
theorem settleLate_settled {s : State} {c : CoreId} (h : (s.sc c).settled) : s.settleLate c = s := by
  unfold State.settleLate
  rcases h with h | h
  · simp [h]
  · simp [h]

@[simp] theorem retiredTo_settled (k : Core) (c : CoreId) (pc : Word) : (k.retiredTo c pc).sc.settled ↔ k.sc.settled := Iff.rfl

/-- A core that executes an instruction whose body changes that core alone retires it. -/
theorem finish_core (s : State) (c : CoreId) (x : Core) (h : x.sc.run = .running) (h' : x.sc.hold = false) (hl : x.sc.settled) :
    (s.begun c).finish c (.done ((s.begun c).setCore c x)) = s.setCore c (x.retiredTo c ((s.sc c).pc + 4#64)) := by
  have e : ((s.begun c).setCore c x).retire c (((s.begun c).sc c).pc + 4#64) = s.setCore c (x.retiredTo c ((s.sc c).pc + 4#64)) := by
    simp [State.retire, State.updSc, State.setSc, State.begun, Core.retiredTo, Core.onSc, h, h']
  show (((s.begun c).setCore c x).retire c (((s.begun c).sc c).pc + 4#64)).settleLate c = _
  rw [e]
  exact settleLate_settled (by rw [sc_setCore_self]; exact hl)

end Sys2Proof.Machine
end

