-- ==== Sys2Proof/Laws/Issue.lean ====
section
/-! SUPPORT. How an instruction ends, once for every instruction: executed, guarded off, illegal, retired, trapped. -/

namespace Sys2Proof.Machine

theorem updSc_eq (s : State) (c : CoreId) (f : Scalar → Scalar) : s.updSc c f = s.setCore c ((s.core c).onSc f) := rfl

@[simp] theorem begun_core (s : State) (c : CoreId) :
    (s.begun c).core c = (s.core c).onSc fun x => { x with run := .running, hold := false } := by
  simp [State.begun, updSc_eq]

@[simp] theorem begun_vec (s : State) (c : CoreId) : (s.begun c).vec c = s.vec c := by simp [State.vec, Core.onSc]
@[simp] theorem begun_mx (s : State) (c : CoreId) : (s.begun c).mx c = s.mx c := by simp [State.mx, Core.onSc]

/-- A body that changes the core alone retires it. -/
theorem retires_of_core {s : State} {c : CoreId} (f k : Core → Core)
    (h : f ((s.core c).onSc fun x => { x with run := .running, hold := false }) =
      (k (s.core c)).onSc fun x => { x with run := .running, hold := false })
    (hl : (k (s.core c)).sc.settled) :
    (s.begun c).finish c (.done ((s.begun c).updCore c f)) = s.retires c k := by
  unfold State.updCore
  rw [begun_core, h]
  exact finish_core s c ((k (s.core c)).onSc fun x => { x with run := .running, hold := false }) rfl rfl hl

/-- A body that changes the scalar part alone retires the core. -/
theorem retires_of_sc {s : State} {c : CoreId} (f k : Scalar → Scalar)
    (h : f { s.sc c with run := .running, hold := false } = { k (s.sc c) with run := .running, hold := false })
    (hl : (k (s.sc c)).settled) :
    (s.begun c).finish c (.done ((s.begun c).updSc c f)) = s.retires c fun y => y.onSc k :=
  retires_of_core (fun y => y.onSc f) (fun y => y.onSc k) (by simp only [Core.onSc]; exact congrArg (fun z => { s.core c with sc := z }) h)
    hl

/-- An executed instruction whose body changes the scalar part alone. -/
theorem next_of_sc {s : State} {c : CoreId} {g : Guard} {bad : Bool} (h : Runs s c g) (hb : bad = false) (f k : Scalar → Scalar)
    (hf : f { s.sc c with run := .running, hold := false } = { k (s.sc c) with run := .running, hold := false })
    (hl : (k (s.sc c)).settled) :
    (.next (s.issue c g bad (scalarBody c f)) : Host.Outcome State Fault Refusal) = .next (s.retires c fun y => y.onSc k) := by
  rw [issue_runs _ h hb]
  exact congrArg _ (retires_of_sc f k hf hl)

/-- A body that does nothing retires the core. -/
theorem retires_id (s : State) (c : CoreId) (hl : (s.sc c).settled) : (s.begun c).finish c (.done (s.begun c)) = s.retires c id := by
  have h := retires_of_core (s := s) (c := c) (fun y => y) id rfl hl
  have e : (s.begun c).updCore c (fun y => y) = s.begun c := by simp [State.updCore, State.begun, updSc_eq]
  rwa [e] at h

/-- A body that jumps, having changed the scalar part alone. -/
theorem jumps_of_sc {s : State} {c : CoreId} (t : Word) (f k : Scalar → Scalar)
    (h : f { s.sc c with run := .running, hold := false } = { k (s.sc c) with run := .running, hold := false })
    (hl : (k (s.sc c)).settled) :
    (s.begun c).finish c (.goto ((s.begun c).updSc c f) t) = s.jumps c (fun y => y.onSc k) t := by
  have h' : f ((s.begun c).sc c) = { k (s.sc c) with run := .running, hold := false } := by rw [begun_sc]; exact h
  have e : ((s.begun c).updSc c f).retire c t = s.jumps c (fun y => y.onSc k) t := by
    simp only [State.retire, State.updSc, State.setSc, sc_setCore_self, core_setCore_self, setCore_setCore, h']
    simp [State.begun, updSc_eq, State.jumps, Core.retiredTo, Core.onSc, State.sc]
  show (((s.begun c).updSc c f).retire c t).settleLate c = _
  rw [e]
  exact settleLate_settled (by unfold State.jumps; rw [sc_setCore_self]; exact hl)

/-- An encoding that is illegal, or the reserved guard, raises ILLEGAL (R150). -/
theorem issue_bad {s : State} {c : CoreId} {g : Guard} {bad : Bool} (body : State → Res) (h : s.canIssue c = true)
    (hb : bad = true ∨ neverGuard g = true) :
    s.issue c g bad body = (s.begun c).raise c { code := 0x01#8, info := 0#8, eaddr := (s.sc c).pc } := by
  unfold State.issue
  have h' : (bad || neverGuard g) = true := by rcases hb with h | h <;> simp [h]
  rw [h, h']
  show (s.begun c).raise c (illegal (s.begun c) c) = _
  unfold illegal
  rw [begun_sc]
  rfl

/-- A guarded-off instruction only retires (R149). -/
theorem issue_off {s : State} {c : CoreId} {g : Guard} (body : State → Res) (h : s.canIssue c = true) (hn : neverGuard g = false)
    (hg : (s.sc c).rp g.pg = g.pn) (hl : (s.sc c).settled) : s.issue c g false body = s.retires c id := by
  unfold State.issue
  have h4 : ((s.begun c).sc c).rp g.pg = (s.sc c).rp g.pg := by rw [begun_sc]; rfl
  rw [h, hn]
  change (if ((s.begun c).sc c).rp g.pg != g.pn then _ else (s.begun c).finish c (.done (s.begun c))) = _
  rw [h4, hg, retires_id s c hl]
  simp

/-- An instruction on a core that cannot issue has no effect (log 9). -/
theorem issue_idle {s : State} {c : CoreId} (g : Guard) (bad : Bool) (body : State → Res) (h : s.canIssue c = false) :
    s.issue c g bad body = s := by
  unfold State.issue
  rw [h]
  rfl

@[simp] theorem wg_running (x : Scalar) (r : BitVec 5) (v : Word) :
    ({ x with run := .running, hold := false } : Scalar).wg r v = { x.wg r v with run := .running, hold := false } := by
  unfold Scalar.wg
  split <;> rfl

@[simp] theorem wp_running (x : Scalar) (r : BitVec 3) (b : Bool) :
    ({ x with run := .running, hold := false } : Scalar).wp r b = { x.wp r b with run := .running, hold := false } := by
  unfold Scalar.wp
  split <;> rfl

/-- An exception entry below a double fault changes the core alone (R222). -/
theorem enter_eq (s : State) (c : CoreId) (int : Bool) (e : Exc) (resume : Word) (target : BitVec 2) :
    s.enter c int e resume target = s.enters c int e resume target := by
  simp only [State.enter, State.enters, State.updMx, updSc_eq, core_setCore_self, setCore_setCore]
  rfl

end Sys2Proof.Machine
end

