-- ==== Sys2Proof/WellFormed.lean ====
section
/-! DEFINITION. Well-formed commands: those that something outside the block can send. The types already bound every field of an
instruction word and of a frame; what is left is the length of the data that a command carries and the sums that its event names. -/

namespace Sys2Proof

/-- A signed object's body length fits the field LEN (Table 16.3). -/
def SignedHeader.fits (h : SignedHeader) : Bool := decide (h.bytes < 2 ^ 40)

/-- A received HMP datagram fits an Ethernet frame of 9,216 bytes (R325). -/
def HmpFrame.fits (f : HmpFrame) : Bool := decide (f.payload.length ≤ 9184)

/-- Operating points lie from 0.8 to 3.3 GHz in steps of 100 MHz (R423). -/
def operatingPoint (mhz : Nat) : Bool := decide (800 ≤ mhz) && decide (mhz ≤ 3300) && mhz % 100 == 0

/-- Well-formedness of a command. -/
def WellFormed (i : Instr) : Bool :=
  match i with
  | .alu _ _ _ => true
  | .addi _ _ _ => true
  | .andi _ _ _ => true
  | .ori _ _ _ => true
  | .xori _ _ _ => true
  | .shi _ _ _ => true
  | .movi _ _ _ => true
  | .movsh _ _ _ => true
  | .cmp _ _ _ => true
  | .cmpi _ _ _ => true
  | .pred _ _ _ => true
  | .muldiv _ _ _ => true
  | .fpu _ _ _ => true
  | .fcmp _ _ _ => true
  | .fcvt _ _ _ => true
  | .br _ _ _ => true
  | .call _ _ _ => true
  | .nop _ _ _ => true
  | .jr _ _ _ => true
  | .callr _ _ _ => true
  | .ret _ _ _ => true
  | .eret _ _ _ => true
  | .shield _ _ _ => true
  | .trap _ _ _ => true
  | .fence _ _ _ => true
  | .wait _ _ _ => true
  | .inr _ _ _ => true
  | .outr _ _ _ => true
  | .mfc _ _ _ => true
  | .mtc _ _ _ => true
  | .rdpc _ _ _ => true
  | .ld _ _ _ => true
  | .ldu _ _ _ => true
  | .st _ _ _ => true
  | .dzl _ _ _ => true
  | .pref _ _ _ => true
  | .clean _ _ _ => true
  | .flush _ _ _ => true
  | .inval _ _ _ => true
  | .l1Fill _ => true
  | .storeBufferDrain _ _ => true
  | .lateBusError _ _ => true
  | .lbinfoRead _ _ => true
  | .amo _ _ _ => true
  | .lcopy _ _ _ => true
  | .zfill _ _ _ => true
  | .lprogAbandon _ => true
  | .portIn _ _ _ => true
  | .portOut _ _ _ => true
  | .registerWrite _ _ _ => true
  | .interrupt _ => true
  | .shieldWindowEnd _ => true
  | .vadd _ _ _ _ => true
  | .vsub _ _ _ _ => true
  | .vmul _ _ _ _ => true
  | .vfma _ _ _ _ => true
  | .vfnma _ _ _ _ => true
  | .vmin _ _ _ _ => true
  | .vmax _ _ _ _ => true
  | .vdiv _ _ _ _ => true
  | .vand _ _ _ => true
  | .vor _ _ _ => true
  | .vxor _ _ _ => true
  | .vcmp _ _ _ _ => true
  | .vmov _ _ _ => true
  | .vsplat _ _ _ => true
  | .vget _ _ _ => true
  | .vabs _ _ _ _ => true
  | .vneg _ _ _ _ => true
  | .vsqrt _ _ _ _ => true
  | .vcvt _ _ _ _ => true
  | .vrint _ _ _ _ => true
  | .viota _ _ _ => true
  | .vcompress _ _ _ => true
  | .kand _ _ _ => true
  | .kor _ _ _ => true
  | .kxor _ _ _ => true
  | .kandn _ _ _ => true
  | .knot _ _ _ => true
  | .kpop _ _ _ => true
  | .kfirst _ _ _ => true
  | .kset _ _ _ => true
  | .vsetvl _ _ _ => true
  | .vectorReduction _ _ _ _ _ => true
  | .vectorLoad _ _ _ => true
  | .vectorStore _ _ _ => true
  | .firstFaultLoad _ _ _ => true
  | .k4inl _ _ _ _ => true
  | .vcfg _ _ => true
  | .vlen _ _ => true
  | .mxCfg _ _ _ => true
  | .mxLdw _ _ _ => true
  | .mxLdwAcc _ _ _ => true
  | .weightLoadComplete _ _ => true
  | .mxSeq _ _ _ => true
  | .step _ _ => true
  | .mxDrn _ _ _ => true
  | .mxDrnImg _ _ _ => true
  | .mxDrnDiscard _ _ _ => true
  | .drainRowWrite _ _ _ _ => true
  | .drainEnd _ _ => true
  | .mprogAbandon _ => true
  | .lskew _ _ _ => true
  | .tqdiscard _ _ => true
  | .accumulatorRestoreEnd _ _ => true
  | .ewpost _ _ => true
  | .descriptorStart _ => true
  | .tileQueueEntryTake _ => true
  | .batch _ _ => true
  | .completionRecordPush _ => true
  | .ewcpl _ _ => true
  | .ewabort _ _ => true
  | .fpost _ _ _ => true
  | .ferryDescriptorStart _ _ => true
  | .ferryAssign _ => true
  | .steal _ _ => true
  | .ferryTile _ _ => true
  | .ferryCompletion _ _ => true
  | .fcpl _ _ _ => true
  | .fabort _ _ _ => true
  | .contribution _ _ _ _ f d => d.length == 128 && f.level != 3#2
  | .stagedContributionApply _ _ _ => true
  | .arm _ _ => true
  | .abort _ _ => true
  | .scrub _ _ => true
  | .laneTraining _ _ => true
  | .midFrame _ _ rest => rest.length == 136
  | .midRetrain _ _ => true
  | .read64 _ _ _ => true
  | .read128 _ _ _ => true
  | .write64 _ _ _ d => d.length == 64
  | .write128 _ _ _ d => d.length == 128
  | .writeMask64 _ _ _ _ d => d.length == 64
  | .response _ _ _ => true
  | .deepWrite _ _ d => decide (d.length ≤ 0x100000)
  | .deepRead _ _ _ _ _ => true
  | .enduranceUpdate _ _ spare => decide (spare ≤ 10000)
  | .nearTemperatureRead _ _ _ => true
  | .cmd f => f.fits
  | .doorbell f => f.fits
  | .ack f => f.fits
  | .nak f => f.fits
  | .hello f => f.fits
  | .retransmit _ => true
  | .graphStore _ _ _ _ => true
  | .graphDrop _ => true
  | .graphLaunch _ => true
  | .paramPatch _ => true
  | .fenceSignal _ => true
  | .fenceWait _ => true
  | .fenceTimeout _ => true
  | .fenceReset _ => true
  | .queueCtlResume _ => true
  | .queueCtlFlush _ => true
  | .ctxOpen _ => true
  | .ctxConfig _ => true
  | .ctxReset _ => true
  | .ctxClose _ => true
  | .map _ => true
  | .unmap _ => true
  | .epochRetire _ => true
  | .regionDrop _ => true
  | .faultResolveReplay _ => true
  | .faultResolveFail _ => true
  | .faultTimeout _ => true
  | .retire _ => true
  | .copy _ => true
  | .query _ => true
  | .logRead _ => true
  | .traceRead _ => true
  | .partSet _ => true
  | .regSet _ => true
  | .powerTol _ => true
  | .powerCap _ => true
  | .dispatch _ => true
  | .workItemPost _ _ => true
  | .mooring _ => true
  | .mooringWrite _ _ _ => true
  | .mooringTimeout _ _ => true
  | .launchEnd _ => true
  | .rdmaWrite _ _ _ _ => true
  | .rdmaRead _ _ _ _ => true
  | .send _ => true
  | .connectionEstablish _ _ _ => true
  | .tideAdjust => true
  | .twakeExpiry _ => true
  | .tvote _ _ => true
  | .portTraining _ _ => true
  | .portRetrain _ => true
  | .data _ f => f.payload.length == 240
  | .filler _ f => f.payload.length == 240
  | .side _ f => f.payload.length == 240
  | .start _ _ => true
  | .startAt _ _ => true
  | .startTimeout _ => true
  | .vote _ _ => true
  | .outcome _ _ => true
  | .coast _ _ => true
  | .replay _ _ => true
  | .root _ _ => true
  | .harbour _ _ => true
  | .lateFlit _ => true
  | .silent _ => true
  | .voteSample _ => true
  | .decisionTick _ => true
  | .outcomeApply _ => true
  | .coastStop _ => true
  | .coastUnload _ => true
  | .dutyWindow r => operatingPoint r.ceiling
  | .dutyGroup _ _ _ => true
  | .capUnreachable => true
  | .thermalTopRead _ => true
  | .junctionTemperature _ _ => true
  | .wakeTokenGrant _ mhz => operatingPoint mhz
  | .ageingCheck _ _ _ => true
  | .s1 _ => true
  | .s2 _ => true
  | .s3 => true
  | .s4 => true
  | .limiter _ => true
  | .limiterRelease _ => true
  | .lighthouseTrip _ _ => true
  | .heartbeat => true
  | .lighthouseSelfCheck _ _ _ _ => true
  | .alarmClose _ _ => true
  | .logNotice => true
  | .storm => true
  | .selfTest _ => true
  | .selfTestEnd _ _ => true
  | .pwrEn _ => true
  | .inputVoltage _ => true
  | .bootStages r => r.firmware.fits && r.coresFailingSelfTest.all fun c => decide (c < 1200)
  | .spdmRequest _ _ => true
  | .getMeasurements _ _ _ => true
  | .getHssIdentity _ => true
  | .getHssSignature _ _ => true
  | .requestUpdate _ => true
  | .requestFirmwareData h _ _ _ => h.fits
  | .pldmRequest _ => true
  | .setdasa _ => true
  | .setNet _ _ => true
  | .getNet _ => true
  | .setRecovery _ => true
  | .moduleReset _ => true
  | .getTrips => true
  | .announce => true
  | .offer _ _ _ => true
  | .dataRecovery _ _ len h _ _ _ => h.fits && decide (len.toNat ≤ 1024)
  | .readResend _ => true
  | .sessionAbandon => true
  | .slotTransmission => true
  | .cellHoldExpiry _ => true
  | .arpRequest _ _ => true
  | .dhcp _ _ => true
  | .autoNegotiation _ _ => true
  | .mctpControl _ => true
  | .coolingKindDecode _ _ => true

end Sys2Proof
end

