-- ==== Sys2Proof/Tests/Slice0.lean ====
section
/-! SUPPORT. Tests: ill-formed commands, the worked examples of the manual, and for every statement states and operands that meet its
hypotheses. Each runs one command. -/

namespace Sys2Proof.Tests

set_option Elab.async false

open Sys2Proof Sys2Proof.Machine

/-! ### Ill-formed commands: one for each check of `WellFormed` -/

def header (bytes : Nat) : SignedHeader :=
  { word0 := 0#64, ver := 0#64, len := 0#64, target := 0#64, reservedZero := true, bytes := bytes }
def verdict : SigVerdict := { digest := true, ecdsa := true, hss := true }
def signedBy : Signatures := { ecdsa := true, hss := true }
def image : ImageHeader :=
  { deterministic := false, coreMap := [0, 3], scratchW := 1, blockLen := 16, points := [⟨0, 8, false⟩, ⟨8, 8, true⟩], snapBase := 0#64
    snapSlots := 1, lead := 256, shapeSound := 1, shapeChannel := 1, shapeReach := 1, initial := [1, 2, 3]
    entry := [(0x1000#64, 11#64), (0x2000#64, 22#64)], uid := 0xabc#64, rank := 0, votePort := 0xf#4
    phases := [{ s := 0, b := 1000, maxSlip := 2, mark := false, elastic := false, rsv := 0#46 }], runs := [], keyPoint := none
    resumePoint := none, neighboursPoint := none, markLog := 0x50000#64, markSlots := 4, headerDigest := 0#384 }
def host : HostAddr := { ip := 2#128, port := 4791#16 }
def datagram (n : Nat) : HmpFrame := { eth := false, source := host, checksumOk := true, header := 0#256, payload := List.replicate n 0#8 }

def from0 : FerryFrom := { core := 0, stream := 0#4, ctx := 5#12, level := 1#2 }

theorem test_ill_formed_contribution : WellFormed (.contribution 0 0#4 0#56 0#10 from0 (List.replicate 127 0#8)) = false := by decide +kernel
theorem test_ill_formed_mid_writes :
    WellFormed (.write64 0 0#10 0#37 (List.replicate 63 0#8)) = false ∧ WellFormed (.write128 0 0#10 0#37 []) = false ∧
    WellFormed (.writeMask64 0 0#10 0#37 0#64 (List.replicate 65 0#8)) = false := by decide +kernel
theorem test_ill_formed_deep :
    WellFormed (.deepWrite 0 0#41 (List.replicate 0x100001 0#8)) = false ∧ WellFormed (.enduranceUpdate 0#64 0 10001) = false := by
  refine ⟨?_, by decide⟩
  simp only [WellFormed, List.length_replicate]
  decide
theorem test_ill_formed_frames :
    (∀ i ∈ [Instr.cmd (datagram 9185), .doorbell (datagram 9185), .ack (datagram 9185), .nak (datagram 9185), .hello (datagram 9185)],
      WellFormed i = false) ∧ WellFormed (.cmd (datagram 9184)) = true := by
  have bad : (datagram 9185).fits = false := decide_eq_false (by simp only [datagram, List.length_replicate]; omega)
  have good : (datagram 9184).fits = true := decide_eq_true (by simp only [datagram, List.length_replicate]; omega)
  exact ⟨by intro i hi; simp only [List.mem_cons, List.not_mem_nil, or_false] at hi; rcases hi with rfl | rfl | rfl | rfl | rfl <;> exact bad, good⟩
theorem test_ill_formed_objects :
    WellFormed (.requestFirmwareData (header (2 ^ 40)) verdict 0#384 true) = false ∧
    WellFormed (.dataRecovery 0#32 0#64 0#16 (header (2 ^ 40)) verdict 0#384 true) = false ∧
    WellFormed (.dataRecovery 0#32 0#64 1025#16 (header 0) verdict 0#384 true) = false := by decide +kernel
theorem test_ill_formed_boot :
    let r : BootReading :=
      { pufOk := true, partRecordOk := true, securityRecordOk := true, ownerRecordOk := true, serviceRecordOk := true, firmware := header 0
        verdict := verdict, top := none, coresFailingSelfTest := [], sparesOk := 0#80, midLanes := 0xffff#16, slotId := 0#3 }
    WellFormed (.bootStages r) = true ∧ WellFormed (.bootStages { r with firmware := header (2 ^ 40) }) = false ∧
    WellFormed (.bootStages { r with coresFailingSelfTest := [1200] }) = false := by decide +kernel
theorem test_ill_formed_strait :
    let f : Flit := { header := 0#64, payload := List.replicate 239 0#8, crc := 0#64 }
    WellFormed (.data 0 f) = false ∧ WellFormed (.filler 0 f) = false ∧
    WellFormed (.side 0 f) = false ∧ WellFormed (.midFrame 0 0#64 (List.replicate 135 0#8)) = false := by decide +kernel
theorem test_ill_formed_operating_points :
    let r : PowerReading := { demandLinks := 0, demandMemory := 0, demandCompute := 0, base := 0, draw := 0, ceiling := 700, ballast := [] }
    WellFormed (.dutyWindow r) = false ∧ WellFormed (.dutyWindow { r with ceiling := 850 }) = false ∧
    WellFormed (.dutyWindow { r with ceiling := 800 }) = true ∧ WellFormed (.wakeTokenGrant 0 3400) = false ∧
    WellFormed (.wakeTokenGrant 0 3300) = true := by decide +kernel

/-! ### What the tests run on -/

/-- What holds of the state that a command leaves. -/
def did (i : Instr) (s : State) (p : State → Bool) : Bool := match exec i s with | .next t => p t | _ => false
/-- A device past its boot, with every core in test mode. -/
def ready : State := { State.reset with boot := { State.reset.boot with phase := .ready } }
def always : Guard := alwaysGuard
def plainSys : FmtSys := { rd := 0#5, ra := 0#5, rb := 0#5 }
def setG (l : List (Nat × Nat)) (x : Scalar) : Scalar := l.foldl (fun x p => x.wg (BitVec.ofNat 5 p.1) (word p.2)) x
def put8 (m : Bytes) (a x : Nat) : Bytes := writeBytes m a (leBytes 8 x)

/-- Tables of context 5 at 0x100000: pages 0 readable and writable, 1 cacheable too, 2 a placeholder, 3 read only, 4 Deep, 5 as 0, 6 Mid. -/
def tables : Bytes :=
  let leaf (frame bits : Nat) : Nat := frame * 65536 + bits + 3
  [(0x100000, 0x101001), (0x101000, 0x102001), (0x102000, 0x103001), (0x103000, 0x104001), (0x104000, leaf 0x20 0x30),
    (0x104008, leaf 0x21 0x130), (0x104010, 0x200), (0x104018, leaf 0x23 0x10), (0x104020, leaf 0x2000000 0x30),
    (0x104028, leaf 0x25 0x30), (0x104030, leaf 0x1000000 0x30)].foldl (fun m x => put8 m x.1 x.2) []
def ctx5 : Ctx :=
  { part := 0, poolFirst := 0x10, poolLast := 0x1f
    tables := [⟨0x100000, 2048⟩, ⟨0x101000, 4096⟩, ⟨0x102000, 4096⟩, ⟨0x103000, 4096⟩, ⟨0x104000, 256⟩]
    epoch := 0#16, faultTimeout := 10000, regions := [], unmapping := [] }
/-- Core 0 runs a task of context 5. -/
def device : State :=
  let s := { ready with mem := put8 (put8 (put8 tables 0x200010 0x1122334455667788) 0x210040 0x8899aabbccddeeff) 0x250000 0x0102030405060708 }
  let s := s.updHb fun h => { h with ctxs := [(5, ctx5)] }
  let s := [0x20, 0x21, 0x23, 0x2000000, 0x25, 0x1000000].foldl (fun s f => s.setFrameTag f { retired := false, ctx := 5 }) s
  s.updSc 0 fun x => { x with opmode := 2#2, priv := 0#2, ctxid := 5#12, pc := 0x400#64, evecRt := 0x8000#64, evecMon := 0x9000#64 }

/-! ### Worked examples of the manual -/

/-- Chapter 2, packing a nonet word. -/
theorem test_pack_k9f :
    packWord Fmt.k9f [0x078, 0x178, 0x070, 0x080, 0, 0, 0] false = 0x0000_0004_01c2_f078 ∧
    packWord Fmt.k9f [0x078, 0x178, 0x070, 0x080, 0, 0, 0] true = 0x8000_0004_01c2_f078 := by decide +kernel
/-- Chapter 2, quantising a block of 5.0, -0.6, 1.0 and zeros. -/
theorem test_quantise_block :
    let xs : List K4Elem := [0x40a00000, 0xbf19999a, 0x3f800000].map (fun x => some (decodeFmt Fmt.binary32 false x, .mode 0#3)) ++
      List.replicate 29 (some (decodeFmt Fmt.binary32 false 0, .mode 0#3))
    (k4Quantise false xs).scale = 0x001 ∧ (k4Quantise false xs).codes = [0x6, 0x9, 0x2] ++ List.replicate 29 0 ∧
    (k4Quantise false xs).flags = Flags.inexact ∧ packWord Fmt.k4 ((k4Quantise false xs).codes.take 16) false = 0x296 := by decide +kernel
/-- Chapter 2, worked conversions: 3.3 and 200,000 to K9F, -5.0 to K18. -/
theorem test_conversions :
    fcvtOp Fmt.binary32 Fmt.k9f 0#3 false 0x4053_3333#64 = (0x085#64, Flags.inexact, false) ∧
    fcvtOp Fmt.binary32 Fmt.k9f 0#3 false 0x4843_5000#64 = (0x0ff#64, Flags.overflow ||| Flags.inexact, false) ∧
    fcvtOp Fmt.binary32 Fmt.k9f 0#3 true 0x4843_5000#64 = (0x8000_0000_0000_00ff#64, Flags.overflow ||| Flags.inexact, false) ∧
    fcvtOp Fmt.bfloat16 Fmt.k18 0#3 false 0xc0a0#64 = (0x3_0140#64, Flags.none, false) := by decide +kernel
/-- Chapter 3: the binary64 dot product drains to 2^-104. -/
theorem test_dot_product :
    let opds (xs : List Nat) : List Opd := (xs ++ List.replicate 6 0).map (fun x => decodeOpd Fmt.binary64 false 0 x)
    ((List.range (modePasses 6)).foldl (fun e p => e.update 6 p (opds [0x3ff0_0000_0000_0001, 0xbff0_0000_0000_0000])
        (opds [0x3ff0_0000_0000_0001, 0x3ff0_0000_0000_0002])) Acc.clear).drain Fmt.binary64 (.mode 0#3) false =
      ⟨0x3970_0000_0000_0000, false, Flags.none⟩ := by decide +kernel
/-- Chapter 8, steps 1 and 2: a misaligned load at task level in test mode. -/
theorem test_misaligned_load :
    let s := device.updSc 0 fun x => { x.wg 1#5 0x40_0000_1002#64 with pc := 0x12340#64 }
    did (.ld 0 always { rt := 5#5, rb := 1#5, size := 2#2, am := 0#3, amf := 0#7 }) s (fun t =>
      let x := t.sc 0
      x.epc = 0x12340#64 ∧ x.ecause = 0x202#64 ∧ x.eaddr = 0x40_0000_1002#64 ∧ x.epriv = 1#2 ∧ x.mode = 0x21#64 ∧ x.pc = 0x8000#64) := by
  decide +kernel
/-- Chapter 8, step 5: ERET to a level above EPRIV. -/
theorem test_corrupted_return :
    let s := device.updSc 0 fun x => { x with priv := 1#2, epriv := 1#2, pc := 0x8040#64, epc := 0x12346#64 }
    did (.eret 0 always plainSys) s (fun t =>
      let x := t.sc 0
      x.epc = 0x8041#64 ∧ x.ecause = 0x208#64 ∧ x.eaddr = 0x8040#64 ∧ x.epriv = 2#2 ∧ x.mode = 0x22#64 ∧ x.pc = 0x9000#64) := by
  decide +kernel

/-! ### Hypotheses of the statements are met

Each theorem names the statement whose hypotheses its state and operands meet; where a clause has a range, at its ends. -/

/-- A core at runtime level in service mode, with a return address on its shadow stack. -/
def runtime : State := device.updSc 0 fun x => { setG [(1, 0x2000), (2, 7), (31, 0x1000)] x with priv := 1#2, opmode := 0#2, ss := [0x1000#64] }

theorem witness_StepRunsFrontCommand :
    (match step { ready with pending := [.heartbeat] } with | .next t => decide (t.pending = [] ∧ t.lh.beat = ready.tide) | _ => false) = true := by
  decide +kernel
theorem witness_EmptyQueuePassesOneTick :
    ready.pending = [] ∧ (match step ready with | .next t => decide (t.tide = ready.tide + 1#64) | _ => false) = true := by decide +kernel
/-- MemoryFormSurvivesEveryStep, LighthouseStaysSoundInEveryStep, VectorAndMatrixRangesSurviveEveryStep, FeaturePortsReadTheirValues. -/
theorem witness_invariants :
    Runs device 0 always ∧ device.bytesWf = true ∧ device.lh.sound = true ∧ device.coresSound = true ∧ State.reset.bytesWf = true ∧ State.reset.coresSound = true := by
  decide +kernel
theorem witness_ClampHoldsUntilReset :
    let s := { ready with lh := { ready.lh with clamp := 1, count := 3 } }
    did (.lighthouseTrip 5#8 864#64) s (fun t => t.lh.clamp = 2 ∧ t.lh.count = 4) ∧
    did (.moduleReset 0#8) { s with lh := { s.lh with clamp := 2, shed := true } } (fun t => t.lh.shed ∧ t.lh.clamp = 2) := by decide +kernel

/-- Boundaries: FUNC 0x12 of ALU is the last, 0x13 is illegal; so are 6 and 7 of MULDIV. -/
theorem witness_IntegerAndPredicateInstructions :
    Runs device 0 always ∧ (aluOp 0x12#7 7#64 9#64).isSome = true ∧ (aluOp 0x13#7 7#64 9#64) = none ∧ (mulDivOp 6#7 7#64 9#64).isSome = true ∧
    (mulDivOp 7#7 7#64 9#64) = none ∧ (intCond 6 7#64 9#64).isSome = true ∧ intCond 7 7#64 9#64 = none ∧ selBad 0#5 = false ∧
    predBad { rd := 1#5, ra := 0#5, rb := 0#5, func := 0#7 } = false := by decide +kernel
theorem test_addi :
    did (.addi 0 always { rd := 3#5, ra := 0#5, imm := 0xfff#12 }) device (fun t =>
      (t.sc 0).rg 3#5 = 0xffffffffffffffff#64 ∧ (t.sc 0).pc = 0x404#64 ∧ (t.sc 0).retired = 1#64) ∧
    did (.addi 0 always { rd := 0#5, ra := 0#5, imm := 5#12 }) device (fun t => (t.sc 0).g = (device.sc 0).g ∧ (t.sc 0).pc = 0x404#64) := by
  decide +kernel
theorem test_movsh :
    let s := device.updSc 0 fun x => x.wg 1#5 0x1e#64
    did (.movsh 0 always { rd := 1#5, imm := 0x4000#17 }) s (fun t => (t.sc 0).rg 1#5 = 0x3c4000#64) := by decide +kernel
theorem test_guard_false_skips :
    did (.addi 0 { pg := 1#3, pn := false } { rd := 3#5, ra := 0#5, imm := 1#12 }) device (fun t =>
      (t.sc 0).rg 3#5 = 0#64 ∧ (t.sc 0).pc = 0x404#64) := by decide +kernel
theorem witness_ReservedAndPrivilegedInstructionsRaise :
    device.canIssue 0 = true ∧ Runs device 0 always ∧ (device.sc 0).priv = 0#2 ∧
    did (.alu 0 always { rd := 1#5, ra := 1#5, rb := 1#5, func := 0x13#7 }) device (fun t =>
      (t.sc 0).ecauseCode = 0x01#8 ∧ (t.sc 0).epc = 0x400#64 ∧ (t.sc 0).pc = 0x8000#64) ∧
    did (.eret 0 always plainSys) device (fun t => (t.sc 0).ecauseCode = 0x07#8 ∧ (t.sc 0).ecauseInfo = 0#8 ∧ (t.sc 0).priv = 1#2) := by
  decide +kernel

/-- The worked examples of the manual: MX.SEQ g4, g5, g6 (Table 4.5), the table of twiddle factors of Chapter 6 and the butterfly of
Chapter 7, word by word. -/
theorem test_words_decode :
    decodeCoreWord 0 0x0c088530#32 = some (.mxSeq 0 always { ga := 4#5, gw := 5#5, gc := 6#5, rsv := 0#3 }) ∧
    decodeCoreWord 0 0x0182001e#32 = some (.movi 0 always { rd := 1#5, imm := 0x1e#17 }) ∧
    decodeCoreWord 0 0x01c24000#32 = some (.movsh 0 always { rd := 1#5, imm := 0x4000#17 }) ∧
    decodeCoreWord 0 0x0488200c#32 = some (.mtc 0 always { rd := 4#5, ra := 2#5, rb := 0#5 }) ∧
    decodeCoreWord 0 0x050a1e0c#32 = some (.ld 0 always { rt := 5#5, rb := 1#5, size := 3#2, am := 4#3, amf := 0x0c#7 }) ∧
    decodeCoreWord 0 0x00463001#32 = some (.addi 0 always { rd := 3#5, ra := 3#5, imm := 1#12 }) ∧
    decodeCoreWord 0 0x024e1c00#32 = some (.cmpi 0 always { pd := 1#3, cond := 6#3, ra := 3#5, imm := 0x400#11 }) ∧
    decodeCoreWord 0 0x343ffffd#32 = some (.br 0 { pg := 1#3, pn := true } 0x3ffffd#22) ∧
    decodeCoreWord 0 0x070e0603#32 = some (.portOut 0 always { g := 7#5, port := 0x301#16 }) ∧
    decodeCoreWord 0 0x0b201410#32 = some (.vsplat 0 always { vd := 32#6, va := 5#6, msel := 0#3, pol := false }) ∧
    decodeCoreWord 0 0x0b040f00#32 = some (.vsetvl 0 always { vd := 4#6, va := 3#6, msel := 0#3, pol := false }) ∧
    decodeCoreWord 0 0x0b800c00#32 =
      some (.vectorLoad 0 always { vt := 0#6, gb := 1#5, mode := 4#3, param := 0#4, msel := 0#3, pol := false }) ∧
    decodeCoreWord 0 0x08d08000#32 = some (.vfma 0 always { vd := 16#6, va := 32#6, vb := 0#6, msel := 0#3, pol := false } .pass) :=
  ⟨rfl, rfl, rfl, rfl, rfl, rfl, rfl, rfl, rfl, rfl, rfl, rfl, rfl⟩

/-- Whether a word raises an illegal-instruction exception on core 0. -/
def illegalWord (w : BitVec 32) : Bool :=
  match executeWord 0 w device with
  | .next t => (t.sc 0).ecauseCode == 0x01#8 && (t.sc 0).epc == 0x400#64
  | _ => false

/-- Reserved words of each kind: OP 0x0f and 0x3f, a SYS, a CACHE, a LONG and a matrix code, and one under a guard that is false. -/
theorem test_reserved_words_are_illegal :
    illegalWord 0x03c00000#32 = true ∧ illegalWord 0x0fc00000#32 = true ∧ illegalWord 0x0480000e#32 = true ∧ illegalWord 0x05ca0000#32 = true ∧
    illegalWord 0x06400002#32 = true ∧ illegalWord 0x0c100000#32 = true ∧ illegalWord 0x33c00000#32 = true :=
  ⟨by decide +kernel, by decide +kernel, by decide +kernel, by decide +kernel, by decide +kernel, by decide +kernel, by decide +kernel⟩

theorem test_add_word : decodeCoreWord 0 0x00061100#32 = some (.alu 0 always { rd := 3#5, ra := 1#5, rb := 2#5, func := 0#7 }) := rfl

/-- 1.0 divided by 0.0: without a trap the quotient is written, with DIV_ZERO's trap enabled the core traps. -/
theorem witness_FloatingPointInstructions :
    let f : FmtA := { rd := 3#5, ra := 1#5, rb := 0#5, func := 3#7 }
    let s := device.updSc 0 fun x => x.wg 1#5 0x3ff0000000000000#64
    let u := s.updSc 0 fun x => { x with trapEn := 0x1f#5 }
    fpuBad f = false ∧ Runs s 0 always ∧ (fpuResult f (s.sc 0)).2.traps (s.sc 0).trapEn = false ∧
    (fpuResult f (u.sc 0)).2.traps (u.sc 0).trapEn = true ∧ (u.sc 0).priv = 0#2 ∧ fcvtLegal Fmt.binary32 Fmt.k9f = true ∧
    did (.fpu 0 always f) s (fun t => (t.sc 0).rg 3#5 = 0x7ff0000000000000#64) ∧
    did (.fpu 0 always f) u (fun t => (t.sc 0).ecauseCode = 0x0a#8 ∧ (t.sc 0).rg 3#5 = 0#64 ∧ (t.sc 0).retired = 0#64) := by decide +kernel

theorem witness_ControlTransfersAndTraps :
    let s := runtime
    Runs s 0 always ∧ (s.sc 0).rg 1#5 &&& 3#64 = 0#64 ∧ (s.sc 0).opmode = 0#2 ∧ (s.sc 0).ss.length < 64 ∧
    (s.sc 0).ss.getLast? = some ((s.sc 0).rg 31#5) ∧ (s.sc 0).priv < 2#2 ∧
    did (.br 0 always 0x3fffff#22) s (fun t => (t.sc 0).pc = 0x3fc#64) ∧
    did (.callr 0 always { plainSys with ra := 1#5 }) s (fun t => (t.sc 0).pc = 0x2000#64 ∧ (t.sc 0).ss = [0x1000#64, 0x404#64]) ∧
    did (.ret 0 always plainSys) s (fun t => (t.sc 0).pc = 0x1000#64 ∧ (t.sc 0).ss = []) ∧
    did (.trap 0 always { plainSys with rb := 31#5 }) s (fun t => (t.sc 0).ecauseInfo = 31#8 ∧ (t.sc 0).epc = 0x405#64) := by decide +kernel
theorem witness_ControlTransfersAndTraps_eret :
    let s := runtime.updSc 0 fun x => { x with epc := 0x500#64, epriv := 1#2 }
    let t := (s.sc 0).epc.extractLsb' 0 2
    1#2 ≤ (s.sc 0).priv ∧ t ≤ (s.sc 0).epriv ∧ t ≠ 3#2 ∧ (s.sc 0).rg 31#5 &&& 3#64 = 0#64 ∧
    did (.eret 0 always plainSys) s (fun t => (t.sc 0).pc = 0x500#64 ∧ (t.sc 0).priv = 0#2) := by decide +kernel
theorem witness_ExceptionsEnterOrStopTheCore :
    let e : Exc := { code := 0x01#8, info := 0#8, eaddr := 0#64 }
    hardwareFault e.code = true ∧ (device.sc 0).opmode ≠ 0#2 ∧ (device.sc 0).priv = 0#2 ∧ (runtime.sc 0).opmode = 0#2 ∧
    (let s := runtime.updSc 0 fun x => { x with opmode := 2#2, monitorEntry := true }
     (s.sc 0).priv ≠ 0#2 ∧ (s.sc 0).monitorEntry = true) ∧ ((runtime.raise 0 e).sc 0).run = .quarantined := by decide +kernel
theorem witness_InterruptsShieldAndWait :
    let s := runtime.updSc 0 fun x => { x with irqmask := 0x40#7 }
    let u := s.updCore 0 fun k => { k with pw := { k.pw with evt := 1#6, mask := 1#6 } }
    (s.sc 0).priv = 1#2 ∧ (s.sc 0).shieldUsed = false ∧ s.irqEnabled 0 = false ∧ u.irqEnabled 0 = true ∧ u.clocked 0 = true ∧
    (u.sc 0).run = .running ∧ (u.sc 0).shielded = false ∧ (u.sc 0).hold = false ∧ (u.irqPend 0).getLsbD 6 = true ∧
    did (.shield 0 always plainSys) s (fun t => (t.sc 0).shieldOpen = true ∧ (t.sc 0).shieldUsed = true) ∧
    did (.wait 0 always plainSys) s (fun t => (t.sc 0).run = .waiting) ∧ did (.wait 0 always plainSys) u (fun t => (t.sc 0).run = .running) ∧
    did (.interrupt 0) u (fun t => (t.sc 0).ecauseInt = true ∧ (t.sc 0).ecauseCode = 6#8 ∧ (t.sc 0).pc = 0x8000#64) ∧
    did (.interrupt 0) s (fun t => (t.sc 0).pc = 0x400#64) ∧ (u.mx 0).midCycle = false ∧
    did (.fence 0 always plainSys) s (fun t => (t.sc 0).pc = 0x404#64) ∧
    (let w := s.updSc 0 fun x => { x with lbValid := true, late := [⟨0x18#64, 1#64⟩] }
     Runs w 0 always ∧ did (.fence 0 always plainSys) w fun t => (t.sc 0).pc = 0x400#64) := by decide +kernel

/-- The last eight bytes below the mooring slots of the own lagoon. -/
theorem witness_LoadsStoresAndDrains_lagoon :
    let s := device.updSc 0 fun x => { setG [(1, ownBase + 0xffdf8), (4, 0xf1f2f3f4f5f6f7f8), (5, ownBase + 0xffdc0)] x with
      lagoon := put8 [] 0xffdf8 0x99aabbccddeeff11 }
    let f : FmtM := { rt := 4#5, rb := 1#5, size := 3#2, am := 0#3, amf := 0#7 }
    Runs s 0 always ∧ s.locate 0 (ownBase + 0xffdf8) 8 = .own 0xffdf8 ∧ s.engineHolds 0 0xffdf8 8 = false ∧ loadBad f = false ∧
    amReserved f.am f.amf = false ∧ 0xffdf8 + 8 ≤ mooringFree ∧
    did (.ld 0 always f) s (fun t => (t.sc 0).rg 4#5 = 0x99aabbccddeeff11#64) ∧
    did (.st 0 always f) s (fun t => readNat (t.sc 0).lagoon 0xffdf8 8 = 0xf1f2f3f4f5f6f7f8) ∧
    did (.dzl 0 always { rb := 5#5, size := 3#2, am := 0#3, amf := 0#7 }) s (fun t => (t.sc 0).lagoon = []) := by decide +kernel
theorem witness_LoadsStoresAndDrains_memory :
    let b : BufferedStore := { ea := 0x10#64, dpa := 0x200010, ctx := 5, epoch := 0#16, data := [1#8, 2#8], retiredAt := 0#64 }
    let s := device.updSc 0 fun x => x.wg 1#5 0x10#64
    let u := s.updSc 0 fun x => { x with stores := [b] }
    let f : FmtM := { rt := 4#5, rb := 1#5, size := 3#2, am := 0#3, amf := 0#7 }
    s.translate 5 0x10 .read 0#2 = .ok 0x200010 0x200033#64 ∧ leafC 0x200033#64 = false ∧
    s.translate 5 0x10 .write 0#2 = .ok 0x200010 0x200033#64 ∧
    (s.sc 0).stores = [] ∧ PlainMemory s 5 0x200010 8 ∧ (s.sc 0).l1Way 5 0x200010 = none ∧
    did (.ldu 0 always f) s (fun t => (t.sc 0).rg 4#5 = 0x1122334455667788#64) ∧
    did (.st 0 always f) s (fun t => (t.sc 0).stores.length = 1 ∧ t.mem = s.mem) ∧
    did (.storeBufferDrain 0 0#4) u (fun t => (t.sc 0).stores = [] ∧ readNat t.mem 0x200010 8 = 0x1122334455660201) := by
  decide +kernel

/-- Core 0 at runtime level holds a modified line of context 5's page 1, which is cacheable. -/
def cached : State :=
  let y : L1Line := { ctx := 5, line := 0x401, dpaLine := 0x8401, data := List.replicate 64 9#8, modified := true, bad := false }
  device.updSc 0 fun x => { setG [(1, 0x10040), (2, 0x10080), (3, ownBase)] x with
    priv := 1#2, l1 := [(1, { ways := Vector.ofFn fun i => if i = 2 then some y else none, tree := 0#7 })] }
theorem witness_CacheOperationsAndLateErrors :
    let at_ (r : BitVec 5) : FmtCache := { rb := r, size := 3#2, am := 0#3, amf := 0#7 }
    let s := cached
    let line (t : State) : Option L1Line := (t.sc 0).l1Line 0x8401 2
    Runs s 0 always ∧ cacheEa (s.sc 0) (at_ 1#5) = 0x10040 ∧ s.walk 5 0x10040 = .ok 0x210040 0x210133#64 ∧ (s.sc 0).l1Way 5 0x210040 = some 2 ∧ PlainMemory s 5 0x210040 64 ∧
    s.translate 5 0x10080 .read 1#2 = .ok 0x210080 0x210133#64 ∧ leafC 0x210133#64 = true ∧ (s.sc 0).l1Way 5 0x210080 = none ∧ PlainMemory s 5 0x210080 64 ∧
    (s.sc 0).miss = .none ∧ s.locate 0 ownBase 64 = .own 0 ∧
    did (.clean 0 always (at_ 1#5)) s (fun t => readBytes t.mem 0x210040 64 = List.replicate 64 9#8 ∧ (line t).isSome = true) ∧
    did (.flush 0 always (at_ 1#5)) s (fun t => readBytes t.mem 0x210040 64 = List.replicate 64 9#8 ∧ line t = none) ∧
    did (.inval 0 always (at_ 1#5)) s (fun t => t.mem = s.mem ∧ line t = none) ∧
    did (.pref 0 always (at_ 2#5)) s (fun t => (t.sc 0).miss = .fill 5 0x402) := by decide +kernel
theorem witness_CacheOperationsAndLateErrors_late :
    let b : BufferedStore := { ea := 0x10#64, dpa := 0x200010, ctx := 5, epoch := 0#16, data := [1#8], retiredAt := 2#64 }
    let s := device.updSc 0 fun x => { x with stores := [b], retired := 9#64 }
    let u := s.updSc 0 fun x => { x with lbValid := true }
    (s.sc 0).run ≠ .quarantined ∧ (s.sc 0).opmode ≠ 0#2 ∧ (s.sc 0).priv = 0#2 ∧ (s.sc 0).lbValid = false ∧ (s.sc 0).late = [] ∧
    did (.lateBusError 0 0#4) s (fun t => (t.sc 0).lbValid = true ∧ (t.sc 0).lbCount = 7#32 ∧ (t.sc 0).ecauseCode = 0x04#8) ∧
    did (.lateBusError 0 0#4) u (fun t => (t.sc 0).late.length = 1 ∧ (t.sc 0).stores = []) ∧
    Runs u 0 always ∧ did (.lbinfoRead 0 3#5) u (fun t => (t.sc 0).lbValid = false) ∧
    (let w := u.updSc 0 fun x => { x with late := [⟨0x18#64, 1#64⟩] }
     Runs w 0 always ∧ did (.lbinfoRead 0 3#5) w (fun t => (t.sc 0).lbaddr = 0x18#56 ∧ (t.sc 0).late = [] ∧ (t.sc 0).epc = 0x404#64)) := by
  decide +kernel

theorem witness_AtomicsAndLongOperations_amo :
    let s := device.updSc 0 fun x => setG [(1, 0x10), (2, 5), (3, 0x1122334455667788)] x
    let f : FmtA := { rd := 3#5, ra := 1#5, rb := 2#5, func := 0#7 }
    (amoOp f.func 0x1122334455667788 5 0x1122334455667788).isSome = true ∧ s.translate 5 0x10 .amo 0#2 = .ok 0x200010 0x200033#64 ∧
    (s.sc 0).l1Way 5 0x200010 = none ∧ (s.sc 0).stores = [] ∧ PlainMemory s 5 0x200010 8 ∧
    did (.amo 0 always f) s (fun t => (t.sc 0).rg 3#5 = 0x1122334455667788#64) := by decide +kernel
/-- One byte, and 16 bytes that overlap their source and end at the last byte below the mooring slots. -/
theorem witness_AtomicsAndLongOperations_long :
    let s := runtime.updSc 0 fun x => { setG [(1, ownBase + 0xffdec), (2, ownBase + 0xffdf0), (3, 16), (4, 1)] x with
      lagoon := writeBytes [] 0xffdec (List.replicate 4 1#8 ++ List.replicate 12 2#8) }
    s.locate 0 (ownBase + 0xffdf0) 16 = .own 0xffdf0 ∧ s.engineHolds 0 0xffdf0 16 = false ∧ 0xffdf0 + 16 ≤ mooringFree ∧
    (s.sc 0).lprogValid = false ∧ s.canIssue 0 = true ∧ 1#2 ≤ (s.sc 0).priv ∧
    did (.lcopy 0 always { rd := 2#5, ra := 1#5, rb := 3#5 }) s (fun t =>
      readBytes (t.sc 0).lagoon 0xffdf0 16 = List.replicate 4 1#8 ++ List.replicate 12 2#8 ∧ (t.sc 0).rg 3#5 = 0#64) ∧
    did (.zfill 0 always { rd := 2#5, ra := 0#5, rb := 4#5 }) s (fun t =>
      byteAt (t.sc 0).lagoon 0xffdf0 = 0#8 ∧ byteAt (t.sc 0).lagoon 0xffdf1 = 2#8) ∧
    (let u := (s.updSc 0 fun x => { x with irqmask := 0x40#7 }).updCore 0 fun k => { k with pw := { k.pw with evt := 1#6, mask := 1#6 } }
     Runs u 0 always ∧ u.irqEnabled 0 = true ∧ badIn (s.sc 0).lagoonBad 0xffdec 16 = none) ∧
    did (.lprogAbandon 0) s (fun t => (t.sc 0).lprogValid = false) := by decide +kernel

theorem witness_PortsObeyTheirLevel :
    let s := device.updSc 0 (setG [(1, 0x20), (2, 0x7777)])
    outLevel 0x20 = some 2#2 ∧ outLevel 0x29 = some 1#2 ∧ outLevel 0x10 = none ∧ (s.sc 0).priv = 0#2 ∧ (runtime.sc 0).priv = 1#2 ∧ runtime.canIssue 0 = true ∧
    did (.outr 0 always { rd := 0#5, ra := 1#5, rb := 2#5 }) s (fun t =>
      (t.sc 0).ecauseInfo = 2#8 ∧ (t.sc 0).eaddr = 0x20#64 ∧ (t.sc 0).evecRt = 0x8000#64) ∧
    did (.registerWrite 0 0x29#16 0x7f#64) runtime (fun t => (t.sc 0).irqmask = 0x7f#7) := by decide +kernel
theorem test_feature_words :
    did (.portIn 0 always { g := 3#5, port := 0x10#16 }) device (fun t => (t.sc 0).rg 3#5 = 0x0000_0000_0fff_1fff#64) ∧
    did (.portIn 0 always { g := 3#5, port := 0x11#16 }) device (fun t => (t.sc 0).rg 3#5 = 0x0014_04b0_9682_0806#64) := by decide +kernel

/-- Core 0 with VCFG of binary32, one register a group, VL 3; v1 holds 1.0, 2.0, 3.0 and v2 holds 0.5 in its first three elements. -/
def vectors : State :=
  device.updVec 0 fun x => { x with
    efmt := Fmt.binary32, cfmt := Fmt.k9f, grp := 0#2, vl := 3#12, k := x.k.set 1 5#2048
    v := (x.v.set 1 0x40400000_40000000_3f800000#1024).set 2 0x3f000000_3f000000_3f000000#1024 }
/-- A reserved bit, the reserved format 0xc, the last format 0xb; a VL of VLMAX and one above. -/
theorem witness_VcfgAndVlenWrites :
    vectors.canIssue 0 = true ∧ Runs vectors 0 always ∧ (vectors.vec 0).vlmax = 32 ∧
    did (.vcfg 0 0x40#64) vectors (fun t => (t.vec 0).cfgRej = true ∧ (t.vec 0).efmt = Fmt.binary32) ∧
    did (.vcfg 0 0x00c#64) vectors (fun t => (t.vec 0).cfgRej = true) ∧
    did (.vcfg 0 0xb0b#64) vectors (fun t => (t.vec 0).cfgRej = false ∧ (t.vec 0).efmt = Fmt.s64) ∧
    did (.vlen 0 32#64) vectors (fun t => (t.vec 0).vl = 32#12) ∧
    did (.vlen 0 33#64) vectors (fun t => (t.vec 0).vl = 3#12 ∧ (t.vec 0).cfgRej = true) := by decide +kernel
theorem test_vsetvl :
    let s := vectors.updSc 0 fun x => x.wg 2#5 100#64
    did (.vsetvl 0 always { vd := 3#6, va := 2#6, msel := 0#3, pol := false }) s (fun t =>
      (t.vec 0).vl = 32#12 ∧ (t.sc 0).rg 3#5 = 32#64 ∧ (t.vec 0).cfgRej = false) := by decide +kernel
theorem witness_VectorArithmetic :
    let x := vectors.vec 0
    let f : FmtVR := { vd := 3#6, va := 1#6, vb := 2#6, msel := 1#3, pol := true }
    let res (j : Nat) : Coded := elemOp .add x.efmt x.rnd x.om (x.elem x.efmt 1 j) (x.elem x.efmt 2 j) (x.elem x.efmt 3 j)
    x.sound = true ∧ plainCheck arithFmt [3#6, 1#6, 2#6] x = none ∧ plainCheck floatFmt [3#6, 1#6] x = none ∧
    Untrapped x 1#3 res ∧
    did (.vadd 0 always f .pass) vectors (fun t => (t.vec 0).reg 3 = 0x40600000_00000000_3fc00000#1024) := by decide +kernel
theorem witness_VectorMovesAndCompares :
    let x := vectors.vec 0
    let f : FmtVU := { vd := 3#6, va := 1#6, msel := 0#3, pol := false }
    let res (j : Nat) : Coded := convertFmt x.cfmt x.rnd x.om false ((x.elem x.efmt 1 j).val x.efmt)
    Runs vectors 0 always ∧ plainCheck allFmt [3#6, 1#6] x = none ∧ plainCheck notK4 [3#6] x = none ∧ topBit 1#6 = false ∧
    cvtCheck f x = none ∧ x.efmt ≠ Fmt.k4 ∧ x.cfmt ≠ Fmt.k4 ∧ Untrapped x 0#3 res ∧ x.vl ≠ 0#12 ∧
    groupsAligned [x.grpAt 3#6, x.grpAt 1#6] = true ∧ (x.grpAt 3#6).disjoint (x.grpAt 1#6) = true ∧
    did (.vcompress 0 always { f with msel := 1#3 }) vectors (fun t => (t.vec 0).reg 3 = 0x40400000_3f800000#1024) ∧
    did (.vget 0 always { vd := 7#6, va := 1#6, msel := 0#3, pol := false }) vectors (fun t => (t.sc 0).rg 7#5 = 0x3f800000#64) := by
  decide +kernel
theorem test_viota :
    let s := vectors.updVec 0 fun x => { x with efmt := Fmt.s32 }
    plainCheck wraps [3#6] (s.vec 0) = none ∧
    did (.viota 0 always { vd := 3#6, va := 0#6, msel := 0#3, pol := false }) s (fun t => (t.vec 0).reg 3 = 0x2_00000001_00000000#1024) := by
  decide +kernel
theorem witness_VectorMovesAndCompares_vcmp :
    let x := vectors.vec 0
    plainCheck (fun e => arithFmt e && !(0#3 = 6#3 && (wraps e || e = Fmt.k9i))) [1#6, 2#6] x = none ∧
    (∀ i, i < 3 → (vcmpOp 0#3 ((x.elem x.efmt 1 i).val x.efmt) ((x.elem x.efmt 2 i).val x.efmt)).2.traps x.trapEn = false) ∧
    did (.vcmp 0 always { vd := 16#6, va := 1#6, vb := 1#6, msel := 0#3, pol := false } .pass) vectors (fun t =>
      (t.vec 0).mask 2#3 = 7#2048 ∧ (t.vec 0).v = x.v) := by decide +kernel
theorem witness_MaskOperationsAndReductions :
    let x := vectors.vec 0
    let es := (List.range 3).map fun i => some (x.elem x.efmt 1 i)
    x.vl ≠ 0#12 ∧ redFmt 1 x.efmt = true ∧ (x.grpAt 1#6).aligned = true ∧
    ({ base := 3, size := 1 } : VGroup).compatible (x.grpAt 1#6) = true ∧ (redIdentity 1 x.efmt x.om).flags.traps x.trapEn = false ∧
    ((reduceElems 1 x.efmt x.rnd x.om es).all fun p => !p.flags.traps x.trapEn) = true ∧
    did (.kpop 0 always { vd := 7#6, va := 1#6, msel := 0#3, pol := false }) vectors (fun t => (t.sc 0).rg 7#5 = 2#64) ∧
    did (.vectorReduction 0 always 1#6 { vd := 3#6, va := 1#6, msel := 0#3, pol := false } .pass) vectors (fun t =>
      ((t.vec 0).elem x.efmt 3 0).bits = 0x40c00000 ∧ (t.vec 0).empty = false) := by decide +kernel
theorem witness_MaskOperationsAndReductions_empty :
    let s := vectors.updVec 0 fun x => { x with k := x.k.set 1 0#2048 }
    let u := s.updVec 0 fun x => { x with vl := 0#12 }
    (u.vec 0).vl = 0#12 ∧
    did (.kpop 0 always { vd := 7#6, va := 1#6, msel := 0#3, pol := false }) u (fun t => (t.sc 0).rg 7#5 = 0#64) ∧
    did (.vectorReduction 0 always 2#6 { vd := 3#6, va := 1#6, msel := 1#3, pol := false } .pass) s (fun t =>
      ((t.vec 0).elem Fmt.binary32 3 0).bits = 0x3f800000 ∧ (t.vec 0).empty = true) := by decide +kernel
/-- Three binary32 words that end at the last byte below the mooring slots. -/
theorem witness_VectorLoadsAndStores :
    let s := vectors.updSc 0 fun x => { setG [(3, ownBase + 0xffdf4)] x with lagoon := put8 [] 0xffdf8 0x22222222_11111111 }
    let x := s.vec 0
    Runs s 0 always ∧ x.sound = true ∧ FmtCode.perWord x.efmt = 1 ∧ (x.grpAt 4#6).aligned = true ∧ 0xffdf4 % 4 = 0 ∧
    0xffdf4 + 3 * 4 ≤ mooringFree ∧ (∀ i, i < 3 → s.engineHolds 0 (0xffdf4 + i * 4) 4 = false) ∧
    did (.vectorLoad 0 always { vt := 4#6, gb := 3#5, mode := 0#3, param := 0#4, msel := 0#3, pol := false }) s (fun t =>
      (t.vec 0).reg 4 = 0x22222222_11111111_00000000#1024) ∧
    did (.vectorStore 0 always { vt := 1#6, gb := 3#5, mode := 0#3, param := 0#4, msel := 1#3, pol := false }) s (fun t =>
      readNat (t.sc 0).lagoon 0xffdf4 12 = 0x40400000_11111111_3f800000) := by decide +kernel
/-- The first-fault load's first element is the lagoon's last word. -/
theorem witness_VectorLoadsAndStores_firstFault :
    let s := vectors.updSc 0 fun x => setG [(3, ownBase + 0xffffc)] x
    (vectors.vec 0).sound = true ∧ s.probe 0 (ownBase + 0xffffc + 4) 4 = false ∧ s.probe 0 (ownBase + 0xffffc) 4 = true ∧ 0xffffc + 4 ≤ lagoonSize ∧
    did (.firstFaultLoad 0 always { vt := 4#6, gb := 3#5, param := 0#4, msel := 0#3, pol := false }) s (fun t =>
      (t.vec 0).vl = 1#12 ∧ (t.vec 0).ffTrunc = true) := by decide +kernel
theorem witness_K4InlineBlocks :
    let s := (device.updVec 0 fun x => { x with efmt := Fmt.k4, vl := 32#12 }).updSc 0 fun x => { setG [(3, ownBase + 0x100)] x with
      lagoon := put8 (put8 [] 0x100 0x296) 0x110 0x001 }
    let f : FmtVMmode := { vt := 4#6, gb := 3#5, param := 0#4, msel := 0#3, pol := false }
    (s.vec 0).sound = true ∧ vmCheck (vmWithMode f modeK4inl) false (s.vec 0) = none ∧ 0x100 % 8 = 0 ∧
    s.engineHolds 0 0x100 8 = false ∧
    did (.k4inl 0 always false f) s (fun t => ((t.vec 0).elem Fmt.k4 4 1).bits = 9 ∧ (t.vec 0).scale 5 0 = 1) := by decide +kernel

/-! The matrix engine: FP64-9, operands in binary64, one row. -/

def matrixLagoon : Bytes :=
  [(0x1000, 0x3ff0000000000000), (0x1008, 0x4000000000000000), (0x2000, 0x3ff0000000000000), (0x2008, 0x4008000000000000)].foldl
    (fun m x => put8 m x.1 x.2) []
def matrices : State :=
  (runtime.updSc 0 fun x => { setG [(1, 0x4006), (2, 0x2000), (3, 0x1000), (4, 6), (6, 0x77)] x with lagoon := matrixLagoon }).updMx 0
    fun m => { m with mcfg := 0x4006#64 }
/-- MX.CFG; LSKEW enabled over one kilobyte, and rejected with a pitch that is not sound. -/
theorem witness_MatrixConfiguration :
    let s := matrices
    let w := (s.sc 0).rg 1#5
    modeFmtOk (cfgMode w) (cfgA w) = true ∧ modeFmtOk (cfgMode w) (cfgB w) = true ∧ w &&& 0xffffffffff003000#64 = 0#64 ∧ cfgRows w ≤ 64 ∧
    (s.mx 0).progValid = false ∧ s.canIssue 0 = true ∧ 1#2 ≤ (s.sc 0).priv ∧ (s.mx 0).skewRejected 0 (0#64 &&& skewMask) = false ∧
    (s.mx 0).skewRejected 0 (0x8000_0000_0000_0000#64 &&& skewMask) = true ∧
    did (.mxCfg 0 always { gs := 1#5, rsv := 0#13 }) (s.updMx 0 fun m => { m with mcfg := 0#64 }) (fun t => (t.mx 0).mcfg = 0x4006#64) ∧
    did (.lskew 0 0#2 0x8000_0000_0000_0000#64) s (fun t => (t.mx 0).skewReject = true) ∧
    did (.mprogAbandon 0) (s.updMx 0 fun m => { m with progValid := true }) (fun t => (t.mx 0).progValid = false) := by decide +kernel
def loading : State :=
  let m := matrices.mx 0
  matrices.updMx 0 fun m' => { m' with wr0 :=
    { st := 1#2, fmt := Fmt.binary64, k := modeK 6, n := modeN 6, t := false, offs := m.chunkOffs 0x2000 0 false, before := matrixLagoon, cols := [] } }
theorem witness_WeightLoadsAndRestores :
    let s := matrices
    let m := s.mx 0
    Runs s 0 always ∧ (m.wr0.used && m.wr1.used) = false ∧ cfgB m.mcfg ≠ Fmt.k4 ∧
    ((m.chunkOffs (fld ((s.sc 0).rg 2#5) 19 0) 0 false).all fun o => o % segAlign (cfgB m.mcfg) = 0) = true ∧
    (loading.mx 0).wr0.st = 1#2 ∧ loading.clocked 0 = true ∧ (loading.sc 0).run ≠ .quarantined ∧ (loading.mx 0).wr0.before = (loading.sc 0).lagoon ∧
    did (.mxLdw 0 always { gw := 2#5, bank := false, t := false, rsv := 0#10 }) s (fun t => (t.mx 0).wr0.st = 1#2) ∧
    did (.weightLoadComplete 0 false) loading (fun t => (t.mx 0).wr0.st = 2#2 ∧ (t.mx 0).wr0.cols.length = modeN 6) := by decide +kernel
theorem images_of_an_empty_lagoon (base : Nat) : imagesReason (imagesAt [] base) = none := by
  have h : ∀ x ∈ imagesAt [] base, x = 0#128 := by
    intro x hx
    simp only [imagesAt, List.mem_map] at hx
    obtain ⟨i, -, rfl⟩ := hx
    have e : readWrap [] (base + 16 * i) 16 = (List.range 16).map fun _ => unlistedByte := rfl
    rw [e]
    decide +kernel
  have none_of (p : BitVec 128 → Bool) (hp : p 0#128 = false) : (imagesAt [] base).any p = false := by
    rw [List.any_eq_false]
    intro x hx
    rw [h x hx, hp]
    decide
  simp only [imagesReason, none_of imageReserved (by decide), none_of (fun x => !(accOfImage x).sound) (by decide +kernel), if_false,
    Bool.false_eq_true]
theorem witness_WeightLoadsAndRestores_acc :
    let s := matrices.updSc 0 fun x => { setG [(2, 0x3000)] x with lagoon := [] }
    let u := matrices.updMx 0 fun m => { m with restores := m.restores.set 1 (some { base := 0x3000#20, before := matrixLagoon }) }
    Runs s 0 always ∧ (s.mx 0).progValid = false ∧ (s.mx 0).bankBusy false = false ∧ (s.sc 0).rg 2#5 = 0x3000#64 ∧ (s.sc 0).lagoon = [] ∧
    (u.mx 0).restores.get (bankIx true) = some { base := 0x3000#20, before := matrixLagoon } ∧ u.enginesRun 0 = true ∧
    (u.sc 0).lagoon = matrixLagoon := by decide +kernel
/-- A sequence of one step left (gc = 1), and one of two. -/
def stepping (gc : Nat) : State :=
  let w := matrices.mx 0
  (matrices.updSc 0 fun x => { setG [(4, gc)] x with run := .matrix }).updMx 0 fun m => { m with
    wr0 := { st := 2#2, fmt := Fmt.binary64, k := modeK 6, n := modeN 6, t := false, offs := [], before := []
             cols := ({ w.wr0 with fmt := Fmt.binary64, k := modeK 6, n := modeN 6, offs := w.chunkOffs 0x2000 0 false } : WReg).columns matrixLagoon }
    seq := some { ga := 0x1000#20, gw := 0x2000#20, rc := 4#5, chunk := 0#16, pass := 0#4, row := 0#7 }, seen := matrixLagoon }
theorem witness_MatrixSequencesAndSteps :
    let q : Seq := { ga := 0x1000#20, gw := 0x2000#20, rc := 4#5, chunk := 0#16, pass := 0#4, row := 0#7 }
    let s := stepping 1
    let m := s.mx 0
    m.sound = true ∧ m.seq = some q ∧ s.clocked 0 = true ∧ (m.wr m.wnext).st = 2#2 ∧ (m.wr m.wnext).fits 6 = true ∧
    m.rowHeld (cfgBank m.mcfg) 0 = false ∧ m.mustLoad q 1 = false ∧ m.rowSound q = true ∧
    ((List.range 4).all fun sh => m.actOff q sh % segAlign (cfgA m.mcfg) = 0) = true ∧
    did (.step 0 { first := 0#4, again := false }) s (fun t =>
      (t.sc 0).run = .running ∧ (t.mx 0).seq = none ∧ (t.sc 0).rg 4#5 = 0#64 ∧ (t.sc 0).pc = 0x404#64) ∧
    did (.step 0 { first := 0#4, again := false }) (stepping 2) (fun t => (t.sc 0).run = .matrix ∧ (t.mx 0).seq.isSome = true ∧ (t.sc 0).rg 4#5 = 1#64) := by
  decide +kernel
theorem witness_MatrixSequencesAndSteps_seq :
    let f : FmtMxSeq := { ga := 3#5, gw := 2#5, gc := 4#5, rsv := 0#3 }
    let s := stepping 6 |>.updMx 0 fun m => { m with seq := none }
    let s := s.updSc 0 fun x => { x with run := .running }
    Runs s 0 always ∧ (s.sc 0).rg 4#5 ≠ 0#64 ∧ cfgRows (s.mx 0).mcfg ≠ 0 ∧ (s.sc 0).rg 4#5 < 0x10000#64 ∧ (s.mx 0).wr0.used = true ∧
    did (.mxSeq 0 always f) s (fun t => (t.sc 0).run = .matrix ∧ (t.mx 0).seq.isSome = true ∧ (t.sc 0).pc = 0x400#64) ∧
    did (.mxSeq 0 always { f with gc := 0#5 }) s (fun t => (t.sc 0).run = .running ∧ (t.sc 0).pc = 0x404#64) := by decide +kernel
def draining (kind : DrainKind) (n : Nat) : State :=
  let d : Drain :=
    { kind := kind, cfg := 0x4006#64, fmt := Fmt.binary64, rm := 0#3, om := false, clear := true, tag := 0x77#16, dseq := 0#16, base := 0x77#20
      lanes := Vector.replicate 4 { taken := true, read := n, written := n, links := [] } }
  matrices.updMx 0 fun m => { m with
    drains := m.drains.set 0 (some d), tq := (List.range 4).map fun sh => { hdr := d.hdr false sh, status := 0#128, data := [], visible := false } }
theorem witness_MatrixDrains :
    let f : FmtMxDrn := { fmt := Fmt.binary64, rm := 0#3, om := false, bank := false, clear := true, img := false, gd := 6#5, rsv := false }
    let s := draining .push 0
    let m := s.mx 0
    drnBad f = false ∧ Runs matrices 0 always ∧ (matrices.mx 0).progValid = false ∧ (matrices.mx 0).trapPend = false ∧
    (matrices.mx 0).bankBusy false = false ∧ s.enginesRun 0 = true ∧
    (match m.drains.get 0 with | some d => m.drainSound d false 3 (modeN 6) && !d.finished | none => false) = true ∧
    did (.mxDrn 0 always f) matrices (fun t => ((t.mx 0).drains.get 0).isSome = true ∧ (t.mx 0).dseq = 1#16) ∧
    did (.mxDrnDiscard 0 always f) matrices (fun t => ((t.mx 0).drains.get 0).isSome = true) ∧
    did (.drainRowWrite 0 false 3#2 { first := 0#16, again := false }) s (fun t =>
      (t.mx 0).tq.map (fun (u : Tile) => u.visible) = [false, false, false, true]) := by decide +kernel
theorem witness_MatrixDrains_end :
    let s := draining .push 1
    (match (s.mx 0).drains.get 0 with | some d => d.finished | none => false) = true ∧ (s.mx 0).discardWait = false ∧
    s.canIssue 0 = true ∧ 1#2 ≤ (s.sc 0).priv ∧ (s.ew 0).job = none ∧
    did (.drainEnd 0 false) s (fun t => (t.mx 0).drains.get 0 = none ∧ (t.mx 0).tq.length = 4) ∧
    did (.tqdiscard 0 1#64) s (fun t => (t.mx 0).discardWait = true ∧ (t.mx 0).tq.length = 4) ∧
    did (.mxDrnImg 0 always { fmt := 0#4, rm := 0#3, om := false, bank := true, clear := true, img := false, gd := 2#5, rsv := false }) s (fun t =>
      ((t.mx 0).drains.get 1).isSome = true) := by decide +kernel

/-! The element-wise engine: `copyDesc f n` copies n elements of format code f from offset 0x1000 to 0x2000. -/

def copyDesc (f n : Nat) (before : Bytes) : EwDesc :=
  let w := FmtCode.wordBytes (BitVec.ofNat 4 f)
  let ws := [0, f * 2 ^ 28 + f * 2 ^ 24 + f * 2 ^ 16, 0x1000, 0x2000, n + 2 ^ 16 + 2 ^ 32 + 2 ^ 48, 1, 0, 0, 0, 0, 0, 0, 0, 0, n * w, n * w]
  { words := Vector.ofFn fun i => word (ws.getD i.val 0), before := before }
def elements : State :=
  runtime.updSc 0 fun x => { x with lagoon := writeBytes [] 0x1000 ((List.range 65).flatMap fun i => leBytes 4 (i + 1)) }
def withEw (s : State) (f : Ew → Ew) : State := s.updEw 0 f
/-- The whole of a short descriptor, and the one element that a batch of 64 has left of 65. -/
theorem witness_BatchesMoveElements :
    let lag := (elements.sc 0).lagoon
    let j (n : Nat) := EwJob.start (copyDesc 1 n lag)
    let s := withEw elements fun e => { e with job := some (j 3) }
    let u := withEw elements fun e => { e with job := some { j 65 with pos := 64 } }
    let d := (j 65).desc
    d.check = 0 ∧ (j 65).sinking = false ∧ s.enginesRun 0 = true ∧ d.s0kind = 0 ∧ d.dkind = false ∧ d.redop = 0 ∧ d.len = 0 ∧
    d.s0fmt = d.cfmt ∧ d.ofmt = d.cfmt ∧ FmtCode.perWord d.cfmt = 1 ∧ d.ext 0 = 65 ∧ d.ext 1 = 1 ∧ d.ext 4 = 1 ∧
    did (.batch 0 .pass) s (fun t => readNat (t.sc 0).lagoon 0x2000 16 = 0x00000003_00000002_00000001 ∧ (t.ew 0).due = [(j 3).record 0]) ∧
    did (.batch 0 .pass) u (fun t => readNat (t.sc 0).lagoon 0x2100 4 = 65 ∧ (t.ew 0).job = none ∧ (t.ew 0).due.length = 1) := by
  decide +kernel
/-- The last place a descriptor fits, and one that is not a multiple of 128. -/
theorem witness_ElementwiseDescriptors_post :
    elements.canIssue 0 = true ∧ 0xfff80 < 0x100000 ∧
    did (.ewpost 0 0xfff80#64) elements (fun t => (t.ew 0).queue.length = 1 ∧ (t.ew 0).postRej = false) ∧
    did (.ewpost 0 0xfff40#64) elements (fun t => (t.ew 0).queue = [] ∧ (t.ew 0).postRej = true ∧ (t.ew 0).rej = 1#32) := by decide +kernel
theorem witness_ElementwiseDescriptors :
    let d := copyDesc 1 3 []
    let bad := copyDesc 0xc 3 []
    let s := withEw elements fun e => { e with queue := [d] }
    let u := withEw elements fun e => { e with queue := [bad] }
    let v := withEw elements fun e => { e with due := [(EwJob.start d).record 0], fifo := List.replicate 15 { word := 1#64, irq := false } }
    d.check = 0 ∧ d.outputs ≠ 0 ∧ bad.check ≠ 0 ∧ s.enginesRun 0 = true ∧ (s.ew 0).job = none ∧ (s.ew 0).due = [] ∧
    did (.descriptorStart 0) s (fun t => (t.ew 0).job = some (EwJob.start d) ∧ (t.ew 0).queue = []) ∧
    did (.descriptorStart 0) u (fun t => (t.ew 0).job = none ∧ (t.ew 0).due.length = 1) ∧
    did (.completionRecordPush 0) v (fun t => (t.ew 0).fifo.length = 16 ∧ (t.ew 0).due = []) ∧
    did (.ewcpl 0 3#5) v (fun t => (t.sc 0).rg 3#5 = 1#64 ∧ (t.ew 0).fifo.length = 14) := by decide +kernel
/-- A descriptor that takes binary32 tiles of 16 by 1: a matching tile, and one of another format; then an abort. -/
theorem witness_ElementwiseDescriptors_tile :
    let d := copyDesc 1 1 []
    let d : EwDesc := { d with words := d.words.set 0 (word (2 ^ 28)) }
    let j := EwJob.start d
    let tile (f : Nat) : Tile := { hdr := word (f * 2 ^ 28 + 2 ^ 16 + 2 ^ 11), status := 0#128, data := [], visible := true }
    let s (f : Nat) := (withEw elements fun e => { e with job := some j, queue := [d] }).updMx 0 fun m => { m with tq := [tile f] }
    d.s0kind = 1 ∧ d.visited ≠ 0 ∧ d.dkind = false ∧ j.tile = false ∧ j.sinking = false ∧
    did (.tileQueueEntryTake 0) (s 1) (fun t => ((t.ew 0).job.map EwJob.tile) = some true) ∧
    did (.tileQueueEntryTake 0) (s 2) (fun t => (t.ew 0).job = none ∧ (t.ew 0).due = [j.record 6]) ∧
    did (.ewabort 0 0#64) (s 1) (fun t => (t.ew 0).job = none ∧ (t.ew 0).queue = [] ∧ (t.ew 0).due.length = 2) := by decide +kernel

/-! Ferries: the descriptor of the worked example of chapter 10, on core 7; and one that copies 16 bytes within core 0's lagoon. -/

def item (ws : List Nat) (phase : FerryPhase) (done : Nat) : FerryItem :=
  { words := Vector.ofFn fun i => word (ws.getD i.val 0), ctx := 5, level := 0#2, seq := 3, sink := none, phase := phase, status := 0, done := done }
def exampleWords : List Nat :=
  [0x0007_0000_0000_0000, 0x0000_0040_0000_0000, 0x0100_0000_0070_0000, 0x0008_0040_0000_0300, 0x0000_0300_0000_0300, 0xc000, 0xc000,
    0x0006_0000_0006_0000]
def streamed (c : CoreId) (k : Nat) (x : FerryItem) : State := elements.setStream c k { items := [x], fifo := [], next := 4 }
theorem witness_FerriesMoveTiles_streams :
    let s := streamed 7 0 (item exampleWords .queued 0)
    let u := streamed 7 0 (item exampleWords .ended 8)
    (item exampleWords .queued 0).check = 0 ∧ (item exampleWords .queued 0).empty = false ∧ (item exampleWords .queued 0).order = false ∧
    s.ferriesRun 7 = true ∧
    did (.ferryDescriptorStart 7 0#4) s (fun t => (t.streamOf 7 0).items = [item exampleWords .ready 0]) ∧
    did (.ferryCompletion 7 0#4) u (fun t =>
      (t.streamOf 7 0).items = [] ∧ (t.streamOf 7 0).fifo.map Cpl.word = [0x8000_0000_0800_0007#64]) := by decide +kernel
theorem test_fcpl_and_fabort :
    let s := elements.setStream 0 1 { items := [{ item exampleWords .running 0 with seq := 0 }], fifo := [{ word := 9#64, irq := false }], next := 1 }
    let i := isleOf 0
    let u := s.updIsle i fun y => { y with ferries := [(4, { core := 0, stream := 1, seq := 0, next := 0, row := 0, stop := 8, waitAt := none })] }
    did (.fcpl 0 1#4 3#5) s (fun t => (t.sc 0).rg 3#5 = 9#64 ∧ (t.streamOf 0 1).fifo = []) ∧
    did (.fabort 0 1#4 0#64) u (fun t => (t.streamOf 0 1).items.map FerryItem.status = [13] ∧ (t.isle i).ferries = []) := by decide +kernel
theorem witness_FerriesMoveTiles_posts :
    elements.canIssue 0 = true ∧
    did (.fpost 0 2#4 0xfffc0#64) elements (fun t => (t.streamOf 0 2).items.length = 1 ∧ (t.streamOf 0 2).next = 1) ∧
    did (.fpost 0 2#4 0xfffc8#64) elements (fun t => (t.streamOf 0 2).items = [] ∧ (t.core 0).fp.postRej = true) := by decide +kernel
/-- Table 10.12: ferry A takes tiles 0 to 7, and with tile 0 in hand (u = 7) ferry B steals tiles 5 to 7. -/
theorem witness_FerriesMoveTiles_work :
    let i := isleOf 7
    let s := streamed 7 0 (item exampleWords .ready 0)
    let a : FerryShare := { core := 7, stream := 0, seq := 3, next := 0, row := 0, stop := 8, waitAt := none }
    let u := (streamed 7 0 (item exampleWords .running 0)).updIsle i fun y => { y with ferries := [(0, a)] }
    mapFree 32 (s.isle i).ferries = some 0 ∧ s.readyIn i = some (7, 0, item exampleWords .ready 0) ∧ u.readyIn i = none ∧
    did (.ferryAssign i) s (fun t => (t.isle i).ferries = [(0, a)]) ∧
    did (.steal i 1#5) u (fun t => (t.isle i).ferries = [(0, { a with stop := 5 }), (1, { a with next := 5 })]) := by decide +kernel
theorem witness_FerriesMoveTiles_tiles :
    let ws := [0, 0x0100_0000_0000_1000, 0x0100_0000_0000_2000, 0x0001_0001_0000_0010, 0, 0, 0, 0x0000_0010_0000_0010]
    let x := item ws .running 0
    let i := isleOf 0
    let sh : FerryShare := { core := 0, stream := 0, seq := 3, next := 0, row := 0, stop := 1, waitAt := none }
    let s := (streamed 0 0 x).updIsle i fun y => { y with ferries := [(5, sh)] }
    x.kind = kCopy ∧ x.rows = 1 ∧ x.run = 16 ∧ x.tiles = 1 ∧ x.check = 0 ∧ awLagoon x.dst = true ∧ peerCore 0 (awCore x.dst) = 0 ∧
    awLagoon x.src = true ∧ s.ferriesRun 0 = true ∧ (s.streamOf 0 0).find 3 = some x ∧
    did (.ferryTile i 5#5) s (fun t => readNat (t.sc 0).lagoon 0x2000 16 = 0x00000004_00000003_00000002_00000001 ∧ (t.isle i).ferries = [] ∧
      (t.streamOf 0 0).items.map FerryItem.phase = [.ended]) := by decide +kernel

/-! Windows: the worked example of chapter 9, window 0 of isle 0 over the line at VA 0x50000. -/

def contributed (x : Nat) : List Byte := leBytes 4 x ++ List.replicate 124 0#8
def window : Window := { Window.reset with base := 0x50000#64, cfg := 0x0000_0088_0300_0001#64 }
/-- The window with the first `k` contributions applied, and the third staged. -/
def windowed (k : Nat) : State :=
  let w : Window := { window with opened := true, dpa := 0x250000, ctx := 5 }
  let w := if k = 0 then w else { w with next := [(0, k)], vals := [(0, lineElems Fmt.binary32 (contributed 0x4b80_0000))] }
  let w := if k = 2 then { w with flags := Flags.inexact, staged := [{ line := 0, idx := 2, data := contributed 0x3f80_0000 }] } else w
  runtime.setWindow 0 0 w
theorem witness_WindowsCombineInOrder_open :
    let s := runtime.setWindow 0 0 window
    let u := runtime.setWindow 0 0 { window with base := 0x10#64 }
    isleOf 0 = 0 ∧ s.armReason 0 0 5 = none ∧ window.lines = 1 ∧ window.n = 3 ∧ s.walk 5 0x50000 = .ok 0x250000 0x250033#64 ∧
    (u.armReason 0 0 5).isSome = true ∧ s.canIssue 0 = true ∧ 1#2 ≤ (s.sc 0).priv ∧
    did (.arm 0 0#4) s (fun t => (t.window 0 0).opened = true ∧ (t.window 0 0).dpa = 0x250000) ∧
    did (.arm 0 0#4) u (fun t => (t.window 0 0).err = true ∧ (t.window 0 0).opened = false) ∧
    did (.abort 0 0#4) (windowed 1) (fun t => (t.window 0 0).opened = false ∧ (t.window 0 0).reason = 9#8) ∧
    did (.abort 0 0#4) s (fun t => t.window 0 0 = window) := by decide +kernel
/-- Table 9.8 and RWSTAT 0x4000_0002_0000_0001. Contribution 1 comes in order, 2 waits, 0 has passed and 3 is past the count. -/
theorem witness_WindowsCombineInOrder :
    let s := windowed 1
    let f : FerryFrom := { core := 0, stream := 0#4, ctx := 5#12, level := 0#2 }
    let one := contributed 0x3f80_0000
    let w := windowed 2
    s.translate 5 0x50000 .write 0#2 true = .ok 0x250000 0x250033#64 ∧ s.tagOk 5 0x250000 = true ∧ 0x250000 % 128 = 0 ∧
    (s.window 0 0).opened = true ∧ (s.window 0 0).spoiled = false ∧ one.length = 128 ∧ (s.isle 0).stagingUsed < s.stagingMiB 0 * 8192 ∧
    s.launchOfCore 0 = none ∧ s.waitsOn 5 0x50000 { cls := 1, core := 0, stream := 0, write := true, read := false } = false ∧
    s.midOffline 0x250000 = false ∧
    did (.contribution 0 0#4 0x50000#56 1#10 f one) s (fun t =>
      mapGet 0 0 (t.window 0 0).next = 2 ∧ (t.window 0 0).flags = Flags.inexact ∧ t.mem = s.mem) ∧
    did (.contribution 0 0#4 0x50000#56 2#10 f one) s (fun t => (t.window 0 0).staged.length = 1) ∧
    did (.contribution 0 0#4 0x50000#56 0#10 f one) s (fun t => (t.window 0 0).reason = 8#8) ∧
    did (.contribution 0 0#4 0x50000#56 3#10 f one) s (fun t => (t.window 0 0).reason = 8#8) ∧
    did (.stagedContributionApply 0 0#4 0#17) w (fun t =>
      readNat t.mem 0x250000 4 = 0x4b80_0000 ∧ (t.window 0 0).stat = 0x4000_0002_0000_0001#64) := by decide +kernel

/-! The tiers -/

/-- The fourth corrected error of a row within 24 hours: each row holds its first three. -/
theorem witness_ScrubbingAndDeepAccounts_row :
    let row := Config.nearRow 0x2000040
    let s := device.updIsle 0 fun y => { y with rows := [(row, { events := [0#64, 0#64, 0#64], spare := none })] }
    tierOf 0x2000040 = 1 ∧ isleOfDpa 0x2000040 = 0 ∧ s.powered = true ∧
    (mapGet { events := [], spare := none } row (s.isle 0).rows).events.length = 3 ∧ mapGet 0 (Config.nearBank row) (s.isle 0).badSpares = 0 := by
  refine ⟨by decide, by decide +kernel, by decide +kernel, ?_, by decide +kernel⟩
  show (mapGet { events := [], spare := none } (Config.nearRow 0x2000040)
    [(Config.nearRow 0x2000040, ({ events := [0#64, 0#64, 0#64], spare := none } : NearRow))]).events.length = 3
  simp [mapGet]
/-- A device whose cove 7 holds the line of 0x40, modified, and whose core 3 has a modified L1 line of set 5. -/
def dirtied : State :=
  let line : CoveLine := { way := 0, modified := true, guest := none }
  let l1 : L1Line := { ctx := 5, line := 5, dpaLine := 9, data := List.replicate 128 1#8, modified := true, bad := false }
  { device with coves := [(7, { lines := [(0, line)], trees := [] })] }.updSc 3 fun x => { x.setL1 5 2 (some l1) false with scratchW := 1 }
theorem witness_ScrubbingAndDeepAccounts_held :
    mapFind 0 (dirtied.cove 7).lines = some { way := 0, modified := true, guest := none } ∧ mapFind 1 (dirtied.cove 7).lines = none ∧
    ((dirtied.sc 3).l1Line 5 2).isSome = true ∧ 1023 < (dirtied.sc 3).scratchW * 1024 ∧
    did (.scrub (.cove 7 0x40#42) .corrected) dirtied (fun t => (t.isle 7).cvce = 1#32) ∧
    did (.scrub (.cove 7 0x40#42) .uncorrectable) dirtied (fun t => t.marks = [1] ∧ t.rep.alarms.length = 1) ∧
    did (.scrub (.cove 7 0x80#42) .uncorrectable) dirtied (fun t => t.rep = dirtied.rep ∧ t.marks = []) ∧
    did (.scrub (.l1 3 5#7 2#3) .uncorrectable) dirtied (fun t => ((t.sc 3).l1Line 5 2).map L1Line.bad = some true ∧ t.rep.alarms.length = 1) ∧
    did (.scrub (.scratch 3 1023#12) .uncorrectable) dirtied (fun t => (t.sc 3).scratchBad = [1023] ∧ t.rep.alarms.length = 1) := by
  decide +kernel
theorem witness_ScrubbingAndDeepAccounts :
    tierOf 0x12100000040 = 2 ∧ tierOf 0x22100000040 = 3 ∧ device.powered = true ∧
    did (.scrub (.lagoon 1199 0#17) .uncorrectable) device (fun t => t.rep.alarms.map (fun a => (a.code, a.source)) = [(8#16, 0x54af#16)]) ∧
    did (.scrub (.near 0x2000040#42) .uncorrectable) device (fun t => t.marks = [0x80001]) ∧
    did (.scrub (.mid 0x12100000040#42) .corrected) device (fun t => (t.isle (Fin.ofNat 8 (isleOfDpa 0x12100000040))).mid.corrected = 1) ∧
    did (.scrub (.deep 0x22100000040#42) .clean) device (fun t => t.rep = device.rep) ∧
    did (.scrub (.deep 0x22100000040#42) .rebuilt) device (fun t => t.deep.rebuilt = device.deep.rebuilt + 1) ∧
    did (.scrub (.deep 0x22100000040#42) .uncorrectable) device (fun t => t.unreadable 0x22100000040 1 = true) := by decide +kernel
/-- One unit at the last address of Deep is past the frames of the context; one at the frame of page 4 is whole, and half a unit is not. -/
theorem witness_ScrubbingAndDeepAccounts_deep :
    let data (n : Nat) : List Byte := List.replicate n 7#8
    device.tagOk 5 0x20000000000 = true ∧ device.inOpenWindow 0x20000000000 4096 = false ∧ device.launchOfCore 0 = none ∧
    device.deep.readOnly = false ∧
    did (.deepWrite 0 0#41 (data 64)) device (fun t => t.deep.hostWritten = 0) ∧
    did (.deepRead 0 0#41 1#20 .uncorrectable true) device (fun t => t.deep.rebuilt = device.deep.rebuilt + 1) ∧
    did (.deepRead 0 0#41 1#20 .uncorrectable false) device (fun t => t.rep.alarms.length = 1) ∧
    did (.enduranceUpdate 5#64 9999 1001) device (fun t => t.deep.readOnly = false ∧ t.deep.wearPosted = false) ∧
    did (.enduranceUpdate 5#64 10000 1000) device (fun t => t.deep.readOnly = true ∧ t.deep.wearPosted = true) := by decide +kernel
theorem witness_ScrubbingAndDeepAccounts_unit :
    (List.replicate 4096 7#8 : List Byte).length % 4096 = 0 ∧ 0 % 65536 + (List.replicate 4096 7#8 : List Byte).length ≤ 65536 := by
  simp only [List.length_replicate]
  decide

/-- Training with all lanes, a good half and none; seven replays and the eighth; the frame number that is expected and another. -/
theorem witness_MidLinksTrainAndServe_link :
    let s := ready.updIsle 2 fun y => { y with mid := { y.mid with lanes := 0xffff#16, retraining := false, replays := 6, expect := 0xfff#12 } }
    let u := ready.updIsle 2 fun y => { y with mid := { y.mid with retraining := true } }
    let head (type seq : Nat) : Word := word (type * 2 ^ 60 + seq * 2 ^ 48 + 5 * 2 ^ 36 + 2 ^ 35)
    let zeros := List.replicate 128 0#8
    let h (type seq : Nat) : MidFrame := { header := head type seq, payload := zeros, crc := midCrc (head type seq) zeros }
    let frame (type seq : Nat) : Instr := .midFrame 2 (head type seq) (zeros ++ leBytes 8 (midCrc (head type seq) zeros).toNat)
    let torn : Instr := .midFrame 2 (head 1 0xfff) (List.replicate 136 0#8)
    -- frames 5 and 6 wait for their ACK, and the other side has frame 4
    let v := s.updIsle 2 fun y => { y with mid := { y.mid with acked := 4#12, replay := [h 1 5, h 1 6] } }
    let lanes (t : State) : BitVec 16 := (t.isle 2).mid.lanes
    s.powered = true ∧
    did (.laneTraining 2 0xffff#16) s (fun t => lanes t = 0xffff#16 ∧ t.rep.alarms = []) ∧
    did (.laneTraining 2 0xff01#16) s (fun t => lanes t = 0xff00#16 ∧ t.rep.alarms.length = 1) ∧
    did (.midRetrain 2 0xfefe#16) u (fun t => lanes t = 0#16 ∧ (t.isle 2).mid.retraining = false) ∧
    did (.midRetrain 2 0xfefe#16) s (fun t => lanes t = 0xffff#16) ∧
    did torn s (fun t => (t.isle 2).mid.replays = 7 ∧ (t.isle 2).mid.retraining = false) ∧
    did torn (s.updIsle 2 fun y => { y with mid := { y.mid with replays := 7 } }) (fun t => (t.isle 2).mid.retraining = true) ∧
    did (frame 1 0xfff) v (fun t => (t.isle 2).mid.expect = 0#12 ∧ (t.isle 2).mid.acked = 5#12 ∧ (t.isle 2).mid.replay.length = 1 ∧
      (t.isle 2).mid.sent.length = 1) ∧
    did (frame 4 0xfff) v (fun t => (t.isle 2).mid.expect = 0xfff#12 ∧ (t.isle 2).mid.replay.length = 2) ∧
    did (frame 1 0) v (fun t => (t.isle 2).mid.expect = 0xfff#12 ∧ (t.isle 2).mid.resend = true) := by decide +kernel
/-- The last 64 bytes of isle 7's Mid; byte 63 alone under a mask. -/
theorem witness_MidLinksTrainAndServe :
    let s := ready.updIsle 7 fun y => { y with mid := { y.mid with lanes := 0xffff#16, retraining := false } }
    let a : BitVec 37 := 0x1fffffffc0#37
    let d := 0x10000000000 + 7 * 2 ^ 37 + a.toNat
    let data : List Byte := (List.range 64).map fun i => BitVec.ofNat 8 (i + 1)
    let u := s.updIsle 7 fun y => { y with mid := { y.mid with outstanding := [(1023, { read := true, addr := 0, bytes := 128, data := [7#8] })] } }
    let marked := { s with marks := [d / 64] }
    s.midRuns 7 = true ∧ (s.isle 7).mid.waiting = [] ∧ (s.isle 7).mid.replay.length + 2 ≤ 64 ∧ a.toNat % 64 = 0 ∧ data.length = 64 ∧ s.marked d 64 = false ∧
    did (.read64 7 1023#10 a) s (fun t => (t.isle 7).mid.outstanding.length = 1 ∧ (t.isle 7).mid.replay.length = 1) ∧
    did (.write64 7 0#10 a data) marked (fun t => byteAt t.mem (d + 63) = 64#8 ∧ t.marks = []) ∧
    did (.writeMask64 7 0#10 a 0x8000000000000000#64 data) s (fun t => byteAt t.mem (d + 63) = 64#8 ∧ byteAt t.mem (d + 62) = 0#8) ∧
    did (.response 7 1023#10 .clean) u (fun t => (t.isle 7).mid.outstanding = [] ∧ mapFind 1023 (t.isle 7).mid.returned = some [7#8]) ∧
    did (.response 7 1023#10 .uncorrectable) u (fun t => t.marks.length = 2) := by decide +kernel

/-! ### Harbour -/

def address : NetConfig := { mode := 0#8, ipv4 := 1#32, prefix4 := 24#8, gateway4 := 0#32, ipv6 := 0#128, prefix6 := 0#8 }
def ent (op tag : Nat) (ws : List Nat) : Entry := entry (word (tag * 2 ^ 32 + op) :: ws.map word)
/-- A device whose host ports have addresses, with `e` committed at the head of queue `q`. -/
def queued (q : QueueId) (e : Entry) (s : State) : State :=
  s.updQueue q fun x => { x with ring := [(0, e)], committed := 1#32, expect := 1#32 }
def networked : State := { device with io := { device.io with net := [(0, address), (1, address)] } }
/-- A datagram with the header of Table 11.1. -/
def frame (type queue count : Nat) (db : Bool) (seq ack tail : Nat) (es : List Entry) : HmpFrame :=
  let w0 := 0x0001_484d + type * 2 ^ 24 + queue * 2 ^ 32 + (if db then 2 ^ 36 else 0) + count * 2 ^ 40 + 64 * count * 2 ^ 48
  { eth := false, source := host, checksumOk := true, header := BitVec.ofNat 256 (w0 + seq * 2 ^ 64 + ack * 2 ^ 96 + tail * 2 ^ 128)
    payload := es.flatMap fun e => e.toList.flatMap fun w => leBytes 8 w.toNat }
/-- The head of queue `q` is completed with status `st`, in RESULT0 `r0`. -/
def completed (q : QueueId) (st : Nat) (r0 : Nat) (t : State) : Bool :=
  (t.queue q).ring = [] && (t.queue q).unacked.map (fun x => (fld x.entry[0] 15 8, x.entry[2])) = [(st, word r0)]

/-- A completion or event that the host has not acknowledged, sent at tide 0. -/
def kept (n : Nat) (e : Entry) : Unacked := { seq := BitVec.ofNat 32 n, entry := e, sentAt := 0#64, interval := 50 }

/-- The CMD frame of chapter 11's example, queue 2 expecting 40. -/
def example11 : State :=
  networked.updQueue 2 fun x => { x with expect := 40#32, committed := 40#32, started := 40#32, compNext := 17#32, unacked := [kept 16 (ent 3 1 [])] }
def entries11 : List Entry := [ent 0x03 1 [5 * 2 ^ 32 + 3], ent 0x08 2 [7]]
theorem test_header_word : (frame 1 2 2 true 40 17 42 entries11).header = 0x2a_0000_0011_0000_0028_0080_0212_0101_484d#256 := by decide +kernel
theorem witness_FramesAreStoredAndAcknowledged :
    let s := example11
    Takes s 1 (frame 1 2 2 false 40 17 0 entries11) ∧
    seqLt (s.queue 2).expect (40#32 + 2#32) = true ∧ seqLt (s.queue 2).expect 40#32 = false ∧ (s.queue 2).ring = [] ∧
    did (.cmd (frame 1 2 2 true 40 17 42 entries11)) s (fun t =>
      (t.queue 2).expect = 42#32 ∧ (t.queue 2).committed = 42#32 ∧ (t.queue 2).ring.map Prod.snd = entries11 ∧ (t.queue 2).unacked = []) ∧
    did (.cmd (frame 1 2 2 false 38 17 0 entries11)) s (fun t => (t.queue 2).expect = 40#32 ∧ t.hb.sent.map OutFrame.type = [5#8]) ∧
    did (.cmd (frame 1 2 2 false 41 17 0 entries11)) s (fun t => (t.queue 2).expect = 40#32 ∧ t.hb.sent.map OutFrame.type = [6#8]) := by
  decide +kernel
/-- DOORBELL with TAIL at, below and above the next number expected; a malformed frame. -/
theorem witness_FramesAreStoredAndAcknowledged_doorbell :
    let s := example11.updQueue 2 fun x => { x with expect := 41#32, ring := [(40, ent 3 1 [])] }
    let bad := frame 2 15 0 true 0 17 41 []
    Takes s 2 (frame 2 2 0 true 0 17 41 []) ∧ hmpMalformed bad = true ∧ s.hasIp false = true ∧
    did (.doorbell (frame 2 2 0 true 0 17 41 [])) s (fun t => (t.queue 2).committed = 41#32) ∧
    did (.doorbell (frame 2 2 0 true 0 17 40 [])) s (fun t => (t.queue 2).committed = 40#32) ∧
    did (.doorbell (frame 2 2 0 true 0 17 42 [])) s (fun t => (t.queue 2).committed = 40#32 ∧ t.hb.sent.map OutFrame.type = [6#8]) ∧
    did (.doorbell bad) s (fun t => t.hb.discarded = 1#64 ∧ t.hb.queues = s.hb.queues) := by decide +kernel
theorem witness_FramesAreStoredAndAcknowledged_acks :
    let s := example11.updHb fun h => { h with events := { h.events with next := 1#32, unacked := [kept 0 (ent 3 0 [])] } }
    Takes s 5 (frame 5 2 0 false 0 17 0 []) ∧ Takes s 6 (frame 6 2 0 false 0 16 0 []) ∧ Takes s 7 (frame 7 0 0 false 0 0 0 []) ∧
    s.hb.events.waiting = [] ∧ s.rep.alarms = [] ∧
    did (.ack (frame 5 2 0 false 0 17 0 [])) s (fun t => (t.queue 2).unacked = []) ∧
    did (.nak (frame 6 2 0 false 0 16 0 [])) s (fun t => (t.queue 2).unacked.length = 1 ∧ t.hb.sent.length = 1) ∧
    did (.ack (frame 5 15 0 false 0 1 0 [])) s (fun t => t.hb.events.unacked = []) ∧
    did (.hello (frame 7 0 0 false 0 0 0 [])) s (fun t => t.hb.hello = some host ∧ t.hb.sent.map OutFrame.type = [8#8]) := by decide +kernel
/-- The interval of 50 us is at most 782 ticks. -/
theorem witness_FramesAreStoredAndAcknowledged_retransmit :
    let s := example11
    let u := { s with tide := 782#64 }
    s.harbourRuns = true ∧ (s.queue 2).unacked ≠ [] ∧ s.passedUs 0#64 50 = false ∧ u.passedUs 0#64 50 = true ∧
    did (.retransmit 2#4) s (fun t => t.hb.sent = []) ∧
    did (.retransmit 2#4) u (fun t => t.hb.sent.length = 1 ∧ (t.queue 2).unacked.map Unacked.interval = [100]) := by decide +kernel

theorem witness_HeadsCompleteInOrder :
    let e := ent 0x2a 9 [80]
    let bad := ent 0x2a 9 [80 + 2 ^ 32]
    let s := queued 2 e device
    s.head 2 = some e ∧ s.harbourRuns = true ∧ bad.reserved = true ∧ s.lh.clamp = 0 ∧
    did (.powerTol 2) s (completed 2 0 2) ∧ did (.powerTol 2) (queued 2 bad device) (completed 2 1 0) ∧
    did (.powerCap 2) s (fun t => (t.queue 2).ring = [(0, e)]) ∧
    (let c := { queued 2 (ent 0x12 9 [5]) device with lh := { device.lh with clamp := 1 } }
     c.lh.clamp ≠ 0 ∧ did (.ctxReset 2) c (completed 2 0x0c 0)) := by decide +kernel

/-- FENCE_SIGNAL, FENCE_WAIT (satisfied, to wait, at its timeout) and FENCE_RESET of counter 7. -/
theorem witness_FencesAndQueueControl :
    let e (op v out : Nat) : Entry := ent op 1 [7, v, out]
    let s (op v out : Nat) : State := queued 4 (e op v out) device
    let waits (v tide : Nat) : State :=
      { (s 0x09 v 10000).updQueue 4 fun x =>
          { x with ring := [], started := 1#32, running := some { seq := 0#32, entry := e 0x09 v 10000, start := 0#64, count := 0 } } with
        tide := word tide }
    Heads (s 0x08 1 0) 4 0x08 (e 0x08 1 0) ∧ (s 0x08 1 0).launchesOf 4 = false ∧ Heads (s 0x09 1 10000) 4 0x09 (e 0x09 1 10000) ∧
    Heads (s 0x0a 9 0) 4 0x0a (e 0x0a 9 0) ∧ (waits 1 156249).passedUs 0#64 10000 = false ∧ (waits 1 156250).passedUs 0#64 10000 = true ∧
    did (.fenceSignal 4) (s 0x08 1 0) (fun t => (t.counter 7).value = 1#63) ∧
    did (.fenceWait 4) (s 0x09 0 0) (completed 4 0 0) ∧ did (.fenceWait 4) (s 0x09 1 0) (fun t => (t.queue 4).halted = true) ∧
    did (.fenceWait 4) (s 0x09 1 10000) (fun t => (t.queue 4).running.isSome = true ∧ (t.queue 4).ring = [] ∧ (t.queue 4).unacked = []) ∧
    did (.fenceWait 4) (waits 0 1) (fun t => (t.queue 4).running = none ∧ completed 4 0 0 t) ∧
    did (.fenceWait 4) { waits 1 1 with lh := { device.lh with clamp := 1 } } (completed 4 0x0c 0) ∧
    did (.fenceTimeout 4) (waits 1 156249) (fun t => t.hb.queues = (waits 1 0).hb.queues) ∧
    did (.fenceTimeout 4) (waits 1 156250) (fun t => (t.queue 4).halted = true ∧ completed 4 6 0 t) ∧
    did (.fenceReset 4) (s 0x0a 9 0) (fun t => (t.counter 7).value = 9#63) := by decide +kernel
/-- Targets 5 and 6, one's own queue, and a halted queue with one committed entry. -/
theorem witness_FencesAndQueueControl_control :
    let s (target action : Nat) : State := queued 2 (ent 0x0b 1 [target + action * 2 ^ 8]) device
    let halted := (s 4 2).updQueue 4 fun x => { x with halted := true, ring := [(0, ent 0x2a 1 [1])], committed := 1#32, expect := 1#32 }
    Heads (s 5 1) 2 0x0b (ent 0x0b 1 [5 + 2 ^ 8]) ∧
    did (.queueCtlResume 2) (s 5 1) (completed 2 0 0) ∧ did (.queueCtlResume 2) (s 6 1) (completed 2 0x0d 0) ∧
    did (.queueCtlFlush 2) (s 2 2) (completed 2 0x0d 0) ∧ did (.queueCtlResume 2) (s 4 3) (completed 2 0x0d 0) ∧
    did (.queueCtlFlush 2) halted (fun t => (t.queue 4).halted = false ∧ (t.queue 4).ring = [] ∧ completed 2 0 (2 ^ 32 + 1) t) := by decide +kernel

def ctxOpenEntry (ctx part first last : Nat) : Entry := ent 0x10 7 [part * 65536 + ctx, first * 65536, last * 65536]
theorem witness_ContextsOpenResetAndClose_open :
    let s (ctx part first last : Nat) : State := queued 2 (ctxOpenEntry ctx part first last) device
    Heads (s 6 0 0x40 0x4f) 2 0x10 (ctxOpenEntry 6 0 0x40 0x4f) ∧
    did (.ctxOpen 2) (s 6 0 5 4) (completed 2 0x0d 0) ∧ did (.ctxOpen 2) (s 5 0 4 5) (completed 2 0x0e 0) ∧
    did (.ctxOpen 2) (s 6 0 (2 ^ 25) (2 ^ 25 + 1)) (completed 2 0x11 0) ∧ did (.ctxOpen 2) (s 6 0 0x1f 0x1f) (completed 2 0x0c 0) ∧
    did (.ctxOpen 2) (s 6 0 0x40 0x4f) (fun t => (t.ctx 6).isSome = true ∧ completed 2 0 16 t) := by decide +kernel
/-- 0, 1, 600,000 and 600,001 ms. -/
theorem witness_ContextsOpenResetAndClose_config :
    let s (ms : Nat) : State := queued 0 (ent 0x11 1 [5, ms]) device
    did (.ctxConfig 0) (s 0) (completed 0 0x0d 0) ∧ did (.ctxConfig 0) (s 600001) (completed 0 0x0d 0) ∧
    did (.ctxConfig 0) (s 1) (fun t => (t.ctx 5).map Ctx.faultTimeout = some 1) ∧
    did (.ctxConfig 0) (s 600000) (fun t => (t.ctx 5).map Ctx.faultTimeout = some 600000) := by decide +kernel
theorem witness_ContextsOpenResetAndClose_reset :
    let s (op ctx : Nat) : State := queued 1 (ent op 1 [ctx]) device
    Heads (s 0x12 5) 1 0x12 (ent 0x12 1 [5]) ∧ Heads (s 0x13 5) 1 0x13 (ent 0x13 1 [5]) ∧ did (.ctxReset 1) (s 0x12 5) (completed 1 0 0) ∧
    did (.ctxReset 1) (s 0x12 6) (completed 1 0x0e 0) := by decide +kernel
theorem witness_ContextsOpenResetAndClose_quiet :
    let s := queued 1 (ent 0x12 1 [5]) device
    let r := s.wake.resetContext 5
    r.1.head 1 = some (ent 0x12 1 [5]) ∧ (r.1.startHead 1 r.2).contextQuiet 5 = true := by decide +kernel
def unmapping (closing : Bool) : State :=
  let y : Unmapping := { queue := 1, epoch := 0#16, closing := closing, cleared := 1, ranges := [(0x20, 0x20)] }
  let e := ent (if closing then 0x13 else 0x15) 1 [5]
  ((queued 1 e device).startHead 1 0).setCtx 5 { ctx5 with unmapping := [y], tables := [] }
theorem witness_ContextsOpenResetAndClose_epoch :
    (unmapping false).epochBusy 5 0#16 = false ∧ (unmapping false).harbourRuns = true ∧
    did (.epochRetire 5#12) (unmapping false) (fun t => (t.ctx 5).map Ctx.unmapping = some [] ∧ completed 1 0 1 t) ∧
    did (.epochRetire 5#12) (unmapping true) (fun t => t.ctx 5 = none) := by decide +kernel

/-- One 64 KiB page at page 7 with frame 0x40: as it is, and with HOST, which names region 0 and the key of its first generation. -/
theorem witness_MappingsAndRegions_map :
    let e (flags ctx va len dpa : Nat) : Entry := ent 0x14 3 [flags * 65536 + ctx, va, len, dpa]
    let s (flags ctx va len dpa : Nat) : State := queued 2 (e flags ctx va len dpa) device
    Heads (s 3 5 0x70000 0x10000 0x400000) 2 0x14 (e 3 5 0x70000 0x10000 0x400000) ∧
    did (.map 2) (s 3 5 0x70000 0x10000 0x400000) (fun t =>
      readNat t.mem 0x104038 8 = 0x400033 ∧ (t.frameTag 0x40).ctx = 5 ∧ completed 2 0 0 t) ∧
    did (.map 2) (s 0x103 5 0x70000 0x10000 0x400000) (fun t =>
      ((t.queue 2).unacked.map fun x => (x.entry[2], x.entry[3])) = [(0#64, 0x50_0001#64)]) ∧
    did (.map 2) (s 3 6 0x70000 0x10000 0x400000) (completed 2 0x0e 0) ∧ did (.map 2) (s (3 * 256) 5 0 65536 0) (completed 2 0x0d 0) ∧
    did (.map 2) (s 3 5 0 (2 ^ 42 + 1) 0) (completed 2 0x02 0) := by decide +kernel
theorem witness_MappingsAndRegions_unmap :
    let s (va len : Nat) : State := queued 2 (ent 0x15 3 [5, va, len]) device
    Heads (s 0 0x20000) 2 0x15 (ent 0x15 3 [5, 0, 0x20000]) ∧ ctx5.unmapping = [] ∧ (∀ i, ((s 0 0x20000).isle i).windows = []) ∧
    did (.unmap 2) (s 0 0x20000) (fun t => ((t.ctx 5).map fun x => (x.epoch, x.unmapping.map Unmapping.cleared)) = some (1#16, [2])) ∧
    did (.unmap 2) (s 1 0x10000) (completed 2 0x0f 0) ∧ did (.unmap 2) (s 0 (2 ^ 42 + 1)) (completed 2 0x02 0) := by decide +kernel
/-- Generations 0xfe and 0xff of region 3. -/
theorem witness_MappingsAndRegions_drop :
    let s (g : Nat) : State := (queued 0 (ent 0x16 1 [3 * 2 ^ 32 + 5]) device).updHb fun h =>
      { h with ctxs := [(5, { ctx5 with regions := [(3, { base := 0, len := 65536 })] })], regionGen := [(5 * 4096 + 3, g)] }
    Heads (s 254) 0 0x16 (ent 0x16 1 [3 * 2 ^ 32 + 5]) ∧
    did (.regionDrop 0) (s 254) (fun t => t.generation 5 3 = 255 ∧ t.hb.regionRetired = [] ∧ completed 0 0 255 t) ∧
    did (.regionDrop 0) (s 255) (fun t => t.generation 5 3 = 255 ∧ t.hb.regionRetired = [5 * 4096 + 3]) := by decide +kernel

/-! Fault records, frames, copies, settings -/

/-- Graph 9 holds `h`, and launch 3 is `l` of it. -/
def newLaunch : Launch :=
  { id := 77#64, slot := 9, ctx := 5, queue := 1, seq := 4#32, tag := 0x55#32, deterministic := false, gfreq := 1500, srTide := 1#64
    dispatchTide := 1000#64, startTick := 5000#64, agreed := true, snapSlot := 0, cores := [0, 3], posted := [], done := [], key := 0x1234#64
    first := 0, phase := 0, base := 0, offset := 0, phaseSlips := 0, voted := [], starts := [], votes := [], sampled := false, outcome := none
    stop := none, ownStop := none, stopped := false, unloaded := false, flits := [], rx := [], lines := [], heldRx := [], mark := none
    timing := { boost := false, wake := false, throttle := 0#8, retries := 0, duty := 0, slip := 0 }, failure := none }
def launched (h : ImageHeader) (l : Launch) (s : State) : State :=
  s.updHb fun y => { y with graphs := [(9, { ctx := 5, img := h, live := initialBlock h })], launches := [(3, l)] }

theorem witness_FaultsFramesAndCopies_faults :
    let r (ctx : Nat) : FaultRec :=
      { firstTide := 100#64, va := 0x70000, ctx := ctx, timeout := 10000, count := 1#32, waiters := [⟨0, 3, 0, false, true⟩] }
    let s := (launched image newLaunch device).updHb fun h => { h with faults := [(2, r 5), (4, r 6)] }
    let s := s.updSc 3 fun x => { x with run := .faultWait }
    let e (id ctx : Nat) (fail : Bool) : Entry := ent 0x17 1 [id * 65536 + ctx + (if fail then 2 ^ 24 else 0)]
    let failed (t : State) : Bool := ((t.launch 3).bind Launch.failure).isSome
    Heads (queued 0 (e 2 5 true) s) 0 0x17 (e 2 5 true) ∧ s.hb.faultsWaiting = [] ∧
    did (.faultResolveReplay 0) (queued 0 (e 2 5 false) s) (fun t => (t.sc 3).run = .running ∧ t.hb.faults.length = 1 ∧ completed 0 0 1 t) ∧
    did (.faultResolveFail 0) (queued 0 (e 2 5 true) s) (fun t => failed t ∧ t.hb.faults.length = 1) ∧
    did (.faultResolveReplay 0) (queued 0 (e 4 5 false) s) (completed 0 0x16 0) ∧
    did (.faultResolveReplay 0) (queued 0 (e 2 6 false) s) (completed 0 0x0e 0) ∧
    did (.faultTimeout 2#8) { s with tide := word (100 + 156249999) } (fun t => t.hb.faults.length = 2) ∧
    did (.faultTimeout 2#8) { s with tide := word (100 + 156250000) } (fun t => failed t ∧ t.hb.faults.length = 1) := by decide +kernel
theorem witness_FaultsFramesAndCopies_retire :
    let s (f : Nat) : State := queued 3 (ent 0x18 1 [0, f * 65536]) (device.updHb fun h => { h with ctxs := [] })
    Heads (s 0x99) 3 0x18 (ent 0x18 1 [0, 0x99 * 65536]) ∧
    did (.retire 3) (queued 3 (ent 0x18 1 [0, 0x20 * 65536]) device) (completed 3 0x10 0) ∧
    did (.retire 3) (s 0x99) (fun t => (t.frameTag 0x99).retired = true ∧ t.flash.retired = [0x99] ∧ completed 3 0 1 t) ∧
    did (.retire 3) ((s 0x99).setFrameTag 0x99 { retired := true, ctx := 0 }) (completed 3 0 0) := by decide +kernel
/-- 8 bytes of page 0 to the end of page 5; a range of Deep that is not whole units; a length of 2^36 + 1. -/
theorem witness_FaultsFramesAndCopies_copy :
    let e (ctx src dst len : Nat) : Entry := ent 0x19 1 [ctx, src, dst, len]
    let s (ctx src dst len : Nat) : State := queued 3 (e ctx src dst len) device
    Heads (s 5 0x10 0x5fff8 8) 3 0x19 (e 5 0x10 0x5fff8 8) ∧ device.deepBroken 5 0x5fff8 8 = false ∧ device.deepBroken 5 0x40000 100 = true ∧
    PlainMemory device 5 0x200010 8 ∧ PlainMemory device 5 0x25fff8 8 ∧
    did (.copy 3) (s 5 0x10 0x5fff8 8) (fun t => readNat t.mem 0x25fff8 8 = 0x1122334455667788 ∧ completed 3 0 8 t) ∧
    did (.copy 3) (s 6 0 0 1) (completed 3 0x0e 0) ∧ did (.copy 3) (s 5 0 0 (2 ^ 36 + 1)) (completed 3 0x02 0) ∧
    did (.copy 3) (s 5 0 0x40000 100) (completed 3 0x18 0) := by decide +kernel
theorem witness_QueriesAndSettings_queries :
    let s (op : Nat) (ws : List Nat) : State := queued 0 (ent op 1 ws) device
    Heads (s 0x20 [0, 0, 0]) 0 0x20 (ent 0x20 1 [0, 0, 0]) ∧
    did (.query 0) (s 0x20 [0, 0, 0]) (completed 0 0 0x0000_0000_0fff_1fff) ∧ did (.query 0) (s 0x20 [6 * 65536, 0, 0x10001]) (completed 0 0x02 0) ∧
    did (.query 0) (s 0x20 [7 * 65536, 0, 0]) (completed 0 0x0d 0) ∧ did (.logRead 0) (s 0x21 [0, 0, 0, 5]) (completed 0 0 5) ∧
    did (.traceRead 0) (s 0x22 [6 * 65536, 0, 0, 5]) (completed 0 0 5) ∧ did (.traceRead 0) (s 0x22 [7 * 65536, 0, 0, 5]) (completed 0 0x0d 0) := by
  decide +kernel
/-- QUERY of the serial class and LOG_READ into page 5, which region 3 names: whole, cut short, and with no buffer. -/
theorem witness_QueriesAndSettings_buffers :
    let r : LogRec := { seq := 5, tide := 9#64, cls := 1#8, code := 2#16, source := 3#16, ctx := 0, data := [] }
    let s (op : Nat) (ws : List Nat) : State :=
      let t := device.updHb fun h => { h with ctxs := [(5, { ctx5 with regions := [(3, { base := 0x50000, len := 65536 })] })] }
      queued 0 (ent op 1 ws) { t with rep := { t.rep with log := [r], logNext := 6 } }
    let at8 := 3 * 2 ^ 48 + 8
    (s 0x20 [5, at8, 16]).buffer 5 (word at8) 16 = some 0x50008 ∧ device.walk 5 0x50008 = .ok 0x250008 0x250033#64 ∧
    PlainMemory device 0 0x250008 16 ∧ device.deepRejects 0x250008 16 = false ∧
    did (.query 0) (s 0x20 [5, at8, 12]) (fun t =>
      readNat t.mem 0x250008 16 = 0x9682_0806_0000_0000_0fff_1fff ∧ completed 0 0 0x0fff_1fff t) ∧
    did (.query 0) (s 0x20 [6, at8, 12]) (completed 0 0x0e 0) ∧ did (.query 0) (s 0x20 [5, at8, 0x10000]) (completed 0 0x09 0) ∧
    did (.logRead 0) (s 0x21 [5, at8, 64, 3]) (fun t =>
      readNat t.mem 0x250008 16 = (wordBytes (r.words.take 2)).foldr (fun b n => b.toNat + 256 * n) 0 ∧ (t.queue 0).unacked.map (fun x => (x.entry[2], x.entry[3])) = [(6#64, 2#64)]) ∧
    did (.logRead 0) (s 0x21 [5, at8, 63, 3]) (fun t =>
      t.mem = (s 0 []).mem ∧ (t.queue 0).unacked.map (fun x => (x.entry[2], x.entry[3])) = [(5#64, 2#64)]) := by decide +kernel
/-- PART_SET with context 5 open in partition 0: another partition's staging may change, its own may not. -/
theorem witness_QueriesAndSettings_open :
    let s (isles staging : Nat) : State := queued 0 (ent 0x28 1 [isles, staging]) device
    (device.ctx 5).map Ctx.part = some 0 ∧ did (.partSet 0) (s 0 0x5559) (fun t => t.hb.staging.get 1 = 8 ∧ completed 0 0 0 t) ∧
    did (.partSet 0) (s 0 0x5556) (completed 0 0x0c 0) ∧ did (.partSet 0) (s 0x1000_0000 0x5555) (completed 0 0x0c 0) := by decide +kernel
/-- PART_SET with no context open; REG_SET of Near's bucket at its full rate and above; each tolerance at an edge of R440. -/
theorem witness_QueriesAndSettings_settings :
    let s (op : Nat) (ws : List Nat) : State := queued 0 (ent op 1 ws) (device.updHb fun h => { h with ctxs := [] })
    let reg (rate : Nat) : State := s 0x29 [2 ^ 16, 4000 * 2 ^ 32 + rate, 0]
    let fullest (t : State) : Bool := (t.bucket 0 0 0).rate = 3500
    did (.partSet 0) (s 0x28 [0x7654_3210, 0]) (fun t => (t.hb.partition.get 7) = 7 ∧ completed 0 0 0 t) ∧
    did (.partSet 0) (s 0x28 [0x8000_0000, 0]) (completed 0 0x0d 0) ∧
    did (.regSet 0) (reg 3500) (fun t => fullest t) ∧ did (.regSet 0) (reg 3501) (completed 0 0x0d 0) ∧
    did (.powerTol 0) (s 0x2a [1]) (completed 0 0 0) ∧ did (.powerTol 0) (s 0x2a [2]) (completed 0 0 1) ∧
    did (.powerTol 0) (s 0x2a [14999]) (completed 0 0 2) ∧ did (.powerTol 0) (s 0x2a [15000]) (completed 0 0 3) ∧
    did (.powerTol 0) (s 0x2a [400000]) (completed 0 0 4) := by decide +kernel
/-- POWER_CAP of chapter 14's example, of 349 W and 350 W, and of the default. -/
theorem witness_QueriesAndSettings_cap :
    let s (ws : List Nat) : State :=
      queued 0 (ent 0x2b 1 ws) { device with power := { device.power with profile := 2, rating := some 2700 }, lh := { device.lh with kind := 2 } }
    did (.powerCap 0) (s [0x2bc, 0x24, 0x0000_0064_00fa_0136]) (fun t =>
      t.power.capEff = 700 ∧ t.power.floors = some { links := 310, memory := 250, compute := 100 } ∧ completed 0 0 0x2bc t) ∧
    did (.powerCap 0) (s [349, 0x24, 0]) (completed 0 0x17 0) ∧ did (.powerCap 0) (s [350, 0x24, 0]) (completed 0 0 350) ∧
    did (.powerCap 0) (s [700, 0x25, 0]) (completed 0 0x0d 0) ∧ did (.powerCap 0) (s [65536, 0, 0]) (fun t => t.power.cap = none) := by decide +kernel

/-! Graphs and launches -/

def mapped : ImageHeader := { image with snapBase := 0x50000#64, scratchW := 0 }
def stored (h : ImageHeader) (s : State) : State :=
  s.updHb fun y => { y with graphs := [(9, { ctx := 5, img := h, live := initialBlock h })] }
/-- Cores 0 and 3 in service mode at task level; region 3 of context 5 is page 5. -/
def serving : State :=
  let s := [0, 3].foldl (fun s c => s.updSc (coreOf c) fun x => { x with opmode := 0#2, priv := 0#2 }) device
  s.updHb fun h => { h with ctxs := [(5, { ctx5 with regions := [(3, { base := 0x50000, len := 65536 })] })] }
theorem witness_GraphsStoreDropAndPatch :
    let e := ent 0x01 1 [9 * 2 ^ 32 + 5, 3 * 2 ^ 48, 4000]
    let s := queued 0 e { serving with
      flash := { serving.flash with owner := some 1#384 }, mem := put8 (put8 serving.mem 0x250000 (0x0010 * 2 ^ 32 + 0x4f53464b)) 0x250010 172 }
    let empty := queued 0 (ent 0x01 1 [9 * 2 ^ 32 + 5, 3 * 2 ^ 48, 0]) serving
    let drop (s : State) : State := queued 0 (ent 0x02 1 [9 * 2 ^ 32]) s
    Heads s 0 0x01 e ∧ s.wake.storeStatus e mapped 0#384 signedBy = 0 ∧ (s.boundWhere fun x => x == 9) = [] ∧
    did (.graphStore 0 mapped 0#384 signedBy) s (fun t => (t.graph 9).isSome = true ∧ completed 0 0 (16 * 2 ^ 32 + 2) t) ∧
    did (.graphStore 0 mapped 0#384 { signedBy with hss := false }) s (completed 0 0x12 0) ∧
    did (.graphStore 0 mapped 1#384 signedBy) s (completed 0 0x13 0) ∧
    did (.graphStore 0 mapped 1#384 signedBy) empty (fun t => t.graph 9 = none ∧ completed 0 0 0 t) ∧
    did (.graphDrop 0) (drop serving) (completed 0 0x0b 0) ∧ did (.graphDrop 0) (drop (launched mapped newLaunch serving)) (completed 0 0x0c 0) ∧
    did (.graphDrop 0) (drop (stored mapped serving)) (fun t => t.graph 9 = none ∧ completed 0 0 0 t) := by decide +kernel
/-- A patch of point 0, a SIZE of 4 where it has 8, a list cut short, a length of 1 MiB + 1. -/
theorem witness_GraphsStoreDropAndPatch_patch :
    let s (len size : Nat) : State :=
      let t := stored mapped serving
      queued 0 (ent 0x04 1 [9 * 2 ^ 32, 3 * 2 ^ 48 + 0x100, len])
        { t with mem := writeBytes t.mem 0x250100 (leBytes 8 (size * 65536) ++ leBytes 8 0x77) }
    Heads (s 16 8) 0 0x04 (ent 0x04 1 [9 * 2 ^ 32, 3 * 2 ^ 48 + 0x100, 16]) ∧
    did (.paramPatch 0) (s 16 8) (fun t => ((t.graph 9).map fun g => g.live.take 8) = some (leBytes 8 0x77) ∧ completed 0 0 1 t) ∧
    did (.paramPatch 0) (s 16 4) (completed 0 0x0a 0) ∧ did (.paramPatch 0) (s 12 8) (completed 0 0x02 0) ∧
    did (.paramPatch 0) (s 0x100001 8) (completed 0 0x02 0) ∧ did (.paramPatch 0) (s 0 8) (completed 0 0 0) := by decide +kernel
theorem witness_LaunchesDispatchAndEnd :
    let e := ent 0x03 0x42 [9 * 2 ^ 32 + 1, 0]
    let s := queued 1 e (stored mapped serving)
    let clamped := { s with lh := { s.lh with clamp := 1, code := 3#8 } }
    let worn := s.updCore 3 fun k => { k with health := { k.health with withdrawn := true } }
    Heads s 1 0x03 e ∧ (match s.graph 9 with | some g => s.wake.mayDispatch 1 9 g | none => false) = true ∧
    spans mapped = false ∧ mapped.hasMark = false ∧ s.wake.unavailable 3 = false ∧ worn.wake.unavailable 3 = true ∧
    did (.graphLaunch 1) s (fun t => (t.queue 1).ring.length = 1) ∧ did (.graphLaunch 1) clamped (completed 1 0x08 0) ∧
    did (.graphLaunch 1) (queued 1 e serving) (completed 1 0x0b 0) ∧
    mapFree 64 s.hb.launches = some 0 ∧ s.wake.freeSnap 9 mapped = some 0 ∧ firstPhase mapped (initialBlock mapped) = some 0 ∧
    mapped.runs = [] ∧ s.presentAll 5 (mapped.snapVa 0) 0x20000 = true ∧
    did (.dispatch 1) (s.updSc 3 fun x => { x with opmode := 1#2 }) (fun t => t.hb.launches = []) := by decide +kernel
theorem witness_LaunchesDispatchAndEnd_end :
    let s (l : Launch) : State := launched mapped l serving
    let done := { newLaunch with done := [0, 3] }
    let failed := { newLaunch with failure := some { result := 0x123#64, tide := 8#64 } }
    let status (t : State) : List (Nat × Word) := (t.queue 1).unacked.map fun x => (fld x.entry[0] 15 8, x.entry[3])
    (s done).launchComplete done mapped = true ∧ (s newLaunch).launchComplete newLaunch mapped = false ∧
    did (.launchEnd 3#6) (s done) (fun t => t.hb.launches = [] ∧ status t = [(0, 0#64)]) ∧
    did (.launchEnd 3#6) (s failed) (fun t => t.hb.launches = [] ∧ status t = [(0x08, 0x123#64)] ∧ (t.queue 1).failedSince = true) ∧
    did (.launchEnd 3#6) (s newLaunch) (fun t => t.hb.launches.length = 1) ∧
    did (.launchEnd 3#6) (s { failed with stop := some { tc := 1#64, reason := 2#8, origin := 0#10 } }) (fun t => t.hb.launches.length = 1) := by
  decide +kernel
/-- START_TICK 64 ticks ahead, and 63; core 3 of another context, then with an EMPTY slot 1, then with an IDLE slot 4 of the graph. -/
theorem witness_MooringsCarryWork_post :
    let s := { launched image newLaunch serving with tide := 4936#64 }
    let same := (s.updHb fun h => { h with lastCtx := [(3, 5)] }).updSc 3 fun x =>
      { x with scratchW := 1, lagoon := setByte [] (mooringAddr 0 0) 2#8 }
    let idle := (same.updSc 3 fun x => { x with lagoon := setByte x.lagoon (mooringAddr 4 0) 2#8 }).setMooring 3 4
      { graph := some 9, lastPost := 0#64, since := 0#64 }
    s.launchOfCore 3 = some (3, newLaunch) ∧
    did (.workItemPost 3#6 3) s (fun t => (t.sc 3).ctxid = 5#12 ∧ (t.sc 3).mooringState 0 = 1#8 ∧ mapFind 3 t.hb.lastCtx = some 5) ∧
    did (.workItemPost 3#6 3) { s with tide := 4937#64 } (fun t => (t.sc 3).mooringState 0 = 0#8) ∧
    did (.workItemPost 3#6 3) same (fun t => (t.sc 3).mooringState 1 = 1#8 ∧ (t.sc 3).mooringWord 1 1 = 0x2000#64) ∧
    did (.workItemPost 3#6 3) idle (fun t => (t.sc 3).mooringState 4 = 3#8 ∧ (t.sc 3).mooringWord 4 2 = 77#64) := by decide +kernel
/-- A slot POSTED for tick 5,000: the line, with a wake token awaited and without. -/
def postedSlot (tide : Nat) : State :=
  let s := { launched image newLaunch serving with tide := word tide }
  s.updSc 3 fun x => { x with run := .waiting, irqmask := 1#7, lagoon := put8 (setByte [] (mooringAddr 4 0) 3#8) (mooringAddr 4 4) 5000 }
theorem witness_MooringsCarryWork_line :
    let wants := (postedSlot 5000).updCore 3 fun k => { k with pw := { k.pw with want := some 800 } }
    ((postedSlot 5000).core 3).pw.want = none ∧ (postedSlot 5000).irqEnabled 3 = true ∧ (postedSlot 5000).clocked 3 = true ∧
    did (.mooring 3) (postedSlot 4999) (fun t => (t.sc 3).run = .waiting) ∧ did (.mooring 3) (postedSlot 5000) (fun t => (t.sc 3).run = .running) ∧
    did (.mooring 3) wants (fun t => (t.sc 3).run = .waiting ∧ ((t.launch 3).map fun l => l.timing.wake) = some true) := by decide +kernel
theorem witness_MooringsCarryWork_writes :
    let s (old : Nat) : State := (launched image newLaunch serving).updSc 3 fun x => { x with lagoon := setByte [] (mooringAddr 4 0) (BitVec.ofNat 8 old) }
    let failed (t : State) : Bool := ((t.launch 3).bind Launch.failure).isSome
    let timed (old tide : Nat) : State := { s old with tide := word tide }
    let filled (old : Nat) : State := (serving.updSc 3 fun x => { x with lagoon := setByte [] (mooringAddr 4 0) (BitVec.ofNat 8 old) }).updHb fun h =>
      { h with unclean := [3] }
    (s 1).canIssue 3 = true ∧ (s 1).engineHolds 3 (mooringAddr 4 0) 8 = false ∧ runtimeMay 4#8 3#8 = false ∧
    did (.mooringWrite 3 4#3 2#64) (s 1) (fun t => (t.sc 3).mooringState 4 = 2#8 ∧ !failed t) ∧
    did (.mooringWrite 3 4#3 5#64) (s 4) (fun t => (t.sc 3).mooringState 4 = 2#8 ∧ ((t.launch 3).map Launch.done) = some [3]) ∧
    did (.mooringWrite 3 4#3 0#64) (s 6) (fun t => (t.sc 3).mooringState 4 = 0#8 ∧ (t.mooring 3 4).graph = none) ∧
    did (.mooringWrite 3 4#3 3#64) (s 4) failed ∧
    (filled 4).launchOfCore 3 = none ∧ (filled 4).canIssue 3 = true ∧
    did (.mooringWrite 3 4#3 5#64) (filled 4) (fun t => (t.sc 3).mooringState 4 = 6#8 ∧ t.hb.unclean = [3]) ∧
    did (.mooringWrite 3 4#3 0#64) (filled 6) (fun t => (t.sc 3).lagoon = [] ∧ t.hb.unclean = []) ∧
    did (.mooringTimeout 3 4#3) (timed 1 312) (fun t => (t.sc 3).run = .running) ∧
    did (.mooringTimeout 3 4#3) (timed 6 313) (fun t => (t.sc 3).run = .quarantined ∧ (t.sc 3).mooringState 4 = 0#8) ∧
    did (.mooringTimeout 3 4#3) ({ filled 4 with tide := 313#64 }.updSc 3 fun x => x.wg 1#5 7#64) (fun t =>
      (t.sc 3).rg 1#5 = 0#64 ∧ (t.sc 3).lagoon = [] ∧ t.hb.unclean = []) := by decide +kernel

/-! RoCE: the key of region 3 with generation 1. -/

def remote : State := (serving.updHb fun h => { h with qps := [(8, { mtu := 1024, port := true })] })
def remoteKey : BitVec 32 := 0x0050_0301#32
/-- The region's last 4 bytes, and 4 bytes of which one lies behind it; path MTUs of 2,048 and 2,047. -/
theorem witness_RemoteTransfersMoveBytes :
    let s := { remote with io := networked.io }
    let a := word (3 * 2 ^ 48 + 0xfffc)
    let replies (t : State) : List Reply := t.io.replies
    s.handle 5 a = some (0x5fffc, 4) ∧ s.generation 5 3 = 1 ∧ fld a 59 48 = 3 ∧ s.lh.clamp = 0 ∧ s.harbourRuns = true ∧
    s.translate 5 0x5fffc .write privTask true = .ok 0x25fffc 0x250033#64 ∧ PlainMemory s 5 0x25fffc 4 ∧ nearOrMid 0x25fffc = true ∧
    did (.rdmaWrite 8#8 remoteKey a [1, 2, 3, 4]) s (fun t => readNat t.mem 0x25fffc 4 = 0x04030201 ∧ replies t = [.roceAck 8]) ∧
    did (.rdmaWrite 8#8 remoteKey (a + 1#64) [1, 2, 3, 4]) s (fun t => replies t = [.roceAccessNak 8] ∧ t.hb.roceNaks = 1#64) ∧
    did (.rdmaRead 8#8 remoteKey (word (3 * 2 ^ 48)) 8#32) s (fun t => replies t = [.roceData 8 (leBytes 8 0x0102030405060708)]) ∧
    did (.send 8#8) s (fun t => replies t = [.roceInvalidNak 8]) ∧
    did (.connectionEstablish 9#8 true 2048#16) s (fun t => mapFind 9 t.hb.qps = some { mtu := 2048, port := true }) ∧
    did (.connectionEstablish 9#8 true 2047#16) s (fun t => mapFind 9 t.hb.qps = none) := by decide +kernel

/-! Tide and Strait: rank 0 of 2, whose first phase has a mark; run 0 sends two flits of stream 7 on port 1, run 1 receives on port 2. -/

def spanning : ImageHeader :=
  let run : SlotRun :=
    { buf := 0x50000#56, bytes := 480, stream := 7#12, kind := 0#4, port := 1#4, oport := 0#4, rwin := 0#4, slotmask := 2#32, ridx := 0#10
      tstart := 10, tcount := 2, rsv := 0#34 }
  let phase (s b slips : Nat) (mark : Bool) : PhaseEntry := { s := s, b := b, maxSlip := slips, mark := mark, elastic := false, rsv := 0#46 }
  { image with
    shapeSound := 2, votePort := 2#4, keyPoint := some 0, phases := [phase 0 1000 2 true, phase 1100 2000 0 false]
    runs := [run, { run with bytes := 250, stream := 9#12, kind := 1#4, port := 2#4, slotmask := 6#32, tstart := 20, tcount := 1 }] }
def onPort (p : PortId) (f : Port → Port) (s : State) : State := s.setPort p (f (s.port p))
/-- Ports 1, 2 and 4 IDLE at latency 2, the last side flit received a tick ago; launch 3 is that graph's. -/
def spread : State :=
  [1, 2, 4].foldl (fun s p => onPort p (fun x => { x with state := 2#3, d := 2#3, lastSide := 2999#64, peerTide := 2998#64 }) s)
    { launched spanning newLaunch device with tide := 3000#64 }
def failedFor (p : PortId) (reason : Nat) (t : State) : Bool :=
  (t.port p).state = 5#3 && (t.port p).reason = BitVec.ofNat 4 reason && (t.port p).failedAt = t.tide &&
    t.rep.alarms.any (fun a => a.source = BitVec.ofNat 16 p.val)
def stops (t : State) : Option Stop := (t.launch 3).bind Launch.stop

/-- A missing lane, crossed wiring, latencies 5 and 4; no cable; S4. -/
theorem witness_PortsTrainAndFollowTheTide_training :
    let s := onPort 2 (fun x => { x with state := 1#3 }) spread
    let found (lanes : BitVec 8) (port latency : Nat) : TrainingResult :=
      { cable := true, lanes := lanes, peerId := 9#64, peerPort := BitVec.ofNat 4 port, latency := latency }
    did (.portTraining 2 { found 0xff#8 4 4 with cable := false }) s (fun t => (t.port 2).state = 0#3) ∧
    did (.portTraining 2 (found 0xff#8 4 4)) { s with power := { s.power with idle := 4 } } (fun t => (t.port 2).state = 1#3) ∧
    s.powered = true ∧ s.image newLaunch = some spanning ∧ (2 : PortId) ∈ launchPorts spanning ∧ topLevel spanning ≠ 0 ∧ peerPort 2 = 4 ∧
    did (.portTraining 2 (found 0xfe#8 4 1)) s (fun t => failedFor 2 1 t ∧ stops t = some { tc := 3008#64, reason := 2#8, origin := 0#10 }) ∧
    did (.portTraining 2 (found 0xff#8 5 1)) s (failedFor 2 2) ∧ did (.portTraining 2 (found 0xff#8 4 5)) s (failedFor 2 3) ∧
    did (.portTraining 2 (found 0xff#8 4 4)) s (fun t => (t.port 2).state = 2#3 ∧ (t.port 2).d = 4#3 ∧ (t.port 2).neighbour = 9#64) := by
  decide +kernel
/-- 1 s after its failure, a tick earlier, and a port that a launch claims. -/
theorem witness_PortsTrainAndFollowTheTide_retrain :
    let s (p : PortId) (ago : Nat) : State := onPort p (fun x => { x with state := 5#3, failedAt := 3000#64 - word ago }) spread
    (s 4 15625000).launchesOn 4 = [] ∧ did (.portRetrain 4) (s 4 15625000) (fun t => (t.port 4).state = 1#3) ∧
    did (.portRetrain 4) (s 4 15624999) (fun t => (t.port 4).state = 5#3) ∧
    did (.portRetrain 2) (s 2 15625000) (fun t => (t.port 2).state = 5#3) := by decide +kernel
/-- Silent for 4 ticks and for 3; the 16th CRC failure; a side flit. -/
theorem witness_PortsTrainAndFollowTheTide_errors :
    let silent (n : Nat) : State := onPort 2 (fun x => { x with lastSide := word (3000 - n) }) spread
    let bad : Flit := { header := 0#64, payload := [], crc := 1#64 }
    let often (n : Nat) : State := onPort 2 (fun x => { x with crcTimes := 1976#64 :: List.replicate n 2999#64 }) spread
    let side (type : Nat) : Flit := Flit.make (flitHeader type false 0 0#64 0#12 0) (leBytes 8 77 ++ List.replicate 232 0#8)
    let heard (t : State) : Bool := (t.port 2).peerTide = 77#64 && (t.port 2).lastSide = 3000#64
    (spread.port 2).trained = true ∧ did (.silent 2) (silent 4) (failedFor 2 4) ∧ did (.silent 2) (silent 3) (fun t => (t.port 2).state = 2#3) ∧
    did (.filler 2 bad) (often 14) (fun t => (t.port 2).state = 2#3 ∧ (t.port 2).crcErr = 1#32 ∧ (t.port 2).crcTimes.length = 15) ∧
    did (.filler 2 bad) (often 15) (failedFor 2 5) ∧ did (.side 2 bad) (often 15) (failedFor 2 5) ∧
    did (.filler 2 { bad with crc := 0#64 }) spread (fun t => (t.port 2).crcErr = 0#32) ∧
    did (.side 2 (side 2)) spread heard ∧ did (.side 2 (side 1)) spread (fun t => !heard t ∧ (t.port 2).crcErr = 0#32) := by decide +kernel
/-- With an error of 1, 2 or 5 after 255 of 1 or 2: the sum 256 is not behind, 257 and 515 are, by 1 and 2 ticks. A SCHEDULED port; skew 254 and 255. -/
theorem witness_PortsTrainAndFollowTheTide_adjust :
    let s (each e : Nat) : State :=
      onPort 2 (fun x => { x with peerTide := word (2998 + e), d := 2#3, lastSide := 3000#64 })
        { spread with strait := { spread.strait with parent := some 2, errors := List.replicate 256 (each : Int) } }
    let busy := onPort 4 (fun x => { x with state := 3#3 }) (s 2 5)
    let skewed (n : Nat) : State := { busy with strait := { busy.strait with skew := Vector.replicate 4 n } }
    did .tideAdjust (s 1 1) (fun t => t.tide = 3000#64) ∧ did .tideAdjust (s 1 2) (fun t => t.tide = 3001#64 ∧ t.strait.errors = []) ∧
    did .tideAdjust (s 2 5) (fun t => t.tide = 3002#64 ∧ t.strait.errors = []) ∧
    did .tideAdjust busy (fun t => t.tide = 3000#64 ∧ t.strait.errors = List.replicate 255 2 ++ [5] ∧ t.strait.skew[1] = 1) ∧
    did .tideAdjust (skewed 254) (fun t => stops t = none) ∧
    did .tideAdjust (skewed 255) (fun t => stops t = some { tc := 3008#64, reason := 6#8, origin := 0#10 }) ∧
    did .tideAdjust spread (fun t => t.tide = 3000#64) := by decide +kernel
theorem witness_PortsTrainAndFollowTheTide_line :
    let s (tide : Nat) : State :=
      { spread with tide := word tide }.updCore 3 fun k =>
        { k with tp := { k.tp with wakeEn := true, wakeTick := 4000 }, sc := { k.sc with run := .waiting, irqmask := 8#7 } }
    ((s 4000).core 3).tp.wakeEn = true ∧ (s 4000).irqEnabled 3 = true ∧ (s 4000).clocked 3 = true ∧
    did (.twakeExpiry 3) (s 4000) (fun t => (t.sc 3).run = .running) ∧ did (.twakeExpiry 3) (s 3999) (fun t => (t.sc 3).run = .waiting) := by
  decide +kernel

def flit (slot idx : Nat) (good : Bool) : Flit :=
  let f := Flit.make (flitHeader 1 false slot 5020#64 9#12 idx) (List.replicate 240 7#8)
  if good then f else { f with crc := f.crc ^^^ 1#64 }
/-- The run's flits, sent at 5,020, arrive at 5,022: the second, of 10 bytes, once; one in the wrong slot, the 16th time too. -/
theorem witness_FlitsKeepTheirSchedule_data :
    let s := { spread with tide := 5022#64 }
    let missed := onPort 2 (fun x => { x with missTimes := List.replicate 15 5000#64 }) s
    let got := s.setLaunch 3 { newLaunch with flits := [(2, [0])] }
    (s.expects 2 (flit 1 0 true)).map (fun e => (e.launch, e.run)) = some (3, 1) ∧ (s.expects 2 (flit 2 0 true)).isNone = true ∧
    s.translate 5 0x500f0 .write privTask true = .ok 0x2500f0 0x250033#64 ∧ PlainMemory s 5 0x2500f0 10 ∧ nearOrMid 0x2500f0 = true ∧
    did (.data 2 (flit 2 1 true)) got (fun t => readNat t.mem 0x2500f9 2 = 7 ∧ (t.launch 3).map Launch.flits = some [(2, [0, 1])]) ∧
    did (.data 2 (flit 1 0 true)) got (fun t => readNat t.mem 0x250010 1 = 0) ∧
    did (.data 2 (flit 2 0 true)) s (fun t => (t.port 2).mismatch = 1#8 ∧ (t.port 2).state = 2#3) ∧
    did (.data 2 (flit 2 0 true)) missed (fun t => (t.port 2).state = 5#3 ∧ (t.port 2).reason = 6#4) := by decide +kernel
theorem witness_FlitsKeepTheirSchedule_lost :
    let s := { spread with tide := 5022#64 }
    let f := flit 1 0 false
    let lost (n : Nat) : State := onPort 2 (fun x => { x with lost := [(lostKey f, n)] }) s
    did (.data 2 f) (lost 1) (fun t => (t.port 2).cells = [s.replayCell f] ∧ (t.port 2).crcErr = 1#32 ∧ (t.port 2).state = 2#3) ∧
    did (.data 2 f) (lost 2) (fun t => (t.port 2).state = 5#3 ∧ (t.port 2).reason = 5#4) := by decide +kernel
/-- The flit due at 5,010, and one that its slot did not carry. -/
theorem witness_FlitsKeepTheirSchedule_send :
    let s (tide : Nat) : State := { spread with tide := word tide }
    (s 5010).powered = true ∧ (s 5010).dueFlits 1 ≠ [] ∧ (s 5012).lateFlits 1 ≠ [] ∧ (s 5012).freeSlots 1 ≠ [] ∧ (s 5009).lateFlits 1 = [] ∧
    did .slotTransmission (s 5010) (fun t => t.strait.sent.map (fun x => (x.1.val, x.2.slot)) = [(1, 0), (1, 1), (2, 0), (4, 0)]) ∧
    did (.lateFlit 1) (s 5012) (fun t => t.strait.sent.map (fun x => (x.1.val, x.2.flit.header)) = [(1, flitHeader 1 true 1 5010#64 7#12 0)]) := by
  decide +kernel

def sideCell (kind tick body : Nat) : Cell :=
  { mkCell (BitVec.ofNat 8 kind) 0x1234#64 (word tick) 1 (BitVec.ofNat 128 body) with hops := 3#4 }
def launchIs (l : Launch) (t : State) : Bool := t.launch 3 = some l
/-- The first START, the second, which fixes START_TICK at the later of both and of 3,000 + 8 + 64; one of no launch, held. -/
theorem witness_CellsActOnce_start :
    let fresh := { newLaunch with agreed := false, startTick := 0#64 }
    let one := { fresh with starts := [{ rank := 0#10, tick := 3050#64, arrived := 3000#64 }] }
    let s := spread.setLaunch 3 fresh
    let none_ := s.updHb fun h => { h with launches := [] }
    let agreedAt (tick : Nat) (t : State) : Bool := (t.launch 3).map (fun l => (l.agreed, l.startTick)) = some (true, word tick)
    let x := sideCell 1 3100 0xabc
    s.launchOfKey 0x1234#64 = some (3, fresh) ∧ spanning.rank = 0 ∧ s.strait.seen.contains (cellId x) = false ∧ (s.port 2).trained = true ∧
    did (.start 2 x) s (launchIs { fresh with starts := [{ rank := 1#10, tick := 3100#64, arrived := 3000#64 }] }) ∧
    did (.start 2 x) (spread.setLaunch 3 one) (agreedAt 3100) ∧ did (.start 2 (sideCell 1 3071 0xabc)) (spread.setLaunch 3 one) (agreedAt 3072) ∧
    did (.start 2 x) none_ (fun t => t.strait.held = [{ cell := x, port := some 2, since := 3000#64 }]) ∧
    did (.cellHoldExpiry 0x1234#64) { none_ with strait := { none_.strait with held := [{ cell := x, port := some 2, since := 3000#64 - 15625000#64 }] } }
      (fun t => t.strait.held = []) ∧
    did (.startAt 2 (sideCell 2 5555 0xabc)) s (launchIs { fresh with startTick := 5555#64, agreed := true }) := by decide +kernel
/-- At rank 1 a START goes on toward rank 0, but not after 15 hops. -/
theorem witness_CellsActOnce_forward :
    let s := launched { spanning with rank := 1 } { newLaunch with agreed := false } spread
    let x := sideCell 1 3100 0xabc
    did (.start 4 x) s (fun t => (t.port 2).cells = [{ x with hops := 4#4 }]) ∧
    did (.start 4 { x with hops := 15#4 }) s (fun t => (t.port 2).cells = []) := by decide +kernel
/-- VOTE and OUTCOME of the boundary 6,000; COAST of 3,100 with none, a later and an earlier one known; a cell seen before; HARBOUR. -/
theorem witness_CellsActOnce_boundary :
    let old (tc : Nat) : State := spread.setLaunch 3 { newLaunch with stop := some { tc := word tc, reason := 9#8, origin := 0#10 } }
    let coast := sideCell 5 3100 3
    let stop : Stop := { tc := 3100#64, reason := 3#8, origin := 1#10 }
    newLaunch.boundary spanning = 6000#64 ∧
    did (.vote 2 (sideCell 3 6000 65536)) spread (launchIs { newLaunch with votes := [(1#10, true)] }) ∧
    did (.outcome 2 (sideCell 4 6000 0x30000)) spread (launchIs { newLaunch with outcome := some { slip := true, commit := true } }) ∧
    did (.coast 2 coast) spread (fun t => stops t = some stop) ∧ did (.coast 2 coast) (old 3101) (fun t => stops t = some stop) ∧
    did (.coast 2 coast) (old 3100) (fun t => (stops t).map Stop.reason = some 9#8) ∧
    did (.coast 2 coast) { spread with strait := { spread.strait with seen := [cellId coast] } } (fun t => stops t = none) ∧
    did (.harbour 2 (sideCell 8 3000 0)) spread (launchIs newLaunch) := by decide +kernel
/-- A kept flit asked for the second time and the third. -/
theorem witness_CellsActOnce_replay :
    let kept (n : Nat) : SentFlit := { launch := 3, stream := 9#12, fidx := 3, slot := 1, tick := 5020#64, sentAt := 5020#64, payload := [], resends := n, due := false }
    let s (n : Nat) : State := onPort 2 (fun x => { x with kept := [kept n] }) spread
    let ask := sideCell 6 5020 (9 + 3 * 2 ^ 12 + 2 ^ 28)
    did (.replay 2 ask) (s 1) (fun t => (t.port 2).kept.map SentFlit.due = [true]) ∧
    did (.replay 2 ask) (s 2) (fun t => (t.port 2).kept.map SentFlit.due = [false]) := by decide +kernel

theorem witness_DevicesVoteOnPhases_tvote :
    let s := spread.updSc 3 fun x => { x with opmode := 0#2, priv := 1#2 }
    s.canIssue 3 = true ∧ s.launchOfCore 3 = some (3, newLaunch) ∧
    did (.tvote 3 0#64) s (launchIs { newLaunch with voted := [(3, 3000#64)] }) ∧ did (.tvote 3 1#64) s (fun t => (t.core 3).tp.tstat.getLsbD 0 = true) := by
  decide +kernel
/-- Boundary 6,000; its decision at 6,008. -/
theorem witness_DevicesVoteOnPhases_sample :
    let s (tide : Nat) (l : Launch) : State := launched spanning l { spread with tide := word tide }
    let votes (b : Bool) : Launch := { newLaunch with sampled := true, votes := [(0#10, true), (1#10, b)] }
    let out (slip commit : Bool) : HeldOutcome := { slip := slip, commit := commit }
    let whole (tick : Nat) : Launch := { newLaunch with voted := [(0, 5000#64), (3, word tick)], flits := [(1, [0, 1]), (2, [0, 1])] }
    newLaunch.phaseRuns spanning = true ∧ newLaunch.ready spanning = false ∧ (whole 5999).ready spanning = true ∧
    (whole 6000).ready spanning = false ∧
    did (.voteSample 3#6) (s 6000 (whole 5999)) (launchIs { whole 5999 with sampled := true, votes := [(0#10, true)] }) ∧
    did (.voteSample 3#6) (s 5999 newLaunch) (launchIs newLaunch) ∧
    did (.voteSample 3#6) (s 6000 newLaunch) (fun t => launchIs { newLaunch with sampled := true, votes := [(0#10, false)] } t ∧ (t.core 3).tp.tstat.getLsbD 2 = true) ∧
    did (.decisionTick 3#6) (s 6007 (votes true)) (launchIs (votes true)) ∧
    did (.decisionTick 3#6) (s 6008 (votes true)) (launchIs { votes true with outcome := some (out false true) }) ∧
    did (.decisionTick 3#6) (s 6008 { votes false with phaseSlips := 1 }) (launchIs { votes false with phaseSlips := 1, outcome := some (out true false) }) ∧
    did (.decisionTick 3#6) (s 6008 { votes false with phaseSlips := 2 }) (fun t => stops t = some { tc := 6016#64, reason := 3#8, origin := 0#10 }) := by
  decide +kernel
theorem witness_DevicesVoteOnPhases_other_ranks :
    let h := { spanning with rank := 1 }
    did (.voteSample 3#6) (launched h newLaunch { spread with tide := 6000#64 }) (fun t => (t.port 2).cells = [newLaunch.voteCell h false]) := by
  decide +kernel
theorem witness_DevicesVoteOnPhases_timeout :
    let s (tide : Nat) : State := launched spanning { newLaunch with agreed := false } { spread with tide := word (1000 + tide) }
    let failed (t : State) : Bool := ((t.launch 3).bind Launch.failure).isSome
    did (.startTimeout 3#6) (s 15624999) (fun t => !failed t) ∧ did (.startTimeout 3#6) (s 15625000) failed := by decide +kernel
/-- B + V is 6,016. The mark record of a committed phase. -/
theorem witness_PhasesEndOrCoast_apply :
    let s (tide : Nat) (o : Option HeldOutcome) : State :=
      launched spanning { newLaunch with sampled := true, outcome := o } { spread with tide := word tide }
    let phase (t : State) : Option (Nat × Nat) := (t.launch 3).map fun l => (l.phase, l.offset)
    (s 6016 none).walk 5 0x50000 = .ok 0x250000 0x250033#64 ∧ PlainMemory (s 6016 none) 0 0x250000 32 ∧
    did (.outcomeApply 3#6) (s 6015 (some { slip := false, commit := true })) (fun t => phase t = some (0, 0)) ∧
    did (.outcomeApply 3#6) (s 6016 (some { slip := false, commit := true })) (fun t =>
      phase t = some (1, 0) ∧ readNat t.mem 0x250000 8 = 0 ∧ readNat t.mem 0x250008 8 = 0x1234 ∧ readNat t.mem 0x250010 8 = 6000 ∧ readNat t.mem 0x250018 8 = 6016) ∧
    did (.outcomeApply 3#6) (s 6016 (some { slip := false, commit := false })) (fun t => phase t = some (1, 0) ∧ t.mem = spread.mem) ∧
    did (.outcomeApply 3#6) (s 6016 (some { slip := true, commit := false })) (fun t => phase t = some (0, 1024) ∧ (t.core 3).tp.tstat.getLsbD 1 = true) ∧
    did (.outcomeApply 3#6) (s 6016 none) (fun t => stops t = some { tc := 6024#64, reason := 4#8, origin := 0#10 }) := by decide +kernel
/-- A stop at 6,016 voids the outcome, one at 6,017 does not; flits end at tc, and the launch 8 ticks after it. -/
theorem witness_PhasesEndOrCoast_coast :
    let stop (tc : Nat) : Launch := { newLaunch with outcome := some { slip := false, commit := false }, stop := some { tc := word tc, reason := 3#8, origin := 0#10 } }
    let s (tc tide : Nat) : State := launched spanning (stop tc) { spread with tide := word tide }
    let stopped (t : State) : Bool := (t.launch 3).any Launch.stopped
    drainBound (topLevel spanning) = 8 ∧ (s 6016 6016).harbourRuns = true ∧
    did (.outcomeApply 3#6) (s 6016 6016) (launchIs (stop 6016)) ∧ did (.outcomeApply 3#6) (s 6017 6016) (fun t => (t.launch 3).map Launch.phase = some 1) ∧
    (let own := { stop 6017 with failure := some { result := 1#64, tide := 1#64 } }
     did (.outcomeApply 3#6) (launched spanning own { spread with tide := 6016#64 }) (fun t => (t.launch 3).map Launch.phase = some 1)) ∧
    did (.coastStop 3#6) (s 6017 6016) (fun t => !stopped t) ∧
    did (.coastStop 3#6) (s 5010 5010) (fun t => stopped t ∧ (t.port 1).state = 4#3) ∧
    did (.coastUnload 3#6) (s 6016 6023) (fun t => (t.launch 3).isSome = true) ∧
    did (.coastUnload 3#6) (s 6016 6024) (fun t => t.launch 3 = none ∧ (t.queue 1).failedSince = true ∧
      (t.queue 1).unacked.map (fun x => (x.entry[0], x.entry[3])) = [(0x0000_0055_0001_0803#64, failWord 7#8 (BitVec.ofNat 56 (3 * 2 ^ 48)))] ∧ (t.core 3).tp.tstat.extractLsb' 3 2 = 3#2) := by
  decide +kernel

/-! Power and heat -/

/-- At a duty window's boundary under profile 2, with graph 9 launched. -/
def powered (tick : Nat) (f : Power → Power) : State :=
  { launched image newLaunch device with tide := word tick, power := f { device.power with profile := 2, rating := some 2700 } }
def reading : PowerReading := { demandLinks := 400, demandMemory := 700, demandCompute := 2000, base := 310, draw := 99, ceiling := 2500, ballast := [] }
/-- The grants under the cap of 700 W of chapter 14's example, and with a base draw above the floor; pattern 1 gates window 15. -/
theorem witness_TheCapIsSharedAndEnforced_window :
    let floors : Shares := { links := 310, memory := 290, compute := 100 }
    let s := powered (1024 * 31) fun x => { x with cap := some 700, floors := some floors, duty := 1 }
    let given (base : Nat) : Shares := grants 700 base 0x24#6 { links := 400, memory := 700, compute := 2000 } floors
    let gate (s : State) : State := s.gateCore 3
    let aged := (s.updIsle 1 fun x => { x with heat := { x.heat with ageingDue := true } }).ageIsle 1
    s.powered = true ∧ s.harbourRuns = true ∧ s.power.capEff = 700 ∧ s.power.order = 0x24#6 ∧ s.tide.toNat % 1024 = 0 ∧
    given 310 = floors ∧ given 350 = { links := 350, memory := 290, compute := 60 } ∧
    ((gate s).core 3).pw.gated = true ∧ ((gate s).core 3).pw.dutyCnt = 1#32 ∧ ((gate (powered (1024 * 30) fun x => { x with duty := 1 })).core 3).pw.gated = false ∧
    (let q := (s.noteDraw 99).ballastFault 3
     (q.sc 3).run = .quarantined ∧ ((q.launch 3).bind Launch.failure).isSome = true ∧ q.power.draws = [(s.tide, 99)]) ∧
    (aged.isle 1).heat.ageing = 1 ∧ (aged.isle 1).heat.ageingDue = false ∧
    did (.dutyWindow reading) { s with tide := 1025#64 } (fun t => t.power.grant = s.power.grant) := by decide +kernel

/-- Patterns rise at once and fall by 1, a mean above the cap at 15 and 15. -/
theorem witness_TheCapIsSharedAndEnforced_group :
    let s (d dd : Nat) : State := powered 16384 fun x => { x with duty := d, dutyDet := dd }
    let patterns (t : State) : Nat × Nat := (t.power.duty, t.power.dutyDet)
    (s 1 0).tide.toNat % 16384 = 0 ∧ nextPattern 1 3 = 3 ∧ nextPattern 3 3 = 3 ∧
    did (.dutyGroup 3#4 2#4 99) (s 15 0) (fun t => patterns t = (14, 0)) ∧ did (.dutyGroup 15#4 2#4 99) (s 15 5) (fun t => patterns t = (15, 4)) ∧
    did (.dutyGroup 15#4 15#4 2701) (s 15 15) (fun t => t.power.unmet = some 0#64) ∧
    did (.dutyGroup 15#4 15#4 2700) (s 15 15) (fun t => t.power.unmet = none) ∧
    did (.dutyGroup 3#4 2#4 99) { s 1 0 with tide := 16385#64 } (fun t => patterns t = (1, 0)) := by decide +kernel

/-- 500 ms of unmet cap are 7,812,500 ticks; queue 1 has the dispatched work. -/
theorem witness_TheCapIsSharedAndEnforced_shed :
    let s (tick : Nat) (last : Option Word) : State := powered tick fun x => { x with unmet := some 0#64, lastShed := last }
    let again := 7812500 + 1562500
    (s 7812500 none).launchesOf 1 = true ∧ (∀ z : QueueId, 1 < z.val → (s 7812500 none).launchesOf z = false) ∧
    did .capUnreachable (s 7812499 none) (fun t => t.power.shed = []) ∧
    did .capUnreachable (s 7812500 none) (fun t => t.power.shed = [1] ∧ (t.queue 1).halted = true ∧ ((t.launch 3).bind Launch.failure).isSome = true) ∧
    did .capUnreachable (s (again - 1) (some 7812500#64)) (fun t => t.power.shed = []) ∧
    did .capUnreachable (s again (some 7812500#64)) (fun t => t.power.shed = [1]) := by decide +kernel

def top (kind watts : Nat) : TopRecord :=
  { magic := 0x5054#16, version := 1#8, kind := BitVec.ofNat 8 kind, ratingW := BitVec.ofNat 32 watts, fault := false, crcOk := true }
/-- Straps of kind 2: a first read, one 100 ms later and one a tick sooner; a record of another kind, and one that is not valid. -/
theorem witness_ProfilesAndHeat_top :
    let s := { device with lh := { device.lh with kind := 2 }, tide := 1562500#64 }
    let floors : Shares := { links := 1000, memory := 1000, compute := 1000 }
    let later (n : Nat) : State := { s with power := { s.power with topPending := some (2, 0#64), floors := some floors }, tide := word n }
    did (.thermalTopRead (some (top 2 2000))) s (fun t => t.power.profile = 0 ∧ t.power.topPending = some (2, 1562500#64)) ∧
    did (.thermalTopRead (some (top 2 2000))) (later 1562499) (fun t => t.power.profile = 0) ∧
    did (.thermalTopRead (some (top 2 2000))) (later 1562500) (fun t => t.power.profile = 2 ∧ t.power.capEff = 2000 ∧
      t.power.floors = some { links := 900, memory := 900, compute := 900 }) ∧
    did (.thermalTopRead (some (top 3 2000))) (later 1562500) (fun t => t.power.profile = 0 ∧ t.power.topPending = none) ∧
    did (.thermalTopRead none) (later 1562500) (fun t => t.power.profile = 0 ∧ t.power.rating = none) := by decide +kernel
/-- 100, 102 and 105 °C in eighths, and 2 °C below each. -/
theorem witness_ProfilesAndHeat_junction :
    let goes (old new : Nat) (v : Int) : Prop := nextJunction old v = new
    goes 0 0 799 ∧ goes 0 1 800 ∧ goes 0 1 815 ∧ goes 0 2 816 ∧ goes 0 2 839 ∧ goes 0 3 840 ∧ goes 3 3 825 ∧ goes 3 2 824 ∧ goes 2 2 801 ∧
    goes 2 1 800 ∧ goes 1 1 785 ∧ goes 1 0 784 ∧ goes 1 0 (-1) ∧ device.powered = true ∧ (device.isle 1).heat.junctionStep = 0 ∧
    did (.junctionTemperature 1 799#16) device (fun t => (t.isle 1).heat.junction = 799#16) := by decide +kernel

/-- 85, 90 and 95 °C, and 2 °C below each. -/
theorem witness_ProfilesAndHeat_stacks :
    let goes (old new temp : Nat) : Prop := nextBand old temp = new
    goes 0 0 84 ∧ goes 0 1 85 ∧ goes 0 1 89 ∧ goes 0 2 90 ∧ goes 0 2 94 ∧ goes 0 3 95 ∧ goes 3 3 94 ∧ goes 3 2 93 ∧ goes 2 1 88 ∧ goes 1 0 83 ∧
    did (.nearTemperatureRead 1 95#8 84#8) device (fun t => (t.isle 1).heat.band0 = 3 ∧ t.rep.alarms.length = 1) := by decide +kernel

theorem witness_ProfilesAndHeat_ageing :
    let s (n : Nat) : State := device.updIsle 1 fun x => { x with heat := { x.heat with ageing := n } }
    let heat (t : State) : IsleHeat := (t.isle 1).heat
    (heat (s 10)).ageing = 10 ∧ (heat (s 10)).worn = false ∧
    did (.ageingCheck 1 true false) (s 9) (fun t => (heat t).ageingDue = true) ∧ did (.ageingCheck 1 false false) (s 10) (fun t => (heat t).ageingCut = 0) ∧
    did (.ageingCheck 1 true true) (s 9) (fun t => (heat t).worn = true ∧ t.unavailable 150 = true) := by decide +kernel

/-- Core 3 waits for 800 MHz with 1 token in its isle's bucket and 2 in the module's; with fewer; behind core 0. -/
theorem witness_WakeTokensAndIdleStates_grant :
    let wants (c : CoreId) (s : State) : State := s.updCore c fun k => { k with pw := { k.pw with want := some 800 } }
    let s (isle module_ : Nat) : State :=
      let u := wants 3 ((launched image newLaunch device).updIsle (isleOf 3) fun x => { x with tokens := isle })
      { u with power := { u.power with tokens := module_ } }
    let point (t : State) : Nat := (t.core 3).pw.point
    wakeTokensAt 800 = 1 ∧ (s 1 2).clockFree 3 = true ∧ (s 1 2).wakeBefore 3 = false ∧ (wants 0 (s 1 2)).wakeBefore 3 = true ∧
    did (.wakeTokenGrant 3 800) (s 1 2) (fun t => point t = 800 ∧ (t.isle (isleOf 3)).tokens = 0 ∧ t.power.tokens = 0) ∧
    did (.wakeTokenGrant 3 800) (s 0 2) (fun t => point t = 0) ∧ did (.wakeTokenGrant 3 800) (s 1 1) (fun t => point t = 0) ∧
    did (.wakeTokenGrant 3 800) (wants 0 (s 1 2)) (fun t => point t = 0) ∧ did (.wakeTokenGrant 3 900) (s 1 2) (fun t => point t = 0) := by
  decide +kernel
/-- A non-deterministic launch's core that rises above its profile's point, and one that rises to it. -/
theorem witness_WakeTokensAndIdleStates_boost :
    let s (want : Nat) : State :=
      let u := (powered 7 fun x => { x with profile := 1 }).updCore 3 fun k => { k with pw := { k.pw with want := some want } }
      let u := u.setLaunch 3 { newLaunch with posted := [3] }
      { u.updIsle (isleOf 3) fun x => { x with tokens := 15 } with power := { u.power with tokens := 512 } }
    let boosted (t : State) : Bool := ((t.launch 3).map fun l => l.timing.boost) = some true
    profileMhz 1 = 2200 ∧ did (.wakeTokenGrant 3 3000) (s 3000) boosted ∧ did (.wakeTokenGrant 3 2200) (s 2200) (fun t => !boosted t) := by decide +kernel
/-- S1 at a tolerance of 2 µs and 1 µs; S2 after 1 ms and at 80 µs. -/
theorem witness_WakeTokensAndIdleStates_isle :
    let s (tol : Nat) : State := { device with power := { device.power with tolerance := tol } }
    let gated (tol tick : Nat) : State := { (s tol).updIsle 0 fun x => { x with idle := 1 } with tide := word tick }
    let idle (t : State) : Nat := (t.isle 0).idle
    (s 2).isleIdle 0 = true ∧ did (.s1 0) (s 2) (fun t => idle t = 1 ∧ t.clocked 0 = false) ∧ did (.s1 0) (s 1) (fun t => idle t = 0) ∧
    did (.s2 0) (gated 80 15625) (fun t => idle t = 2) ∧ did (.s2 0) (gated 80 15624) (fun t => idle t = 1) ∧
    did (.s2 0) (gated 79 15625) (fun t => idle t = 1) := by decide +kernel
theorem witness_WakeTokensAndIdleStates_device :
    let all (tol tick : Nat) : State :=
      { device with isles := device.isles.map fun x => { x with idle := 2 }, tide := word tick, power := { device.power with tolerance := tol } }
    let s3 (tol tick : Nat) : State := { all tol tick with power := { (all tol tick).power with idle := 3 } }
    let idle (t : State) : Nat := t.power.idle
    (all 15000 15625000).deviceIdle = true ∧
    did .s3 (all 15000 15625000) (fun t => idle t = 3) ∧ did .s3 (all 15000 15624999) (fun t => idle t = 0) ∧
    did .s3 (all 14999 15625000) (fun t => idle t = 0) ∧ did .s4 (s3 400000 156250000) (fun t => idle t = 4 ∧ (t.port 2).state = 0#3) ∧
    did .s4 (s3 400000 156249999) (fun t => idle t = 3) ∧ did .s4 (s3 399999 156250000) (fun t => idle t = 3) := by decide +kernel

/-- Under profile 1, 1,600 W: the limiter trips above 36.66 A and releases below 33.33 A. -/
def limited : State :=
  { launched image newLaunch device with tide := 7000#64, power := { device.power with profile := 1 }, lh := { device.lh with kind := 1 } }
theorem witness_LimiterAndLighthouseAct_limiter :
    let cut := { limited with lh := { limited.lh with limiter := true } }
    profileLimit 1 = 1600 ∧ limited.power.on = true ∧ overLimiter 1600 3667 = true ∧ cut.clocked 3 = false ∧ underLimiter 1600 3333 = true ∧
    did (.limiter 3666) limited (fun t => t.lh.limiter = false) ∧ did (.limiterRelease 3334) cut (fun t => t.lh.limiter = true) := by decide +kernel

/-- Each code at the edge of its condition. -/
theorem witness_LimiterAndLighthouseAct_trips :
    let met (code reading : Nat) (s : State) : Bool := s.tripMet (BitVec.ofNat 8 code) reading
    let clamped (n : Nat) : State := { limited with lh := { limited.lh with clamp := n } }
    let shed (r : Nat) (s : State) : Bool := did (.lighthouseTrip 8#8 (word r)) s fun t => t.lh.shed
    !met 1 1840 limited ∧ met 1 1841 limited ∧ !met 2 863 limited ∧ met 2 864 limited ∧ !met 3 759 limited ∧ met 3 760 limited ∧
    met 4 0 limited ∧ !met 5 863 limited ∧ met 5 864 limited ∧ !met 6 0 { limited with tide := 3906249#64 } ∧
    met 6 0 { limited with tide := 3906250#64 } ∧ met 7 0 limited ∧ !met 9 0 limited ∧ !met 8 5000 limited ∧ !shed 1600 (clamped 1) ∧
    shed 1601 (clamped 1) ∧ !shed 450 (clamped 2) ∧ shed 451 (clamped 2) := by decide +kernel

/-- Stage 1 loses Near and ends the launch; the store keeps 16 trips. -/
theorem witness_LimiterAndLighthouseAct_clamp :
    let s := { limited with mem := setByte (setByte [] 0x200000 1#8) 0x20000000005 9#8 }
    let trip : Trip := { code := 4#8, stage := 1, tide := 0#64, reading := 0#64, posted := false }
    let full := { limited with lh := { limited.lh with clamp := 1, trips := List.replicate 16 trip, count := 99 } }
    s.harbourRuns = true ∧ s.lh.clamp = 0 ∧ s.clampLoss.mem = [(0x20000000005, 9#8)] ∧ (s.launch 3).bind Launch.failure = none ∧
    (s.clampLaunches 4#8).hb.launches = [] ∧ ((s.clampLaunches 4#8).queue 1).unacked.map (fun x => x.entry[3]) = [failWord 11#8 4#56] ∧
    did (.lighthouseTrip 4#8 5#64) full (fun t =>
      t.lh.trips.length = 16 ∧ t.lh.trips.getLast? = some { trip with tide := 7000#64, reading := 5#64 } ∧ t.lh.count = 100) := by decide +kernel

theorem witness_LimiterAndLighthouseAct_checks :
    let clamped := { limited with lh := { limited.lh with clamp := 2 } }
    did .heartbeat limited (fun t => t.lh.beat = 7000#64) ∧ did .heartbeat clamped (fun t => t.lh.beat = 0#64) ∧
    did (.lighthouseSelfCheck true false true true) limited (fun t => t.lh.fault ∧ t.rep.alarms.length = 1) ∧
    did (.lighthouseSelfCheck true true true true) limited (fun t => !t.lh.fault) ∧
    did (.lighthouseSelfCheck true false true true) clamped (fun t => !t.lh.fault) := by decide +kernel

/-! Timed reports and self-tests -/

theorem witness_TimedReportsAndSelfTests_alarms :
    let a : Alarm :=
      { code := 5#16, source := 3#16, count := 1#32, firstTide := 0#64, lastTide := 0#64, firstDetail := 0#64, lastDetail := 0#64, seq := 0#32
        entrySeq := none, acked := true, pendingRepeat := false }
    let s (tick : Nat) (a : Alarm) : State := { device with tide := word tick, rep := { device.rep with alarms := [a] } }
    let left (s : State) (n : Nat) : Bool := did (.alarmClose 3#16 5#16) s fun t => t.rep.alarms.length = n
    left (s 15624999 a) 1 ∧ left (s 15625000 a) 0 ∧ left (s 15625000 { a with acked := false }) 1 ∧
    left (s 15625000 { a with pendingRepeat := true }) 1 ∧ left (s 15625000 { a with code := 6#16 }) 1 := by decide +kernel
/-- 1 s after the last notice, a tick earlier, and with no room. -/
theorem witness_TimedReportsAndSelfTests_notice :
    let rep := { device.rep with noticeFirst := some 7, noticeCrit := 2, noticeErr := 3, noticeAt := some 0#64 }
    let s (tick : Nat) : State := { device with tide := word tick, rep := rep }
    let full (s : State) : State := s.updHb fun h => { h with events := { h.events with waiting := [entry [5#64]] } }
    let posted (t : State) : List (Word × Word) := t.hb.events.unacked.map fun x => (x.entry[1], x.entry[2])
    (s 15625000).eventRoom 5 = true ∧ (full (s 15625000)).eventRoom 5 = false ∧
    did .logNotice (s 15625000) (fun t => posted t = [(7#64, 0x20003#64)] ∧ t.rep.noticeFirst = none) ∧
    did .logNotice (s 15624999) (fun t => posted t = []) ∧ did .logNotice (full (s 15625000)) (fun t => t.rep.noticeFirst = some 7) := by decide +kernel
/-- A period opened at 0 whose last loss was then, and one that has just lost. -/
theorem witness_TimedReportsAndSelfTests_storm :
    let s (tick first last : Nat) : State :=
      let storm := { device.rep.storm with opened := true, fromTide := word first, lastLoss := word last, coalesced := 4 }
      { device with tide := word tick, rep := { device.rep with storm := storm } }
    let quiet (tick : Nat) : State := s tick 1 0
    let entries (t : State) : Nat := t.hb.events.unacked.length
    (s 15625000 0 15625000).eventRoom 6 = true ∧ did .storm (s 15625000 0 15625000) (fun t => entries t = 1 ∧ t.rep.storm.opened = true) ∧
    did .storm (s 15625000 0 0) (fun t => entries t = 1 ∧ t.rep.storm.opened = false) ∧
    did .storm (quiet 15625001) (fun t => entries t = 0 ∧ t.rep.storm.opened = false) ∧ did .storm (s 15624999 0 0) (fun t => entries t = 0) := by
  decide +kernel
/-- A core quarantined twice and three times within 24 hours, the first 24 hours ago and a tick later. -/
theorem witness_TimedReportsAndSelfTests_self_test :
    let s (qs : List Word) (testing : Bool) : State := { device with tide := word dayTicks }.updCore 3 fun k =>
      { k with sc := { k.sc with run := .quarantined }, health := { k.health with quarantines := qs, testing := testing } }
    let passed (t : State) : Bool := (t.sc 3).run = .running && (t.sc 3).opmode = 0#2 && !(t.core 3).health.withdrawn
    let withdrawn (t : State) : Bool := (t.core 3).health.withdrawn && t.flash.withdrawn = [3] && t.unavailable 3
    (s [1#64] false).powered = true ∧ (s [1#64] false).launchOfCore 3 = none ∧
    did (.selfTest 3) (s [1#64] false) (fun t => (t.core 3).health.testing ∧ (t.sc 3).opmode = 2#2) ∧
    did (.selfTest 4) (s [1#64] false) (fun t => !(t.core 4).health.testing) ∧
    did (.selfTestEnd 3 true) (s [0#64, 1#64, 2#64] true) passed ∧ did (.selfTestEnd 3 true) (s [1#64, 1#64, 2#64] true) withdrawn ∧
    did (.selfTestEnd 3 false) (s [2#64] true) withdrawn ∧ did (.selfTestEnd 3 true) (s [] false) (fun t => (t.sc 3).run = .quarantined) := by decide +kernel

/-! ### Boot, identity, recovery, interfaces -/

def signed (type svn bytes : Nat) : SignedHeader :=
  { header bytes with word0 := word (type * 2 ^ 32 + 0x4f53464b), ver := word (svn * 2 ^ 32 + 7), len := word bytes }
/-- Firmware of the highest SVN passes R473, whatever the part record's floor. -/
theorem highest_svn_passes (s : State) (h : s.flash.minSvn ≤ 0xffffffff) : s.checkObject (signed 1 0xffffffff 172) verdict [0x0001] = 0#8 := by
  have b : Config.svnFloor.toNat < 2 ^ 32 := Config.svnFloor.isLt
  have e : max s.flash.minSvn Config.svnFloor.toNat ≤ 0xffffffff := by omega
  have v : objSvn (signed 1 0xffffffff 172) = 0xffffffff := by decide
  unfold State.checkObject
  simp only [v, Nat.not_lt.mpr e]
  decide
def bootReading : BootReading :=
  { pufOk := true, partRecordOk := true, securityRecordOk := true, ownerRecordOk := true, serviceRecordOk := true
    firmware := signed 1 0xffffffff 172, verdict := verdict, top := none, coresFailingSelfTest := [], sparesOk := 0#80, midLanes := 0xffff#16
    slotId := 0#3 }
def booting (fails : Nat) : State := { State.reset with flash := { State.reset.flash with bootFails := fails } }
/-- What R473 to R475 ask of a boot that reaches the ready point. -/
theorem witness_BootAndResets_ready :
    let s := booting 1
    s.power.on = true ∧ s.boot.phase = .stages ∧ s.boot.askRecovery = false ∧ s.flash.erased = false ∧ ¬3 ≤ s.flash.bootFails + 1 ∧
    (s.bootRecords bootReading).checkObject bootReading.firmware bootReading.verdict [0x0001] = 0#8 :=
  ⟨rfl, rfl, rfl, rfl, by decide, highest_svn_passes _ (by decide)⟩
theorem witness_BootAndResets_stages :
    let phase (p : BootPhase) (t : State) : Bool := t.boot.phase = p
    let twice := booting 2
    did (.bootStages { bootReading with pufOk := false }) (booting 0) (phase .pufFail) ∧
    did (.bootStages { bootReading with partRecordOk := false }) (booting 0) (phase .partRecordFail) ∧
    did (.bootStages bootReading) twice (fun t => phase .recovery t ∧ t.flash.bootFails = 3) ∧
    did (.bootStages bootReading) { booting 0 with boot := { (booting 0).boot with askRecovery := true } } (phase .recovery) ∧
    did (.bootStages { bootReading with firmware := signed 2 0 64 }) (booting 0) (phase .recovery) ∧
    did (.bootStages { bootReading with slotId := 5#3 }) twice (fun t => t.io.slot = 5#3) ∧
    did (.bootStages bootReading) { booting 0 with lh := { (booting 0).lh with clamp := 2, shed := true } } (phase .stages) ∧
    did (.bootStages bootReading) ready (fun t => t.flash.bootFails = 0) := by decide +kernel
/-- An alarm that a reset left without an entry is posted again, one that has an entry is not; a core that fails its self-test and finds
no spare is withdrawn with its alarm, one that was withdrawn already is not raised again. -/
theorem test_boot_alarms :
    let a : Alarm :=
      { code := 6#16, source := 3#16, count := 1#32, firstTide := 0#64, lastTide := 0#64, firstDetail := 0#64, lastDetail := 0#64, seq := 1#32
        entrySeq := none, acked := false, pendingRepeat := false }
    let posts (a : Alarm) : Nat := ({ State.reset with rep := { State.reset.rep with alarms := [a] } }).repostAlarms.hb.events.unacked.length
    let t := State.reset.substitute 0#80 7
    posts a = 1 ∧ posts { a with entrySeq := some 0#32 } = 0 ∧ posts { a with acked := true } = 0 ∧
    t.flash.withdrawn = [7] ∧ t.hb.events.unacked.length = 1 ∧ (t.substitute 0#80 7).hb.events.unacked.length = 1 ∧
    (t.repostAlarms).hb.events.unacked.length = 1 := by decide +kernel
/-- MODULE_RESET with FLAGS 1 and 2, under Clamp, and while nobody hears it. -/
theorem witness_BootAndResets_reset :
    let s := { limited with lh := { limited.lh with clamp := 1, count := 4 } }
    s.serves = true ∧ (booting 0).serves = false ∧ (booting 0).lighthouseAnswers = false ∧
    did (.moduleReset 1#8) s (fun t => t.boot.askRecovery ∧ t.boot.phase = .stages ∧ t.lh.clamp = 0 ∧ t.lh.count = 4 ∧ t.hb.launches = [] ∧ t.mem = []) ∧
    did (.moduleReset 2#8) s (fun t => t.boot.phase = .ready) ∧ did (.moduleReset 0#8) (booting 0) (fun t => t.io.replies = []) := by
  decide +kernel
/-- 40 V and 60 V do not cut the power; 44 V and 58 V for 10 ms restore it. -/
theorem witness_BootAndResets_power :
    let off (tick : Nat) : State :=
      { limited with power := { limited.power with on := false }, io := { limited.io with inputOk := true, pwrEn := true, inputSince := 0#64 }, tide := word tick }
    let on (t : State) : Bool := t.power.on
    (off 156250).passedUs (off 156250).io.inputSince 10000 = true ∧
    did (.inputVoltage 40000) limited on ∧ did (.inputVoltage 60000) limited on ∧ did (.inputVoltage 39999) limited (fun t => !on t ∧ t.mem = []) ∧
    did (.inputVoltage 60001) limited (fun t => !on t) ∧ did (.inputVoltage 44000) (off 156250) on ∧ did (.inputVoltage 58000) (off 156250) on ∧
    did (.inputVoltage 44000) (off 156249) (fun t => !on t) ∧ did (.inputVoltage 43999) (off 156250) (fun t => !on t ∧ !t.io.inputOk) ∧
    did (.pwrEn false) limited (fun t => !on t ∧ t.since t.io.inputSince = limited.since limited.io.inputSince) ∧ did (.pwrEn true) (off 156250) on ∧ did (.pwrEn true) (off 156249) (fun t => !on t) ∧
    did (.coolingKindDecode 0#2 false) limited (fun t => t.lh.kind = 3) ∧ did (.coolingKindDecode 3#2 false) limited (fun t => t.lh.kind = 0) ∧
    did (.coolingKindDecode 0#2 true) limited (fun t => t.lh.kind = 0) := by decide +kernel

/-- R473's checks one by one, for owner records, which hold no SVN. -/
theorem witness_AttestationAndUpdate_checks :
    let check (h : SignedHeader) (v : SigVerdict) : BitVec 8 := device.checkObject h v [0x0011]
    let h := signed 0x11 0 64
    check h verdict = 0#8 ∧ check (signed 0x11 1 64) verdict = 2#8 ∧ check (signed 0x12 0 64) verdict = 6#8 ∧
    check { h with bytes := 65 } verdict = 1#8 ∧ check { h with reservedZero := false } verdict = 1#8 ∧
    check h { verdict with hss := false } = 1#8 ∧ check { h with word0 := h.word0 + 1#64 } verdict = 1#8 := by decide +kernel
def host4 (n : Nat) : State := { networked with io := { networked.io with sessions := (List.range n).map fun i => (.i3c, BitVec.ofNat 32 i) } }
def said (r : Reply) (t : State) : Bool := t.io.replies = [r]
theorem witness_AttestationAndUpdate_sessions :
    let b : Binding := .i3c
    device.harbourRuns = true ∧ did (.spdmRequest b .challenge) device (fun t => said (.spdm b .challengeAuth) t ∧ t.io.signed = [b]) ∧
    did (.spdmRequest b (.keyExchange true)) (host4 3) (fun t => t.io.sessions.length = 4) ∧
    did (.spdmRequest b (.keyExchange true)) (host4 4) (said (.spdm b .sessionRefused)) ∧
    did (.spdmRequest b (.endSession 2#32)) (host4 3) (fun t => t.io.sessions.length = 2) ∧
    did (.spdmRequest b (.endSession 3#32)) (host4 3) (said (.spdm b .invalidRequest)) ∧
    did (.spdmRequest b (.getCertificate 1#4)) device (said (.spdm b .invalidRequest)) ∧
    did (.getMeasurements b 0#8 false) device (said (.measurements b [{ index := 0, value := 8 }] false)) ∧
    did (.getMeasurements b 9#8 false) device (said (.spdm b .invalidRequest)) ∧
    did (.getMeasurements b 9#8 false) { device with lh := { device.lh with clamp := 2 } } (said (.pldm .notReady)) := by decide +kernel
/-- An allowance of a second and of a tick less; the last index. -/
theorem witness_AttestationAndUpdate_hss :
    let b : Binding := .i3c
    let s (level : Nat) (q : BitVec 40) : State :=
      { device with io := { device.io with signed := [b], hssLevel := level, hssAt := 0#64 }, flash := { device.flash with hss := q }, tide := 1#64 }
    did (.getHssSignature b true) (s 15624999 5#40) (fun t => said (.hssSignature b 5#40) t ∧ t.flash.hss = 6#40 ∧ t.io.hssLevel = 0) ∧
    did (.getHssSignature b true) (s 15624998 5#40) (said (.spdm b .busy)) ∧ did (.getHssSignature b false) (s 15624999 5#40) (said (.spdm b .unspecified)) ∧
    did (.getHssSignature b true) (s 15624999 (BitVec.allOnes 40)) (said (.spdm b .unspecified)) ∧
    did (.getHssSignature b true) { s 15624999 5#40 with io := device.io } (said (.spdm b .invalidRequest)) := by decide +kernel
/-- An update whose object passes, and one whose type does not. -/
theorem witness_AttestationAndUpdate_update :
    let s := { device with io := { device.io with updating := true } }
    s.checkObject (signed 1 0xffffffff 172) verdict [0x0001] = 0#8 ∧
    did (.requestUpdate .i3c) device (fun t => t.io.updating) ∧ did (.requestUpdate .i3c) s (said (.update .alreadyInUpdateMode)) ∧
    did (.requestFirmwareData (signed 2 0 64) verdict 0#384 true) s (fun t => said (.update .verifyFailed) t ∧ !t.io.updating) :=
  ⟨highest_svn_passes _ (by decide), by decide +kernel⟩

/-! In recovery with a server, and with a session of 2 pieces of which the first is held. -/

def recovery (tick : Nat) (ses : Option Session) : State :=
  { State.reset with
    boot := { State.reset.boot with phase := .recovery, announced := some 9#32, announcedAt := some 0#64, session := ses }
    io := { State.reset.io with server := some 1#128 }, tide := word tick }
def session (kind total : Nat) : Session :=
  { id := 9#32, kind := BitVec.ofNat 8 kind, total := total, held := [(0, 1024)], reads := [(1024, 0#64)], lastData := 0#64 }
theorem witness_RecoverySessions_offer :
    let s := recovery 15625000 none
    let offer (kind : BitVec 8) (total : Nat) (p : State → Bool) : Bool := did (.offer 9#32 kind (word total)) s p
    let opened (n : Nat) (t : State) : Bool := t.boot.session.map (fun x => x.reads.length) = some n && t.io.replies.length = n
    s.recovering = true ∧ did .announce s (fun t => t.io.replies.length = 1) ∧ did .announce (recovery 15624999 none) (fun t => t.io.replies = []) ∧
    offer 0#8 0 (said (.recovery 5#8 9#32 1#8 0 0)) ∧ offer 0#8 67108864 (opened 8) ∧ offer 0#8 67108865 (said (.recovery 5#8 9#32 3#8 0 0)) ∧ offer 2#8 65536 (opened 8) ∧
    offer 2#8 65537 (said (.recovery 5#8 9#32 3#8 0 0)) ∧ offer 3#8 1 (said (.recovery 5#8 9#32 6#8 0 0)) ∧ offer 1#8 1025 (opened 2) ∧
    did (.offer 8#32 0#8 1#64) s (fun t => t.boot.session = none) := by decide +kernel
/-- The last piece of an owner object of 4,000 bytes: a release needs a target, a record none; a piece of the wrong length. -/
theorem witness_RecoverySessions_data :
    let s := recovery 5 (some { session 2 4000 with held := [(0, 1024), (1024, 1024), (2048, 1024)], reads := [(3072, 0#64)] })
    let data (len type : Nat) (p : State → Bool) : Bool :=
      did (.dataRecovery 9#32 3072#64 (BitVec.ofNat 16 len) (signed type 0 172) verdict 77#384 true) s p
    data 928 0x11 (fun t => t.flash.owner = some 77#384 ∧ t.boot.session = none ∧ said (.recovery 5#8 9#32 0#8 0 0) t) ∧
    data 928 0x12 (said (.recovery 5#8 9#32 4#8 0 0)) ∧ data 928 0x10 (said (.recovery 5#8 9#32 6#8 0 0)) ∧
    data 927 0x11 (fun t => t.boot.session.isSome) ∧
    did (.dataRecovery 9#32 1024#64 1024#16 (header 0) verdict 0#384 true) (recovery 5 (some (session 0 3000))) (fun t =>
      t.boot.session.map (fun x => (x.held, x.reads, x.lastData)) = some ([(0, 1024), (1024, 1024)], [(2048, 5#64)], 5#64)) := by decide +kernel
/-- The last piece of a firmware object that passes R473. -/
theorem witness_RecoverySessions_firmware :
    let x := { session 0 4000 with held := [(0, 1024), (1024, 1024), (2048, 1024)], reads := [(3072, 0#64)] }
    let s := recovery 5 (some x)
    s.recovering = true ∧ x.total ≤ (x.held.map Prod.snd).sum + 928 ∧ (∃ r ∈ x.reads, r.1 = 3072) ∧
    s.checkObject { signed 1 0xffffffff 172 with bytes := x.total - 3828 } verdict [0x0001] = 0#8 :=
  ⟨rfl, by decide, ⟨(3072, 0#64), by decide, rfl⟩, highest_svn_passes _ (by decide)⟩
/-- 100 ms are 1,562,500 ticks and 30 s are 468,750,000. -/
theorem witness_RecoverySessions_timers :
    let s (tick : Nat) : State := recovery tick (some (session 0 2048))
    did (.readResend 1024#64) (s 1562500) (said (.recovery 3#8 9#32 0#8 1024 1024)) ∧ did (.readResend 1024#64) (s 1562499) (fun t => t.io.replies = []) ∧
    did .sessionAbandon (s 468750000) (fun t => t.boot.session = none) ∧ did .sessionAbandon (s 468749999) (fun t => t.boot.session.isSome) := by
  decide +kernel

/-! The sideband and the host ports -/

theorem witness_SidebandAndHostPorts_answers :
    let stage2 := { networked with lh := { networked.lh with clamp := 2 } }
    networked.serves = true ∧ stage2.serves = false ∧ stage2.lighthouseAnswers = true ∧
    did (.pldmRequest .getTid) networked (said (.pldm .tid)) ∧ did (.pldmRequest .getTid) stage2 (said (.pldm .tid)) ∧
    did (.pldmRequest (.stateSensor true)) networked (said (.pldm (.lighthouseSensor 0))) ∧ did (.pldmRequest .pdr) stage2 (said (.pldm .notReady)) ∧
    did (.pldmRequest .getTid) (booting 0) (fun t => t.io.replies = []) ∧ did .getTrips stage2 (said (.trips [])) ∧
    did (.mctpControl .i3c) stage2 (said (.mctp .i3c)) ∧ did (.mctpControl (.ethernet host)) networked (said (.mctp (.ethernet host))) ∧
    did (.setdasa 5#7) networked (fun t => t.io.i3c = some 5#7) ∧ did (.setRecovery 3#128) networked (fun t => t.io.server = some 3#128) := by
  decide +kernel
/-- SET_NET of ports 1 and 2 and with prefixes of 32 and 33 bits. -/
theorem witness_SidebandAndHostPorts_net :
    let n (p : Nat) : NetConfig := { address with ipv4 := 9#32, prefix4 := BitVec.ofNat 8 p }
    let s := networked.updHb fun h => { h with qps := [(8, { mtu := 1024, port := true }), (9, { mtu := 1024, port := false })], hello := some host }
    let sets (port : BitVec 8) (n : NetConfig) (p : State → Bool) : Bool := did (.setNet port n) s p
    sets 1#8 (n 32) (fun t => mapFind 1 t.io.net = some (n 32) ∧ t.hb.hello = none ∧ t.hb.qps.map Prod.fst = [9] ∧ mapFind 1 t.flash.net = some (n 32)) ∧
    sets 1#8 (n 33) (said (.pldm .invalidData)) ∧ sets 2#8 (n 32) (said (.pldm .invalidData)) ∧
    sets 0#8 { n 24 with mode := 2#8 } (said (.pldm .invalidData)) ∧ sets 0#8 { n 24 with prefix6 := 129#8 } (said (.pldm .invalidData)) ∧
    did (.getNet 2#8) s (said (.pldm .invalidData)) := by decide +kernel
theorem witness_SidebandAndHostPorts_ports :
    let auto := { networked with io := { networked.io with net := [(0, { address with mode := 1#8 })] } }
    let ip (t : State) : Option (BitVec 32) := (mapFind 0 t.io.net).map NetConfig.ipv4
    networked.netOf false = some address ∧ did (.arpRequest false 1#128) networked (said (.arp false 1#128)) ∧
    did (.arpRequest false 2#128) networked (fun t => t.io.replies = []) ∧ did (.arpRequest false 0#128) networked (fun t => t.io.replies = []) ∧
    did (.dhcp false (some (7#32, 24#8, 0#32))) auto (fun t => ip t = some 7#32) ∧ did (.dhcp false none) auto (fun t => ip t = some 0#32) ∧
    did (.dhcp false none) networked (fun t => ip t = some 1#32) ∧ did (.autoNegotiation true (some 400)) networked (fun t => mapFind 1 t.io.link = some 400) ∧
    did (.autoNegotiation true (some 300)) networked (fun t => mapFind 1 t.io.link = none) := by decide +kernel

end Sys2Proof.Tests
end

/-! The heads of queues (R12, R335, R338, R359, R447): what a command at the head of its queue comes to, and what the posting of completions
to a queue leaves of the device. -/

namespace Sys2Proof.Machine

/-! ### A command runs at the head of its queue -/

section RunHead

variable {s : State} {q : QueueId} {e : Entry} {op : Nat}

/-- A queue whose head may start runs no entry. -/
theorem running_of_head (h : s.head q = some e) : (s.queue q).running = none := by
  unfold State.head State.front at h
  split at h
  · dsimp only at h
    split at h
    · cases h
    next hn =>
      simp only [Bool.or_eq_true, not_or, Option.not_isSome_iff_eq_none] at hn
      exact hn.1.1.2
  · cases h

theorem runHead_other (body : State → Entry → State) (h : s.head q = some e) (hop : e.op ≠ op) : s.runHead q op body = s := by
  simp [State.runHead, h, hop]

theorem runHead_reserved (body : State → Entry → State) (h : s.head q = some e) (hop : e.op = op) (hr : s.harbourRuns = true)
    (hc : s.lh.clamp = 0) (hz : e.reserved = true) :
    s.runHead q op body = (if quietOp op then s else s.wake).complete q stReserved 0#64 0#64 := by
  simp [State.runHead, h, hop, hr, hc, hz]

theorem runHead_clamped (body : State → Entry → State) (h : s.head q = some e) (hop : e.op = op) (hr : s.harbourRuns = true)
    (hc : s.lh.clamp ≠ 0) (hk : clampOk e = false) : s.runHead q op body = s.complete q stBusy 0#64 0#64 := by
  simp [State.runHead, h, hop, hr, hc, hk]

theorem quietOp_iff : quietOp op = true ↔ op ∈ [0x20, 0x21, 0x22, 0x2a, 0x2b] := by
  simp only [quietOp, Bool.or_eq_true, decide_eq_true_eq, List.mem_cons, List.not_mem_nil, or_false, or_assoc]
  rfl

theorem clampOk_of_notMem (h : e.op ∉ [0x03, 0x20, 0x2a, 0x2b]) : clampOk e = false := by
  simp only [List.mem_cons, List.not_mem_nil, or_false, not_or] at h
  obtain ⟨hl, hq, ht, hp⟩ := h
  simp [clampOk, opPowerTol, opPowerCap, opGraphLaunch, opQuery, hl, hq, ht, hp]

/-- The commands that act at the head of a queue alone, each with its opcode (Table 12.1). -/
def headCommands (q : QueueId) (img : ImageHeader) (body : BitVec 384) (v : Signatures) : List (Instr × Nat) :=
  [(.graphStore q img body v, 0x01), (.graphDrop q, 0x02), (.graphLaunch q, 0x03), (.dispatch q, 0x03), (.paramPatch q, 0x04),
    (.fenceWait q, 0x09), (.fenceReset q, 0x0a), (.ctxOpen q, 0x10), (.ctxConfig q, 0x11), (.ctxReset q, 0x12), (.ctxClose q, 0x13),
    (.map q, 0x14), (.unmap q, 0x15), (.regionDrop q, 0x16), (.retire q, 0x18), (.copy q, 0x19), (.query q, 0x20), (.logRead q, 0x21),
    (.traceRead q, 0x22), (.partSet q, 0x28), (.regSet q, 0x29), (.powerTol q, 0x2a), (.powerCap q, 0x2b)]

/-- While its queue runs no entry, each of these commands runs the head under its own opcode. -/
theorem exec_headCommand {img : ImageHeader} {body : BitVec 384} {v : Signatures} {i : Instr} (hn : (s.queue q).running = none)
    (hi : (i, op) ∈ headCommands q img body v) : ∃ act, exec i s = .next (s.runHead q op act) := by
  simp only [headCommands, List.mem_cons, List.not_mem_nil, or_false, Prod.mk.injEq] at hi
  rcases hi with ⟨rfl, rfl⟩ | ⟨rfl, rfl⟩ | ⟨rfl, rfl⟩ | ⟨rfl, rfl⟩ | ⟨rfl, rfl⟩ | ⟨rfl, rfl⟩ | ⟨rfl, rfl⟩ | ⟨rfl, rfl⟩ | ⟨rfl, rfl⟩ |
    ⟨rfl, rfl⟩ | ⟨rfl, rfl⟩ | ⟨rfl, rfl⟩ | ⟨rfl, rfl⟩ | ⟨rfl, rfl⟩ | ⟨rfl, rfl⟩ | ⟨rfl, rfl⟩ | ⟨rfl, rfl⟩ | ⟨rfl, rfl⟩ | ⟨rfl, rfl⟩ |
    ⟨rfl, rfl⟩ | ⟨rfl, rfl⟩ | ⟨rfl, rfl⟩ | ⟨rfl, rfl⟩ <;>
  simp only [exec, execGraphStore, execGraphDrop, execFenceWait, execCtxReset, execCtxClose, State.contextCommand, hn,
    Option.isSome_none, Bool.false_eq_true, if_false] <;>
  exact ⟨_, rfl⟩

end RunHead

/-! ### What the posting of completions leaves -/

@[simp] theorem queue_updRep (s : State) (f : Report → Report) (q : QueueId) : (s.updRep f).queue q = s.queue q := rfl

theorem queue_setQueue_ne (s : State) {p q : QueueId} (x : Queue) (h : p ≠ q) : (s.setQueue q x).queue p = s.queue p :=
  vget_set_ne _ _ h

theorem updRep_updRep (s : State) (f g : Report → Report) : (s.updRep f).updRep g = s.updRep fun r => g (f r) := rfl

/-- A trace touches the reports alone (R465). -/
theorem trace_eq (s : State) (r : Fin 7) (source code : BitVec 16) (d2 d3 : Word) :
    ∃ f, s.trace r source code d2 d3 = s.updRep f := by
  unfold State.trace
  dsimp only
  split
  · exact ⟨_, updRep_updRep s _ _⟩
  · exact ⟨_, rfl⟩

/-- A frame is kept last among those sent (R330). -/
def State.sends (s : State) (f : OutFrame) : State := s.updHb fun h => { h with sent := h.sent ++ [f] }

@[simp] theorem queue_sends (s : State) (f : OutFrame) (q : QueueId) : (s.sends f).queue q = s.queue q := rfl

/-- Sending a frame changes nothing beside it but the reports. -/
theorem sendFrame_eq (s : State) (dest : Option HostAddr) (type : BitVec 8) (queue : BitVec 4) (seq ack : BitVec 32) (es : List Entry) :
    ∃ f, s.sendFrame dest type queue seq ack es =
      (s.sends { dest := dest, type := type, queue := queue, seq := seq, ack := ack, tide := s.tide, entries := es }).updRep f :=
  trace_eq (s.sends { dest := dest, type := type, queue := queue, seq := seq, ack := ack, tide := s.tide, entries := es }) _ _ _ _ _

/-- The frame that carries the next completion of a queue (R335). -/
def State.completionFrame (s : State) (q : QueueId) (e : Entry) : OutFrame :=
  { dest := s.hostDest, type := 3#8, queue := BitVec.ofNat 4 q.val, seq := (s.queue q).compNext, ack := (s.queue q).ack, tide := s.tide,
    entries := [e] }

/-- A queue that owes one more completion to the host, under its next number (R335). -/
def State.owing (s : State) (q : QueueId) (e : Entry) : Queue :=
  let x := s.queue q
  { x with compNext := x.compNext + 1#32, unacked := x.unacked ++ [s.fresh x.compNext e] }

/-- Harbour keeps a posted completion under the queue's next number and sends it; only the reports change beside it (R335). -/
theorem postCompletion_eq {s : State} (hr : s.harbourRuns = true) (q : QueueId) (e : Entry) :
    ∃ f, s.postCompletion q e = ((s.setQueue q (s.owing q e)).sends (s.completionFrame q e)).updRep f := by
  unfold State.postCompletion
  simp only [hr, Bool.not_true, Bool.false_eq_true, if_false]
  obtain ⟨f, hf⟩ := sendFrame_eq (s.setQueue q (s.owing q e)) s.hostDest 3#8 (BitVec.ofNat 4 q.val) (s.queue q).compNext (s.queue q).ack [e]
  obtain ⟨g, hg⟩ := trace_eq (((s.setQueue q (s.owing q e)).sends (s.completionFrame q e)).updRep f) 1 (BitVec.ofNat 16 q.val) 3#16 e[0] e[1]
  refine ⟨fun r => g (f r), ?_⟩
  rw [← updRep_updRep, ← hg]
  exact congrArg (fun t => State.trace t 1 (BitVec.ofNat 16 q.val) 3#16 e[0] e[1]) hf

/-- Nothing of the device differs but the reports, the frames sent and queue `q`: there no completion is lost, no place of the ring is
taken, and neither the running entry nor what is committed changes. -/
structure OnlyCompletions (q : QueueId) (s t : State) : Prop where
  frame : ∃ rep queues sent, t = { s with rep := rep, hb := { s.hb with queues := queues, sent := sent } }
  others : ∀ p, p ≠ q → t.queue p = s.queue p
  owed : (s.queue q).owed ⊆ (t.queue q).owed
  sent : s.hb.sent ⊆ t.hb.sent
  free : ∀ k, mapFind k (s.queue q).ring = none → mapFind k (t.queue q).ring = none
  running : (t.queue q).running = (s.queue q).running
  committed : (t.queue q).committed = (s.queue q).committed

namespace OnlyCompletions

variable {q : QueueId} {s t u : State}

theorem refl (q : QueueId) (s : State) : OnlyCompletions q s s :=
  ⟨⟨_, _, _, rfl⟩, fun _ _ => rfl, List.Subset.refl _, List.Subset.refl _, fun _ h => h, rfl, rfl⟩

theorem trans (h : OnlyCompletions q s t) (h' : OnlyCompletions q t u) : OnlyCompletions q s u where
  frame := by
    obtain ⟨_, _, _, ht⟩ := h.frame
    obtain ⟨_, _, _, hu⟩ := h'.frame
    exact ⟨_, _, _, by rw [hu, ht]⟩
  others p hp := (h'.others p hp).trans (h.others p hp)
  owed := List.Subset.trans h.owed h'.owed
  sent := List.Subset.trans h.sent h'.sent
  free k hk := h'.free k (h.free k hk)
  running := h'.running.trans h.running
  committed := h'.committed.trans h.committed

theorem setQueue {x : Queue} (ho : (s.queue q).owed ⊆ x.owed) (hf : ∀ k, mapFind k (s.queue q).ring = none → mapFind k x.ring = none)
    (hr : x.running = (s.queue q).running) (hc : x.committed = (s.queue q).committed) : OnlyCompletions q s (s.setQueue q x) where
  frame := ⟨_, _, _, rfl⟩
  others _ hp := queue_setQueue_ne s x hp
  owed := by rwa [queue_setQueue_self]
  sent := List.Subset.refl _
  free := by rwa [queue_setQueue_self]
  running := by rwa [queue_setQueue_self]
  committed := by rwa [queue_setQueue_self]

theorem sends (s : State) (f : OutFrame) (g : Report → Report) : OnlyCompletions q s ((s.sends f).updRep g) where
  frame := ⟨_, _, _, rfl⟩
  others _ _ := rfl
  owed := List.Subset.refl _
  sent := List.subset_append_left _ _
  free _ h := h
  running := rfl
  committed := rfl

theorem postCompletion (q : QueueId) (s : State) (e : Entry) : OnlyCompletions q s (s.postCompletion q e) := by
  by_cases hr : s.harbourRuns = true
  · obtain ⟨f, h⟩ := postCompletion_eq hr q e
    rw [h]
    refine OnlyCompletions.trans ?_ (sends _ _ _)
    exact setQueue (by simp [State.owing, Queue.owed, owedOf]) (fun _ h => h) rfl rfl
  · have h : s.postCompletion q e = s := by simp [State.postCompletion, hr]
    rw [h]
    exact refl q s

theorem postDropped (q : QueueId) (s : State) (e : Entry) : OnlyCompletions q s (s.postDropped q e) := by
  unfold State.postDropped
  split
  · exact postCompletion q s e
  · split
    · exact refl q s
    · exact setQueue (List.Subset.refl _) (fun _ h => h) rfl rfl

end OnlyCompletions

theorem mapFind_eq_none_iff {α : Type} {k : Nat} : ∀ {m : Map α}, mapFind k m = none ↔ ∀ x ∈ m, x.1 ≠ k
  | [] => by simp [mapFind]
  | (i, a) :: t => by
    by_cases h : i = k
    · simp [mapFind, h]
    · simp [mapFind, h, mapFind_eq_none_iff (m := t)]

theorem mapFind_mapErase_none {α : Type} {j : Nat} (k : Nat) {m : Map α} (h : mapFind j m = none) : mapFind j (mapErase k m) = none :=
  mapFind_eq_none_iff.2 fun x hx => mapFind_eq_none_iff.1 h x (List.mem_filter.1 hx).1

theorem mapFind_mapErase_self {α : Type} (k : Nat) (m : Map α) : mapFind k (mapErase k m) = none :=
  mapFind_eq_none_iff.2 fun x hx => by simpa only [bne_iff_ne] using (List.mem_filter.1 hx).2

/-- Passing over ended entries and rejecting reserved opcodes at the head touches no other part of the device (R334, R359). -/
theorem OnlyCompletions.advance (q : QueueId) : ∀ (n : Nat) (s : State), OnlyCompletions q s (State.advance q n s)
  | 0, s => refl q s
  | n + 1, s => by
    unfold State.advance
    dsimp only
    split
    · exact refl q s
    split
    · refine OnlyCompletions.trans ?_ (advance q n _)
      exact setQueue (List.Subset.refl _) (fun _ h => h) rfl rfl
    split
    · exact refl q s
    split
    · exact refl q s
    split
    · exact refl q s
    · refine OnlyCompletions.trans (OnlyCompletions.trans ?_ (postDropped q _ _)) (advance q n _)
      exact setQueue (List.Subset.refl _) (fun _ h => mapFind_mapErase_none _ h) rfl rfl

/-! ### The completion of the head -/

section Complete

variable {s : State} {q : QueueId} {e : Entry}

/-- The queue whose head has started and freed its place (R334). -/
def Queue.begun (x : Queue) : Queue := { x.free x.started with started := x.started + 1#32 }

theorem completionFrame_begun (s : State) (q : QueueId) (e : Entry) :
    (s.setQueue q (s.queue q).begun).completionFrame q e = s.completionFrame q e := by
  unfold State.completionFrame
  rw [queue_setQueue_self]
  rfl

theorem complete_eq (h : s.head q = some e) (st : Nat) (r0 r1 : Word) :
    s.complete q st r0 r1 =
      ((s.setQueue q (s.queue q).begun).postCompletion q
        (completion q e.tag e.op st (s.queue q).started r0 r1 0#64 s.tide s.tide 0#64)).step1 q := by
  simp only [State.complete, h]
  rfl

/-- Completing the head touches its queue, the frames sent and the reports alone. -/
theorem OnlyCompletions.complete (h : s.head q = some e) (st : Nat) (r0 r1 : Word) : OnlyCompletions q s (s.complete q st r0 r1) := by
  rw [complete_eq h]
  refine OnlyCompletions.trans (OnlyCompletions.trans ?_ (postCompletion q _ _)) (advance q 512 _)
  exact setQueue (List.Subset.refl _) (fun _ h => mapFind_mapErase_none _ h) rfl rfl

/-- Completing the head frees its place in the ring (R334). -/
theorem complete_frees (h : s.head q = some e) (st : Nat) (r0 r1 : Word) :
    mapFind ((s.queue q).started.toNat % 256) ((s.complete q st r0 r1).queue q).ring = none := by
  rw [complete_eq h]
  refine (OnlyCompletions.trans (OnlyCompletions.postCompletion q _ _) (OnlyCompletions.advance q 512 _)).free _ ?_
  rw [queue_setQueue_self]
  exact mapFind_mapErase_self _ _

/-- Completing the head posts its completion under the queue's next number, and sends it (R335). -/
theorem complete_posts (h : s.head q = some e) (hr : s.harbourRuns = true) (st : Nat) (r0 r1 : Word) :
    let done := completion q e.tag e.op st (s.queue q).started r0 r1 0#64 s.tide s.tide 0#64
    ((s.queue q).compNext, done) ∈ ((s.complete q st r0 r1).queue q).owed ∧ s.completionFrame q done ∈ (s.complete q st r0 r1).hb.sent := by
  intro done
  rw [complete_eq h]
  let u := s.setQueue q (s.queue q).begun
  obtain ⟨f, hp⟩ := postCompletion_eq (s := u) hr q done
  have ho := OnlyCompletions.advance q 512 (u.postCompletion q done)
  have hc : (u.queue q).compNext = (s.queue q).compNext := by rw [queue_setQueue_self]; rfl
  constructor
  · refine ho.owed ?_
    rw [hp]
    simp [State.owing, Queue.owed, owedOf, hc, State.fresh]
  · refine ho.sent ?_
    rw [hp, completionFrame_begun]
    exact List.mem_append_right _ (List.mem_singleton_self _)

end Complete

/-- Settles O37: each command runs the head of its queue under its own opcode, and what the completion of the head leaves is kept by every
completion that follows it in the same step. -/
theorem headsCompleteInOrder : Obligations.HeadsCompleteInOrder := by
  intro s q e hh hr
  have hn := running_of_head hh
  refine ⟨fun img body v i op hi => ?_, fun st r0 r1 => ?_⟩
  · obtain ⟨act, ha⟩ := exec_headCommand (img := img) (body := body) (v := v) hn hi
    rw [ha]
    refine ⟨fun hop => ?_, fun hop hc hz => ?_, fun hop hc hl => ?_⟩
    · rw [runHead_other act hh hop]
    · rw [runHead_reserved act hh hop hr hc hz]
      simp only [quietOp_iff]
      rfl
    · rw [runHead_clamped act hh hop hr hc (clampOk_of_notMem (hop ▸ hl))]
      rfl
  · have hc := OnlyCompletions.complete hh st r0 r1
    obtain ⟨howed, hsent⟩ := complete_posts hh hr st r0 r1
    refine ⟨howed, ⟨_, hsent, rfl, rfl, rfl, rfl⟩, complete_frees hh st r0 r1, hc.running.trans hn, hc.committed, hc.others, ?_⟩
    obtain ⟨_, _, _, ht⟩ := hc.frame
    rw [ht]

end Sys2Proof.Machine

/-! The CACHE operations and the late bus errors of a core (R14, R175, R230, R241, R243). -/

namespace Sys2Proof.Machine

/-! ### Reports and failed launches leave the cores -/

section Cores

variable (s : State)

theorem noteLoss_cores (f : Storm → Storm) : (s.noteLoss f).cores = s.cores := rfl

theorem trace_cores (r : Fin 7) (source code : BitVec 16) (d2 d3 : Word) : (s.trace r source code d2 d3).cores = s.cores := by
  obtain ⟨f, h⟩ := trace_eq s r source code d2 d3
  rw [h]
  rfl

theorem sendFrame_cores (dest : Option HostAddr) (type : BitVec 8) (queue : BitVec 4) (seq ack : BitVec 32) (es : List Entry) :
    (s.sendFrame dest type queue seq ack es).cores = s.cores := trace_cores _ _ _ _ _ _

theorem emitEvent_cores (e : Entry) : (s.emitEvent e).cores = s.cores := by
  unfold State.emitEvent
  dsimp only
  split <;> exact sendFrame_cores _ _ _ _ _ _ _

theorem postEvent_cores (e : Entry) : (s.postEvent e).cores = s.cores := by
  unfold State.postEvent
  split
  · exact emitEvent_cores s e
  · rfl

theorem log_cores (cls : BitVec 8) (code source : BitVec 16) (ctx : Nat) (data : List Word) :
    (s.log cls code source ctx data).cores = s.cores := by
  unfold State.log
  dsimp only
  split <;> rfl

theorem raiseIdentity_cores (code source : BitVec 16) (detail : Word) : (s.raiseIdentity code source detail).cores = s.cores := by
  unfold State.raiseIdentity
  split
  · exact postEvent_cores _ _
  · dsimp only
    split
    · exact postEvent_cores _ _
    · rfl

theorem alarm_cores (code source : BitVec 16) (detail : Word) : (s.alarm code source detail).cores = s.cores := by
  unfold State.alarm
  dsimp only
  split
  · rw [raiseIdentity_cores, log_cores]
  · rw [noteLoss_cores, raiseIdentity_cores, log_cores]

theorem foldl_cores {α : Type} (f : State → α → State) (h : ∀ s a, (f s a).cores = s.cores) :
    ∀ (l : List α) (s : State), (l.foldl f s).cores = s.cores
  | [], _ => rfl
  | a :: l, s => (foldl_cores f h l (f s a)).trans (h s a)

theorem abortWindows_cores (k : Nat) : (s.abortWindows k).cores = s.cores := by
  unfold State.abortWindows State.abortWhere
  dsimp only
  rw [foldl_cores, foldl_cores]
  · exact fun _ _ => rfl
  · exact fun _ _ => rfl

theorem flood_cores (h : ImageHeader) (p : Option PortId) (x : Cell) : (s.flood h p x).cores = s.cores := by
  unfold State.flood
  rw [foldl_cores]
  · rfl
  · intro t p
    split <;> rfl

theorem startCoast_cores (k : Nat) (reason : BitVec 8) : (s.startCoast k reason).cores = s.cores := by
  unfold State.startCoast
  split
  · rfl
  split
  · rfl
  dsimp only
  split
  · rfl
  · exact flood_cores _ _ _ _

theorem failLaunch_cores (k : Nat) (cls : BitVec 8) (d : BitVec 56) (coast : Bool) : (s.failLaunch k cls d coast).cores = s.cores := by
  unfold State.failLaunch
  split
  · rfl
  · dsimp only
    split
    · rw [startCoast_cores, abortWindows_cores, log_cores]; rfl
    · rw [abortWindows_cores, log_cores]; rfl

/-- A failure of a launch leaves its cores as they are (R454). -/
theorem failCore_cores (c : Nat) (cls : BitVec 8) (d : BitVec 56) : (s.failCore c cls d).cores = s.cores := by
  unfold State.failCore
  split
  · exact failLaunch_cores _ _ _ _ _
  · rfl

/-- A request changes the coves it passes alone (R253). -/
theorem throughCove_eq (isle : Option Nat) (dpa n : Nat) (write : Bool) : ∃ x, s.throughCove isle dpa n write = { s with coves := x } := by
  unfold State.throughCove
  dsimp only
  split
  · exact ⟨_, rfl⟩
  split
  · exact ⟨_, rfl⟩
  split
  · split
    · exact ⟨_, rfl⟩
    · exact ⟨_, rfl⟩
  · exact ⟨_, rfl⟩

@[simp] theorem throughCove_cores (isle : Option Nat) (dpa n : Nat) (write : Bool) : (s.throughCove isle dpa n write).cores = s.cores := by
  obtain ⟨x, h⟩ := throughCove_eq s isle dpa n write
  rw [h]

@[simp] theorem throughCove_mem (isle : Option Nat) (dpa n : Nat) (write : Bool) : (s.throughCove isle dpa n write).mem = s.mem := by
  obtain ⟨x, h⟩ := throughCove_eq s isle dpa n write
  rw [h]

theorem devWrite_cores {ctx dpa : Nat} {bs : List Byte} {t : State} (h : s.devWrite ctx dpa bs = .ok t) : t.cores = s.cores := by
  unfold State.devWrite at h
  dsimp only at h
  split at h
  · cases h
  split at h
  · cases h
  cases h
  dsimp only
  split
  · rw [throughCove_cores]; split <;> rfl
  · unfold State.dropLines
    split <;> rfl

theorem performWrite_cores (core ctx dpa : Nat) (bs : List Byte) : (s.performWrite core ctx dpa bs).cores = s.cores := by
  unfold State.performWrite
  split
  case h_1 t h => exact devWrite_cores s h
  case h_2 => rw [failCore_cores]; exact alarm_cores _ _ _ _
  case h_3 => exact failCore_cores _ _ _ _

end Cores

/-! ### A core alone changes -/

@[simp] theorem sc_updSc_self (s : State) (c : CoreId) (f : Scalar → Scalar) : (s.updSc c f).sc c = f (s.sc c) := by
  simp [State.updSc, State.setSc]

theorem updSc_updSc (s : State) (c : CoreId) (f g : Scalar → Scalar) : (s.updSc c f).updSc c g = s.updSc c fun x => g (f x) := by
  simp [updSc_eq, Core.onSc]

@[simp] theorem sc_enters (s : State) (c : CoreId) (int : Bool) (e : Exc) (resume : Word) (target : BitVec 2) :
    (s.enters c int e resume target).sc c = (s.sc c).entered int e resume target := by
  unfold State.enters Core.onSc Core.onMx
  rw [sc_setCore_self]
  rfl

theorem sc_of_cores {s t : State} (h : t.cores = s.cores) (c : CoreId) : t.sc c = s.sc c := by
  unfold State.sc State.core
  rw [h]

namespace OnlyCore

theorem setCore (s : State) (c : CoreId) (x : Core) : OnlyCore s (s.setCore c x) c := by simp [OnlyCore]

theorem trans {s t u : State} {c : CoreId} (h : OnlyCore s t c) (h' : OnlyCore t u c) : OnlyCore s u c := by
  unfold OnlyCore at h h' ⊢
  rw [h, setCore_setCore] at h'
  exact h'

end OnlyCore

/-! ### Where an instruction begins, a core sees what it saw before -/

section Begun

variable (s : State) (c : CoreId)

theorem begun_ctxid (d : CoreId) : ((s.begun c).sc d).ctxid = (s.sc d).ctxid := by
  by_cases h : d = c
  · subst h; simp
  · unfold State.begun State.sc
    rw [updSc_eq, core_setCore_ne _ _ h]

theorem begun_priv : ((s.begun c).sc c).priv = (s.sc c).priv := by rw [begun_sc]

theorem begun_miss : ((s.begun c).sc c).miss = (s.sc c).miss := by rw [begun_sc]

theorem begun_l1Way (ctx dpa : Nat) : ((s.begun c).sc c).l1Way ctx dpa = (s.sc c).l1Way ctx dpa := by
  rw [begun_sc]
  rfl

@[simp] theorem begun_locate (ea n : Nat) : (s.begun c).locate c ea n = s.locate c ea n := by
  unfold State.locate
  simp only [begun_ctxid]
  simp only [begun_sc]

theorem walkFrom_setCore (x : Core) (va : Nat) : ∀ fuel lv t, walkFrom (s.setCore c x) va fuel lv t = walkFrom s va fuel lv t
  | 0, _, _ => rfl
  | n + 1, lv, t => by
    unfold walkFrom
    simp only [walkFrom_setCore x va n]
    rfl

@[simp] theorem begun_walk (ctx va : Nat) : (s.begun c).walk ctx va = s.walk ctx va := by
  unfold State.walk State.begun
  simp only [updSc_eq, walkFrom_setCore]
  rfl

@[simp] theorem begun_translate (ctx va : Nat) (k : Access) (level : BitVec 2) :
    (s.begun c).translate ctx va k level = s.translate ctx va k level := by
  unfold State.translate
  rw [begun_walk]

theorem begun_plainMemory (ctx dpa n : Nat) : PlainMemory (s.begun c) ctx dpa n ↔ PlainMemory s ctx dpa n := Iff.rfl

theorem locate_dev {ea : Nat} (n : Nat) (h : ea < vaTop) : s.locate c ea n = .dev := by simp [State.locate, h]

/-- An instruction whose body leaves no late error to record retires (R230). -/
theorem finish_settled {u : State} (h : (u.sc c).settled) : (s.begun c).finish c (.done u) = u.retire c ((s.sc c).pc + 4#64) := by
  have hp : ((s.begun c).sc c).pc = (s.sc c).pc := by rw [begun_sc]
  show (u.retire c (((s.begun c).sc c).pc + 4#64)).settleLate c = _
  rw [hp]
  refine settleLate_settled ?_
  unfold State.retire
  rw [sc_updSc_self]
  exact h

end Begun

/-! ### Device memory that no error, tag or window keeps -/

theorem written_writeBytes (m : Bytes) (a : Nat) (bs : List Byte) : Written m (writeBytes m a bs) a bs :=
  ⟨readBytes_writeBytes bs m a, byteAt_writeBytes_out bs m a⟩

theorem devRead_plain {s : State} {ctx dpa n : Nat} (isle : Option Nat) (h : PlainMemory s ctx dpa n) :
    s.devRead ctx dpa n isle = .ok (s.throughCove isle dpa n false) (readBytes s.mem dpa n) := by
  obtain ⟨ht, hu, hw⟩ := h
  simp [State.devRead, ht, hu, hw]

/-- A write of one whole 64-byte block of plain memory is performed, whatever its mark (R283). -/
theorem devWrite_block {s : State} {ctx block : Nat} {bs : List Byte} (hl : bs.length = 64) (h : PlainMemory s ctx (block * 64) 64) :
    ∃ t, s.devWrite ctx (block * 64) bs = .ok t ∧ t.mem = writeBytes s.mem (block * 64) bs := by
  obtain ⟨ht, hu, hw⟩ := h
  have hm : s.midOffline (block * 64) = false := by
    simp only [State.unreadable, Bool.or_eq_false_iff] at hu
    exact hu.1.2
  have hk : (s.marks.any fun b => b * 64 < block * 64 + 64 && block * 64 < b * 64 + 64 && !coversBlock (block * 64) 64 b) = false := by
    simp [coversBlock]
    omega
  simp only [State.devWrite, hl, ht, hm, hw, hk, Bool.not_true, Bool.or_self, Bool.false_eq_true, if_false]
  refine ⟨_, rfl, ?_⟩
  dsimp only
  split
  · rw [throughCove_mem]
  · rfl

theorem drainOver_clear {s : State} {c : CoreId} {dpa n : Nat} (h : ∀ b ∈ (s.sc c).stores, b.meets dpa n = false) :
    ∀ fuel, State.drainOver c dpa n fuel s = s
  | 0 => rfl
  | fuel + 1 => by
    have hn : ((s.sc c).stores.findIdx? fun b => b.meets dpa n) = none := List.findIdx?_eq_none_iff.2 h
    unfold State.drainOver
    rw [hn]

/-- A modified line that no buffered store meets is written back to its block, and its core is left (R243). -/
theorem writeBack_line {s : State} {c : CoreId} {y : L1Line} (hm : y.modified = true) (hb : y.bad = false) (hl : y.data.length = 64)
    (hs : ∀ b ∈ (s.sc c).stores, b.meets (y.dpaLine * 64) 64 = false) (hp : PlainMemory s y.ctx (y.dpaLine * 64) 64) :
    Written s.mem (s.writeBack c y).mem (y.dpaLine * 64) y.data ∧ (s.writeBack c y).cores = s.cores := by
  obtain ⟨t, ht, hmem⟩ := devWrite_block hl hp
  have hw : s.writeBack c y = t := by simp [State.writeBack, hm, hb, drainOver_clear hs, State.performWrite, ht]
  rw [hw, hmem]
  exact ⟨written_writeBytes _ _ _, devWrite_cores s ht⟩

/-! ### Lines of the L1 cache -/

theorem l1Line_setL1 (x : Scalar) {l l' : Nat} (w : Nat) (y : Option L1Line) (touched : Bool) (h : l % 128 = l' % 128) :
    (x.setL1 l w y touched).l1Line l' w = y := by
  unfold Scalar.l1Line Scalar.setL1 Scalar.l1Set
  rw [← h, mapGet_mapSet_self]
  exact vget_set_self _ _ _

section Line

variable {s : State} {c : CoreId} {dpa w : Nat} {y : L1Line}

/-- An operation on a line that the core's L1 holds works on that line. -/
theorem onLine_held (k : State → Nat → L1Line → State) (hw : (s.sc c).l1Way (s.sc c).ctxid.toNat dpa = some w)
    (hy : (s.sc c).l1Line (dpa / 64) w = some y) : s.onLine c dpa k = k s w y := by
  simp [State.onLine, hw, hy]

theorem onLine_begun (k : State → Nat → L1Line → State) (hw : (s.sc c).l1Way (s.sc c).ctxid.toNat dpa = some w)
    (hy : (s.sc c).l1Line (dpa / 64) w = some y) : (s.begun c).onLine c dpa k = k (s.begun c) w y :=
  onLine_held k (by rw [begun_sc]; exact hw) (by rw [begun_sc]; exact hy)

/-- The state in which way `w` of a line's set holds `z`. -/
def State.putLine (s : State) (c : CoreId) (y : L1Line) (w : Nat) (z : Option L1Line) : State :=
  s.updSc c fun x => x.setL1 y.line w z false

/-- What retires after an operation on a line: the memory that the operation left, and its line. -/
theorem retire_putLine (s : State) {z : Option L1Line} (pc : Word) (hl : y.line % 128 = dpa / 64 % 128) :
    let t := (s.putLine c y w z).retire c pc
    t.mem = s.mem ∧ (t.sc c).l1Line (dpa / 64) w = z := by
  refine ⟨rfl, ?_⟩
  unfold State.retire State.putLine
  rw [sc_updSc_self, sc_updSc_self]
  exact l1Line_setL1 _ _ _ _ hl

end Line

/-! ### A CACHE operation runs -/

section CacheOp

variable {s : State} {c : CoreId} {g : Guard} {f : FmtCache}

theorem cacheBad_eq_false (hz : f.size = 3#2) (ha : f.am = 0#3) : cacheBad f = false := by simp [cacheBad, hz, ha]

theorem cacheOn_own (k : State → Nat → Res) {o : Nat} (h : s.locate c (cacheEa (s.sc c) f) 64 = .own o) : cacheOn c f k s = .done s := by
  simp only [cacheOn, h]

theorem cacheOn_dev (k : State → Nat → Res) {dpa : Nat} {leaf : Word} (h : cacheEa (s.sc c) f < vaTop)
    (hw : s.walk (s.sc c).ctxid.toNat (cacheEa (s.sc c) f) = .ok dpa leaf) : cacheOn c f k s = k s dpa := by
  simp only [cacheOn, locate_dev s c 64 h, hw]

theorem begun_cacheEa : cacheEa ((s.begun c).sc c) f = cacheEa (s.sc c) f := by
  rw [begun_sc]
  rfl

theorem atLevel_of_le (body : State → Res) {lo : BitVec 2} (h : lo ≤ (s.sc c).priv) : atLevel lo c body s = body s := by
  simp [atLevel, h]

/-- On the core's own lagoon a CACHE operation only retires (R175). -/
theorem issue_cacheOn_own (k : State → Nat → Res) {o : Nat} (h : Runs s c g) (hb : cacheBad f = false)
    (ho : s.locate c (cacheEa (s.sc c) f) 64 = .own o) : s.issue c g (cacheBad f) (cacheOn c f k) = s.retires c id := by
  rw [issue_runs _ h hb, cacheOn_own k (o := o) (by rw [begun_cacheEa, begun_locate, ho]), retires_id s c h.2.2.2]

/-- On translated device memory a CACHE operation does to the line what its kind says (R175). -/
theorem issue_cacheOn_dev (k : State → Nat → Res) {dpa : Nat} {leaf : Word} (h : Runs s c g) (hb : cacheBad f = false)
    (he : cacheEa (s.sc c) f < vaTop) (hw : s.walk (s.sc c).ctxid.toNat (cacheEa (s.sc c) f) = .ok dpa leaf) :
    s.issue c g (cacheBad f) (cacheOn c f k) = (s.begun c).finish c (k (s.begun c) dpa) := by
  rw [issue_runs _ h hb, cacheOn_dev k (by rw [begun_cacheEa]; exact he) (by rw [begun_cacheEa, begun_ctxid, begun_walk]; exact hw)]

/-- From runtime level INVAL runs as any CACHE operation. -/
theorem issue_atLevel (body : State → Res) {bad : Bool} (h : Runs s c g) (hb : bad = false) {lo : BitVec 2} (hp : lo ≤ (s.sc c).priv) :
    s.issue c g bad (atLevel lo c body) = s.issue c g bad body := by
  rw [issue_runs _ h hb, issue_runs _ h hb, atLevel_of_le body (by rw [begun_sc]; exact hp)]

/-- A body that ends by putting `z` in a line's way retires, and leaves memory as it was before that. -/
theorem finish_putLine {u : State} {dpa w : Nat} {y : L1Line} {z : Option L1Line} (hu : u.cores = (s.begun c).cores)
    (hs : (s.sc c).settled) (hl : y.line % 128 = dpa / 64 % 128) :
    let t := (s.begun c).finish c (.done (u.putLine c y w z))
    t.mem = u.mem ∧ (t.sc c).l1Line (dpa / 64) w = z := by
  have hset : ((u.putLine c y w z).sc c).settled := by
    unfold State.putLine
    rw [sc_updSc_self, sc_of_cores hu, begun_sc]
    exact hs
  rw [finish_settled s c hset]
  exact retire_putLine u _ hl

section Held

variable {dpa w : Nat} {leaf : Word} {y : L1Line} (hr : Runs s c g) (hb : cacheBad f = false) (he : cacheEa (s.sc c) f < vaTop)
  (hk : s.walk (s.sc c).ctxid.toNat (cacheEa (s.sc c) f) = .ok dpa leaf) (hw : (s.sc c).l1Way (s.sc c).ctxid.toNat dpa = some w)
  (hy : (s.sc c).l1Line (dpa / 64) w = some y) (hl : y.line % 128 = dpa / 64 % 128)

include hr hb he hk hw hy hl

/-- CLEAN and FLUSH write a modified line back, and keep it clean or drop it (R243). -/
theorem cleanLine_held (drop : Bool) (hm : y.modified = true) (hg : y.bad = false) (hd : y.data.length = 64)
    (hs : ∀ b ∈ (s.sc c).stores, b.meets (y.dpaLine * 64) 64 = false) (hp : PlainMemory s y.ctx (y.dpaLine * 64) 64) :
    let t := s.issue c g (cacheBad f) (cacheOn c f fun s dpa => .done (s.cleanLine c dpa drop))
    Written s.mem t.mem (y.dpaLine * 64) y.data ∧
      (t.sc c).l1Line (dpa / 64) w = if drop then none else some { y with modified := false } := by
  have hs' : ∀ b ∈ ((s.begun c).sc c).stores, b.meets (y.dpaLine * 64) 64 = false := by rw [begun_sc]; exact hs
  obtain ⟨hmem, hcores⟩ := writeBack_line (s := s.begun c) hm hg hd hs' hp
  have hy' : ({ y with modified := false, bad := false } : L1Line) = { y with modified := false } := by rw [← hg]
  obtain ⟨htm, htl⟩ := finish_putLine (w := w) (z := if drop then none else some { y with modified := false }) hcores hr.2.2.2 hl
  rw [issue_cacheOn_dev _ hr hb he hk]
  unfold State.cleanLine
  rw [onLine_begun _ hw hy, hy']
  exact ⟨htm ▸ hmem, htl⟩

/-- INVAL drops a line unwritten (R243). -/
theorem dropLine_held :
    let t := s.issue c g (cacheBad f) (cacheOn c f fun s dpa => .done (s.dropLine c dpa))
    t.mem = s.mem ∧ (t.sc c).l1Line (dpa / 64) w = none := by
  rw [issue_cacheOn_dev _ hr hb he hk]
  unfold State.dropLine
  rw [onLine_begun _ hw hy]
  exact finish_putLine (u := s.begun c) rfl hr.2.2.2 hl

end Held

end CacheOp

/-! ### What write-backs and late errors leave of a core -/

/-- The general registers and the miss slot of core `c` are as they were. -/
structure KeepsRegisters (c : CoreId) (s t : State) : Prop where
  g : (t.sc c).g = (s.sc c).g
  miss : (t.sc c).miss = (s.sc c).miss

namespace KeepsRegisters

variable {c : CoreId} {s t u : State}

theorem trans (h : KeepsRegisters c s t) (h' : KeepsRegisters c t u) : KeepsRegisters c s u :=
  ⟨h'.g.trans h.g, h'.miss.trans h.miss⟩

theorem of_cores (h : t.cores = s.cores) : KeepsRegisters c s t := by
  constructor <;> rw [sc_of_cores h]

theorem updSc (s : State) {f : Scalar → Scalar} (hg : (f (s.sc c)).g = (s.sc c).g) (hm : (f (s.sc c)).miss = (s.sc c).miss) :
    KeepsRegisters c s (s.updSc c f) := by
  constructor <;> rwa [sc_updSc_self]

theorem updCore (s : State) {f : Core → Core} (h : (f (s.core c)).sc = (s.core c).sc) : KeepsRegisters c s (s.updCore c f) := by
  constructor <;> simp [State.updCore, h, State.sc]

theorem takeStore {k : Nat} {b : BufferedStore} (h : s.takeStore c k = some (b, t)) : KeepsRegisters c s t := by
  unfold State.takeStore at h
  split at h
  · cases h
    exact updSc s rfl rfl
  · cases h

theorem performStore (s : State) (b : BufferedStore) : KeepsRegisters c s (s.performStore c b) := by
  unfold State.performStore
  split
  · exact updSc s rfl rfl
  · exact of_cores (performWrite_cores _ _ _ _ _)

theorem drainOver (dpa n : Nat) : ∀ fuel s, KeepsRegisters c s (State.drainOver c dpa n fuel s)
  | 0, _ => ⟨rfl, rfl⟩
  | fuel + 1, s => by
    unfold State.drainOver
    split
    · exact ⟨rfl, rfl⟩
    split
    next b u h => exact ((takeStore h).trans (performStore u b)).trans (drainOver dpa n fuel _)
    next => exact ⟨rfl, rfl⟩

theorem writeBack (s : State) (y : L1Line) : KeepsRegisters c s (s.writeBack c y) := by
  unfold State.writeBack
  split
  · exact ⟨rfl, rfl⟩
  · dsimp only
    split
    · exact (drainOver _ _ _ s).trans (of_cores rfl)
    · exact (drainOver _ _ _ s).trans (of_cores (performWrite_cores _ _ _ _ _))

theorem allocate (s : State) (y : L1Line) : KeepsRegisters c s (s.allocate c y) := by
  unfold State.allocate
  dsimp only
  refine KeepsRegisters.trans ?_ (updSc _ rfl rfl)
  split
  · exact writeBack s _
  · exact ⟨rfl, rfl⟩

theorem quarantine (s : State) (cls : BitVec 8) (d : BitVec 56) (ea : Word) : KeepsRegisters c s (s.quarantine c cls d ea) := by
  unfold State.quarantine
  dsimp only
  refine KeepsRegisters.trans ?_ (of_cores (failCore_cores _ _ _ _))
  refine KeepsRegisters.trans ?_ (updSc _ rfl rfl)
  refine KeepsRegisters.trans ?_ (updCore _ rfl)
  exact of_cores (log_cores _ _ _ _ _ _)

theorem takeAt (s : State) (x : Exc) (resume : Word) (target : BitVec 2) : KeepsRegisters c s (s.takeAt c x resume target) := by
  unfold State.takeAt
  split
  · exact (updSc s rfl rfl).trans (quarantine _ _ _ _)
  · rw [enter_eq]
    constructor <;> rw [sc_enters] <;> rfl

theorem raise (s : State) (x : Exc) : KeepsRegisters c s (s.raise c x) := by
  unfold State.raise
  dsimp only
  split
  · exact quarantine s _ _ _
  · refine KeepsRegisters.trans ?_ (takeAt _ _ _ _)
    split
    · exact of_cores ((failCore_cores _ _ _ _).trans (log_cores _ _ _ _ _ _))
    · exact ⟨rfl, rfl⟩

theorem settleLate (s : State) : KeepsRegisters c s (s.settleLate c) := by
  unfold State.settleLate
  dsimp only
  split
  · exact ⟨rfl, rfl⟩
  split
  · exact ⟨rfl, rfl⟩
  · exact ((updSc s rfl rfl).trans (updSc _ rfl rfl)).trans (raise _ _)

/-- The end of an instruction, whatever late error it records, leaves what its body wrote (R230). -/
theorem finish_done (s u : State) : KeepsRegisters c u (s.finish c (.done u)) :=
  (updSc u rfl rfl).trans (settleLate _)

/-- A body that ends by setting the miss slot leaves it so, and the general registers as they were before. -/
theorem finish_miss (s u : State) (m : Miss) :
    let t := s.finish c (.done (u.updSc c fun x => { x with miss := m }))
    (t.sc c).miss = m ∧ (t.sc c).g = (u.sc c).g := by
  obtain ⟨hg, hm⟩ := finish_done (c := c) s (u.updSc c fun x => { x with miss := m })
  rw [sc_updSc_self] at hg hm
  exact ⟨hm, hg⟩

end KeepsRegisters

/-! ### PREF (R175, R241) -/

section Pref

variable {s : State} {c : CoreId} {g : Guard} {f : FmtCache} {dpa : Nat} {leaf : Word}

/-- On the core's own lagoon PREF only retires (R175). -/
theorem pref_own {o : Nat} (h : Runs s c g) (hb : cacheBad f = false) (ho : s.locate c (cacheEa (s.sc c) f) 64 = .own o) :
    exec (.pref c g f) s = .next (s.retires c id) := by
  simp only [exec, execPref]
  rw [issue_runs _ h hb]
  simp only [begun_cacheEa, begun_locate, ho]
  rw [retires_id s c h.2.2.2]

variable (h : Runs s c g) (hb : cacheBad f = false) (he : cacheEa (s.sc c) f < vaTop)
  (ht : s.translate (s.sc c).ctxid.toNat (cacheEa (s.sc c) f) .read (s.sc c).priv = .ok dpa leaf) (hl : leafC leaf = true)
  (hw : (s.sc c).l1Way (s.sc c).ctxid.toNat dpa = none)

include h hb he ht hl hw

/-- While a miss is outstanding, PREF of an absent line only retires (R241). -/
theorem pref_missing (hm : (s.sc c).miss ≠ .none) : exec (.pref c g f) s = .next (s.retires c id) := by
  simp only [exec, execPref]
  rw [issue_runs _ h hb]
  simp only [begun_cacheEa, begun_locate, locate_dev s c 64 he, begun_ctxid, begun_priv, begun_translate, ht, hl, begun_l1Way, hw, begun_miss,
    bne_iff_ne.2 hm, if_true, Bool.not_true, Bool.false_eq_true, if_false]
  rw [retires_id s c h.2.2.2]

/-- PREF of an absent line starts its fill when no miss is outstanding (R241). -/
theorem pref_starts (hm : (s.sc c).miss = .none) (hp : PlainMemory s (s.sc c).ctxid.toNat dpa 64) :
    Answers (exec (.pref c g f) s) fun t =>
      (t.sc c).miss = .fill (s.sc c).ctxid.toNat (cacheEa (s.sc c) f / 64) ∧ (t.sc c).g = (s.sc c).g := by
  refine ⟨_, rfl, ?_⟩
  rw [issue_runs _ h hb]
  simp only [begun_cacheEa, begun_locate, locate_dev s c 64 he, begun_ctxid, begun_priv, begun_translate, ht, hl, begun_l1Way, hw, begun_miss,
    hm, bne_self_eq_false, devRead_plain _ ((begun_plainMemory s c _ _ _).2 hp), Bool.not_true, Bool.false_eq_true, if_false]
  obtain ⟨hmiss, hg⟩ := KeepsRegisters.finish_miss (s.begun c) _ _
  refine ⟨hmiss, hg.trans (KeepsRegisters.g ?_)⟩
  exact ((KeepsRegisters.updSc s rfl rfl).trans (.of_cores (throughCove_cores (s.begun c) _ _ _ _))).trans (.allocate _ _)

end Pref

/-! ### Late bus errors (R14, R230) -/

/-- LBADDR and LBINFO with a late error recorded (R230). -/
def Scalar.recorded (x : Scalar) (e : LateError) : Scalar :=
  { x with lbaddr := e.ea.extractLsb' 0 56, lbValid := true, lbCount := retiredAfter x e.retiredAt }

/-- The exception that a late error raises (R230). -/
def LateError.exc (e : LateError) : Exc := { code := excLate, info := 0#8, eaddr := (e.ea.extractLsb' 0 56).setWidth 64 }

theorem toNat_retiredAfter (x : Scalar) (at_ : Word) : (retiredAfter x at_).toNat = min (x.retired - at_).toNat 0xffffffff := by
  simp only [retiredAfter, sat, BitVec.toNat_ofNat]
  omega

section Late

variable {s : State} {c : CoreId} {e : LateError}

/-- Below service mode's rule, a task takes LATE_BUS_ERROR at runtime level (R220, R228, Table 8.1). -/
theorem raise_late (ho : (s.sc c).opmode ≠ 0#2) (hp : (s.sc c).priv = 0#2) :
    s.raise c e.exc = s.enters c false e.exc (s.sc c).pc 1#2 := by
  have hs : (hardwareFault e.exc.code && (s.sc c).opmode = opService) = false := by simp [opService, ho]
  unfold State.raise
  simp only [hs, Bool.false_eq_true, if_false, hp]
  exact enter_eq s c false e.exc (s.sc c).pc 1#2

/-- EPC of an exception that a task raises: its address, at level 0 (R222). -/
theorem entered_epc {x : Scalar} (e : Exc) (resume : Word) (target : BitVec 2) (hp : x.priv = 0#2) :
    (x.entered false e resume target).epc = resume &&& ~~~3#64 := by
  simp [Scalar.entered, hp]

theorem onlyCore_enters (s : State) (c : CoreId) (int : Bool) (x : Exc) (resume : Word) (target : BitVec 2) :
    OnlyCore s (s.enters c int x resume target) c := OnlyCore.setCore _ _ _

/-- An instruction boundary of a running task records the first late error that waits and raises it (R230). -/
theorem settleLate_records {rest : List LateError} (hr : (s.sc c).run ≠ .quarantined) (hv : (s.sc c).lbValid = false)
    (hl : (s.sc c).late = e :: rest) (ho : (s.sc c).opmode ≠ 0#2) (hp : (s.sc c).priv = 0#2) :
    OnlyCore s (s.settleLate c) c ∧
      (s.settleLate c).sc c = (({ s.sc c with late := rest } : Scalar).recorded e).entered false e.exc (s.sc c).pc 1#2 := by
  have hu : s.settleLate c =
      (s.updSc c fun x => ({ x with late := rest } : Scalar).recorded e).enters c false e.exc (s.sc c).pc 1#2 := by
    have hrec : (s.updSc c fun x => { x with late := rest }).recordLate c e =
        (s.updSc c fun x => ({ x with late := rest } : Scalar).recorded e).raise c e.exc := by
      unfold State.recordLate
      dsimp only
      rw [updSc_updSc]
      rfl
    simp only [State.settleLate, hr, hv, hl, Bool.or_false, decide_false, Bool.false_eq_true, if_false]
    rw [hrec, raise_late (by rw [sc_updSc_self]; exact ho) (by rw [sc_updSc_self]; exact hp), sc_updSc_self]
    rfl
  rw [hu]
  refine ⟨OnlyCore.trans (OnlyCore.setCore _ _ _) (onlyCore_enters _ _ _ _ _ _), ?_⟩
  rw [sc_enters, sc_updSc_self]

end Late

theorem takeStore_eq {s : State} {c : CoreId} {k : Nat} {b : BufferedStore} (h : (s.sc c).stores[k]? = some b) :
    s.takeStore c k = some (b, s.updSc c fun x => { x with stores := x.stores.eraseIdx k }) := by
  simp only [State.takeStore, h]

/-- A buffered store that ends in a bus error leaves the buffer, and its error waits in retirement order until the boundary that follows
(R230). -/
theorem exec_lateBusError {s : State} {c : CoreId} {k : BitVec 4} {b : BufferedStore} (h : (s.sc c).stores[k.toNat]? = some b) :
    exec (.lateBusError c k) s = .next ((s.updSc c fun x =>
      { x with
        stores := x.stores.eraseIdx k.toNat
        late := insertLate { ea := b.ea, retiredAt := b.retiredAt } x.late }).settleLate c) := by
  simp only [exec, execLateBusError, takeStore_eq h]
  unfold State.queueLate
  rw [updSc_updSc]

/-- The error of a store that no other waits before is recorded at once (R230). -/
theorem lateBusError_records {s : State} {c : CoreId} {b : BufferedStore} (k : Nat) (hr : (s.sc c).run ≠ .quarantined)
    (hv : (s.sc c).lbValid = false) (hl : (s.sc c).late = []) (ho : (s.sc c).opmode ≠ 0#2) (hp : (s.sc c).priv = 0#2) :
    let e : LateError := { ea := b.ea, retiredAt := b.retiredAt }
    let t := (s.updSc c fun x => { x with stores := x.stores.eraseIdx k, late := insertLate e x.late }).settleLate c
    OnlyCore s t c ∧
      t.sc c = (({ s.sc c with stores := (s.sc c).stores.eraseIdx k, late := [] } : Scalar).recorded e).entered false e.exc (s.sc c).pc 1#2 := by
  intro e t
  let u := s.updSc c fun x => { x with stores := x.stores.eraseIdx k, late := insertLate e x.late }
  have hu : u.sc c = { s.sc c with stores := (s.sc c).stores.eraseIdx k, late := [e] } := by
    rw [sc_updSc_self, hl]
    rfl
  obtain ⟨honly, hsc⟩ := settleLate_records (s := u) (e := e) (rest := []) (by rw [hu]; exact hr) (by rw [hu]; exact hv) (by rw [hu])
    (by rw [hu]; exact ho) (by rw [hu]; exact hp)
  rw [hu] at hsc
  exact ⟨(OnlyCore.setCore _ _ _).trans honly, hsc⟩

section LbinfoRead

variable {s : State} {c : CoreId} {rd : BitVec 5}

/-- What a read of LBINFO leaves of its core, but for the instruction's retirement (R14). -/
def Scalar.readsLbinfo (rd : BitVec 5) (x : Scalar) : Scalar := { x.wg rd x.lbinfo with lbValid := false }

@[simp] theorem readsLbinfo_late (x : Scalar) : (x.readsLbinfo rd).late = x.late := by
  unfold Scalar.readsLbinfo Scalar.wg
  split <;> rfl

@[simp] theorem readsLbinfo_opmode (x : Scalar) : (x.readsLbinfo rd).opmode = x.opmode := by
  unfold Scalar.readsLbinfo Scalar.wg
  split <;> rfl

@[simp] theorem readsLbinfo_priv (x : Scalar) : (x.readsLbinfo rd).priv = x.priv := by
  unfold Scalar.readsLbinfo Scalar.wg
  split <;> rfl

@[simp] theorem readsLbinfo_evecRt (x : Scalar) : (x.readsLbinfo rd).evecRt = x.evecRt := by
  unfold Scalar.readsLbinfo Scalar.wg
  split <;> rfl

theorem readsLbinfo_running (x : Scalar) :
    ({ x with run := .running, hold := false } : Scalar).readsLbinfo rd = { x.readsLbinfo rd with run := .running, hold := false } := by
  unfold Scalar.readsLbinfo
  rw [wg_running]
  rfl

/-- A read of LBINFO retires, and its boundary then takes what waits (R14, R230). -/
theorem lbinfoIn_eq (h : Runs s c alwaysGuard) :
    lbinfoIn s c alwaysGuard rd = (s.retires c fun k => k.onSc (Scalar.readsLbinfo rd)).settleLate c := by
  have hr : ((s.begun c).updSc c (Scalar.readsLbinfo rd)).retire c ((s.sc c).pc + 4#64) =
      s.retires c fun k => k.onSc (Scalar.readsLbinfo rd) := by
    unfold State.retire State.begun
    rw [updSc_updSc, updSc_updSc, updSc_eq]
    simp only [readsLbinfo_running]
    rfl
  have hp : ((s.begun c).sc c).pc = (s.sc c).pc := by rw [begun_sc]
  unfold lbinfoIn
  rw [issue_runs _ h rfl, ← hr, ← hp]
  rfl

/-- With no further error waiting, a read of LBINFO returns it and clears VALID (R14). -/
theorem lbinfoIn_last (h : Runs s c alwaysGuard) (hl : (s.sc c).late = []) :
    lbinfoIn s c alwaysGuard rd = s.retires c fun k => k.onSc (Scalar.readsLbinfo rd) := by
  rw [lbinfoIn_eq h]
  refine settleLate_settled (.inl ?_)
  unfold State.retires
  rw [sc_setCore_self]
  exact (readsLbinfo_late _).trans hl

/-- With further errors waiting, the first of them is recorded and raised once the read has retired (R230). -/
theorem lbinfoIn_next {e : LateError} {rest : List LateError} (h : Runs s c alwaysGuard) (hl : (s.sc c).late = e :: rest)
    (ho : (s.sc c).opmode ≠ 0#2) (hp : (s.sc c).priv = 0#2) :
    let x := (((s.core c).onSc (Scalar.readsLbinfo rd)).retiredTo c ((s.sc c).pc + 4#64)).sc
    OnlyCore s (lbinfoIn s c alwaysGuard rd) c ∧
      (lbinfoIn s c alwaysGuard rd).sc c = (({ x with late := rest } : Scalar).recorded e).entered false e.exc ((s.sc c).pc + 4#64) 1#2 := by
  intro x
  have hx : (s.retires c fun k => k.onSc (Scalar.readsLbinfo rd)).sc c = x := sc_setCore_self _ _ _
  have hrun : x.run ≠ .quarantined := by simp [x, Core.retiredTo, Core.onSc]
  obtain ⟨honly, hsc⟩ := settleLate_records (s := s.retires c fun k => k.onSc (Scalar.readsLbinfo rd)) (e := e) (rest := rest)
    (by rw [hx]; exact hrun) (by rw [hx]; rfl) (by rw [hx]; exact (readsLbinfo_late _).trans hl)
    (by rw [hx]; exact fun hz => ho ((readsLbinfo_opmode _).symm.trans hz)) (by rw [hx]; exact (readsLbinfo_priv _).trans hp)
  rw [lbinfoIn_eq h]
  rw [hx] at hsc
  exact ⟨(OnlyCore.setCore _ _ _).trans honly, hsc⟩

end LbinfoRead

/-- Settles O16: a CACHE operation works on the line that L1 holds, PREF allocates what it fills, and a late error is recorded at an
instruction boundary. -/
theorem cacheOperationsAndLateErrors : Obligations.CacheOperationsAndLateErrors := by
  refine ⟨fun s c => ⟨rfl, fun g f hr hz ha => ?_⟩, fun s c => ⟨fun k b hb hr ho hp => ⟨fun hv hl => ?_, fun hv => ?_⟩, ?_, ?_⟩⟩
  · have hb := cacheBad_eq_false hz ha
    refine ⟨fun o hown => ?_, fun w dpa leaf y he hk hw hy hl hm hg hd hs hp => ?_, fun dpa leaf he ht hc hw => ?_⟩
    · have hown' (k : State → Nat → Res) : (.next (s.issue c g (cacheBad f) (cacheOn c f k)) : Out) = .next (s.retires c id) :=
        congrArg _ (issue_cacheOn_own k hr hb hown)
      refine ⟨pref_own hr hb hown, hown' _, hown' _, fun hp => ?_⟩
      exact (congrArg _ (issue_atLevel _ hr hb hp)).trans (hown' _)
    · refine ⟨⟨_, rfl, ?_⟩, ⟨_, rfl, ?_⟩, fun hpriv => ⟨_, rfl, ?_⟩⟩
      · exact cleanLine_held hr hb he hk hw hy hl false hm hg hd hs hp
      · exact cleanLine_held hr hb he hk hw hy hl true hm hg hd hs hp
      · rw [issue_atLevel (lo := privRuntime) _ hr hb hpriv]
        exact dropLine_held hr hb he hk hw hy hl
    · exact ⟨pref_missing hr hb he ht hc hw, pref_starts hr hb he ht hc hw⟩
  · rw [exec_lateBusError hb]
    obtain ⟨honly, hsc⟩ := lateBusError_records (b := b) k.toNat hr hv hl ho hp
    refine ⟨_, rfl, honly, ?_⟩
    rw [hsc]
    exact ⟨rfl, rfl, toNat_retiredAfter _ _, rfl, rfl, rfl, entered_epc _ _ _ hp⟩
  · rw [exec_lateBusError hb, settleLate_settled (.inr (by rw [sc_updSc_self]; exact hv))]
    rfl
  · intro rd hr hl
    exact congrArg _ (lbinfoIn_last hr hl)
  · intro rd e rest hr hl _ ho hp
    obtain ⟨honly, hsc⟩ := lbinfoIn_next (rd := rd) hr hl ho hp
    refine ⟨_, rfl, honly, ?_⟩
    rw [hsc]
    exact ⟨rg_wg_self _ _ _, rfl, rfl, rfl, rfl, readsLbinfo_evecRt _, entered_epc _ _ _ ((readsLbinfo_priv _).trans hp)⟩

end Sys2Proof.Machine

/-! What reset leaves (R74, R90, R152, R328, R434, R440). -/

namespace Sys2Proof.Machine

/-! ### The accessors of the block at reset -/

theorem vget_replicate {α : Type} {n : Nat} (a : α) (i : Fin n) : (Vector.replicate n a).get i = a := by
  show (Vector.replicate n a)[i] = a
  simp

/-- A core that no command has touched is as reset leaves it. -/
theorem core_reset (c : CoreId) : State.reset.core c = Core.reset := rfl

theorem isle_reset (i : IsleId) : State.reset.isle i = Isle.reset := vget_replicate _ _

theorem queue_reset (q : QueueId) : State.reset.queue q = Queue.reset := vget_replicate _ _

theorem rg_reset (r : BitVec 5) : Scalar.reset.rg r = 0#64 := by
  unfold Scalar.rg
  split
  · rfl
  · exact vget_replicate _ _

/-- Settles O4: every accessor reads its reset value there, and the invariants are evaluated on those values. -/
theorem resetLeavesASoundBlock : Obligations.ResetLeavesASoundBlock := by
  refine ⟨⟨fun c => ?_, fun q => ?_, rfl, fun i => ?_, rfl, rfl, rfl, rfl⟩, reset_bytesWf, by decide, rfl, by decide, by decide⟩
  · simp only [State.sc, State.vec, State.mx, core_reset]
    exact ⟨by decide, rg_reset, by decide, by decide, by decide, rfl, rfl, rfl, by decide, rfl⟩
  · rw [queue_reset]
    exact ⟨rfl, rfl⟩
  · rw [isle_reset]
    rfl

end Sys2Proof.Machine

/-! The matrix engine's sequences and steps (R86, R90, R107). -/

namespace Sys2Proof.Machine

/-! ### A core's matrix engine changes -/

section Engine

variable (s : State) (c : CoreId)

theorem updMx_eq (f : Mx → Mx) : s.updMx c f = s.setCore c ((s.core c).onMx f) := rfl

@[simp] theorem mx_updMx_self (f : Mx → Mx) : (s.updMx c f).mx c = f (s.mx c) := by simp [State.updMx]

@[simp] theorem sc_updMx_self (f : Mx → Mx) : (s.updMx c f).sc c = s.sc c := by
  rw [updMx_eq, sc_setCore_self]
  rfl

@[simp] theorem mx_updSc_self (f : Scalar → Scalar) : (s.updSc c f).mx c = s.mx c := by
  rw [updSc_eq, mx_setCore_self]
  rfl

theorem updMx_updMx (f g : Mx → Mx) : (s.updMx c f).updMx c g = s.updMx c fun m => g (f m) := by simp [updMx_eq, Core.onMx]

@[simp] theorem begun_rg (r : BitVec 5) : ((s.begun c).sc c).rg r = (s.sc c).rg r := by
  rw [begun_sc]
  rfl

@[simp] theorem mx_retires (f : Core → Core) : (s.retires c f).mx c = (f (s.core c)).mx := mx_setCore_self _ _ _

@[simp] theorem pc_retires (f : Core → Core) : ((s.retires c f).sc c).pc = (s.sc c).pc + 4#64 := by
  unfold State.retires
  rw [sc_setCore_self]
  rfl

variable {s c}

/-- A body that changes the matrix engine alone retires the core. -/
theorem retires_of_mx (f : Mx → Mx) (hl : (s.sc c).settled) :
    (s.begun c).finish c (.done ((s.begun c).updMx c f)) = s.retires c fun k => k.onMx f :=
  retires_of_core (fun y => y.onMx f) (fun y => y.onMx f) rfl hl

/-- Only what a change makes of the engine at hand matters. -/
theorem updMx_congr {f g : Mx → Mx} (h : f (s.mx c) = g (s.mx c)) : s.updMx c f = s.updMx c g :=
  congrArg (fun m => s.setCore c { s.core c with mx := m }) h

theorem retires_onMx_congr {f g : Mx → Mx} (h : f (s.mx c) = g (s.mx c)) :
    (s.retires c fun k => k.onMx f) = s.retires c fun k => k.onMx g :=
  congrArg (fun m => s.setCore c (({ s.core c with mx := m } : Core).retiredTo c ((s.sc c).pc + 4#64))) h

theorem runs_settled {g : Guard} (h : Runs s c g) : (s.sc c).settled := by
  obtain ⟨-, -, -, hl⟩ := h
  exact hl

/-- The guard of a port access row holds on every core that can issue (log 10). -/
theorem runs_always (h : s.canIssue c = true) (hl : (s.sc c).settled) : Runs s c alwaysGuard :=
  ⟨h, rfl, by simp [Scalar.rp, alwaysGuard], hl⟩

variable (s c) in
/-- No retry is recorded with a launch when there was none. -/
@[simp] theorem countRetries_zero : s.countRetries c 0 = s := by
  unfold State.countRetries
  split <;> rfl

/-- Reads of the own lagoon that meet no bad word go on (R283). -/
theorem feed_good {α : Type} {rs : List (Nat × Nat)} (bad : State → α) (k : Unit → α) (h : badWraps (s.sc c).lagoonBad rs = none) :
    s.feed c rs bad k = k () := by
  unfold State.feed
  rw [h]

end Engine

/-! ### Elements of a bank -/

theorem mapGet_setAcc_self (i : Nat) (e : Acc) (b : Map Acc) : mapGet Acc.clear i (setAcc i e b) = e := by
  unfold setAcc
  split
  next h => rw [mapGet_mapErase_self, h]
  next => exact mapGet_mapSet_self _ _ _ _

theorem mapGet_setAcc_ne {i k : Nat} (e : Acc) (b : Map Acc) (h : k ≠ i) :
    mapGet Acc.clear k (setAcc i e b) = mapGet Acc.clear k b := by
  unfold setAcc
  split
  · exact mapGet_mapErase_ne _ _ h
  · exact mapGet_mapSet_ne _ _ _ h

/-- Writes of elements, the first first. -/
def putAccs (ws : List (Nat × Acc)) (b : Map Acc) : Map Acc := ws.foldl (fun b w => setAcc w.1 w.2 b) b

/-- An element that no write names is kept. -/
theorem mapGet_putAccs_of_notMem {k : Nat} : ∀ {ws : List (Nat × Acc)} (b : Map Acc), (∀ w ∈ ws, w.1 ≠ k) →
    mapGet Acc.clear k (putAccs ws b) = mapGet Acc.clear k b
  | [], _, _ => rfl
  | w :: ws, b, h => by
    obtain ⟨hw, hws⟩ := List.forall_mem_cons.1 h
    exact (mapGet_putAccs_of_notMem (setAcc w.1 w.2 b) hws).trans (mapGet_setAcc_ne _ _ hw.symm)

/-- An element takes the value written to it when all writes of it agree. -/
theorem mapGet_putAccs_of_mem {k : Nat} {e : Acc} : ∀ {ws : List (Nat × Acc)} (b : Map Acc), (k, e) ∈ ws → (∀ w ∈ ws, w.1 = k → w.2 = e) →
    mapGet Acc.clear k (putAccs ws b) = e
  | w :: ws, b, h, hu => by
    obtain ⟨hw, hws⟩ := List.forall_mem_cons.1 hu
    by_cases hm : (k, e) ∈ ws
    · exact mapGet_putAccs_of_mem (setAcc w.1 w.2 b) hm hws
    · obtain rfl : (k, e) = w := (List.mem_cons.1 h).resolve_right hm
      refine (mapGet_putAccs_of_notMem (setAcc k e b) fun v hv hk => hm ?_).trans (mapGet_setAcc_self k e b)
      rw [← hk, ← hws v hv hk]
      exact hv

theorem bankIx_not_ne (b : Bool) : bankIx (!b) ≠ bankIx b := by cases b <;> decide

section Bank

variable (m : Mx) (b : Bool) (f : Map Acc → Map Acc)

@[simp] theorem acc_updBank_self (i : Nat) : (m.updBank b f).acc b i = mapGet Acc.clear i (f (m.banks.get (bankIx b))) := by
  unfold Mx.acc Mx.updBank
  rw [vget_set_self]

@[simp] theorem acc_updBank_not (i : Nat) : (m.updBank b f).acc (!b) i = m.acc (!b) i := by
  unfold Mx.acc Mx.updBank
  rw [vget_set_ne _ _ (bankIx_not_ne b)]

variable {m} in
theorem acc_of_banks {m' : Mx} (h : m'.banks = m.banks) (i : Nat) : m'.acc b i = m.acc b i := by
  unfold Mx.acc
  rw [h]

@[simp] theorem banks_setWr (r : Bool) (w : WReg) : (m.setWr r w).banks = m.banks := by
  unfold Mx.setWr
  split <;> rfl

end Bank

/-! ### MX.SEQ starts or retires at once (R107) -/

section Sequence

variable {s : State} {c : CoreId} {g : Guard} {f : FmtMxSeq} (h : Runs s c g) (hb : f.rsv = 0#3) (hp : (s.mx c).progValid = false)

/-- The sequence that an MX.SEQ starts: its base offsets, the register of its count, the first step (R107). -/
def Scalar.sequence (x : Scalar) (f : FmtMxSeq) : Seq :=
  { ga := (x.rg f.ga).extractLsb' 0 20, gw := (x.rg f.gw).extractLsb' 0 20, rc := f.gc, chunk := 0#16, pass := 0#4, row := 0#7 }

include h hb hp

theorem mxSeq_empty (hz : (s.sc c).rg f.gc = 0#64 ∨ cfgRows (s.mx c).mcfg = 0) : exec (.mxSeq c g f) s = .next (s.retires c id) := by
  simp only [exec, execMxSeq]
  rw [issue_runs _ h (by simp [hb])]
  have hz' : ((s.sc c).rg f.gc = 0#64 || cfgRows (s.mx c).mcfg = 0) = true := by simpa using hz
  simp only [begun_mx, begun_rg, hp, hz', Bool.false_eq_true, if_false, if_true]
  rw [retires_id s c (runs_settled h)]

theorem mxSeq_starts (hz : (s.sc c).rg f.gc ≠ 0#64) (hr : cfgRows (s.mx c).mcfg ≠ 0) (hlt : (s.sc c).rg f.gc < 0x10000#64)
    (hw : ((s.mx c).wr0.used || (s.mx c).wr1.used) = true) :
    exec (.mxSeq c g f) s = .next (((s.begun c).updMx c fun m =>
      { m with seq := some ((s.sc c).sequence f), seen := (s.sc c).lagoon, passBuf := [] }).updSc c fun x => { x with run := .matrix }) := by
  simp only [exec, execMxSeq]
  rw [issue_runs _ h (by simp [hb])]
  have hle : ¬ 0x10000#64 ≤ (s.sc c).rg f.gc := BitVec.not_le.2 hlt
  have hw' : (!(s.mx c).wr0.used && !(s.mx c).wr1.used) = false := by rw [← Bool.not_or, hw]; rfl
  simp only [begun_mx, begun_rg, hp, hz, hr, hle, hw', decide_false, Bool.or_self, Bool.false_eq_true, if_false]
  simp only [State.updMx, begun_mx, begun_sc, hp]
  rfl

end Sequence

/-! ### The elements that a step updates (R86, R90) -/

section StepBank

variable {m : Mx} {q : Seq} {free : Nat}

/-- Where the old and the new value agree, nothing is free (R96). -/
theorem pickOldNew_self {α : Type} [DecidableEq α] (free sh : Nat) (xs : List α) : pickOldNew free sh xs xs = xs := by
  have hz : ∀ x ∈ (xs.zip xs).zipIdx, x.1.1 = x.1.2 := fun x hx => by
    obtain ⟨i, hi, hx'⟩ := List.mem_iff_getElem.1 (List.fst_mem_of_mem_zipIdx hx)
    rw [← hx', List.getElem_zip]
  calc pickOldNew free sh xs xs
    _ = (xs.zip xs).zipIdx.map fun x => x.1.2 := List.map_congr_left fun x hx => by rw [if_pos (hz x hx)]
    _ = ((xs.zip xs).zipIdx.map Prod.fst).map Prod.snd := (List.map_map ..).symm
    _ = xs := by rw [List.zipIdx_map_fst, List.map_snd_zip (Nat.le_refl _)]

/-- An activation segment does not depend on a free value while its lagoon is as it was seen (R96). -/
theorem activation_seen {l : Bytes} (h : m.seen = l) (sh : Nat) (retry : Bool) :
    m.activation l q free sh retry = m.activation l q 0 sh retry := by
  unfold Mx.activation
  simp only [h, pickOldNew_self]

/-- The place of an element in its bank: shoal, row, column. -/
def accKey (sh row j : Nat) : Nat := 1024 * sh + 16 * row + j

/-- The writes of a step: each column of its row in every shoal. -/
def Mx.stepWrites (m : Mx) (q : Seq) (acts : List (List Opd)) (free : Nat) (bank : Map Acc) : List (Nat × Acc) :=
  let md := cfgMode m.mcfg
  let w := m.wr m.wnext
  acts.zipIdx.flatMap fun x => (List.range (modeN md)).map fun j =>
    let key := accKey x.2 q.row.toNat j
    (key, if w.fits md then (mapGet Acc.clear key bank).update md q.pass.toNat x.1 (w.cols.getD j []) else freeAcc free (16 * x.2 + j))

theorem stepBank_eq (acts : List (List Opd)) (bank : Map Acc) :
    m.stepBank q acts free bank = putAccs (m.stepWrites q acts free bank) bank := by
  unfold Mx.stepBank Mx.stepWrites putAccs
  simp only [List.foldl_flatMap, List.foldl_map]
  rfl

/-- The updated value of an element (R71-R75): the step's products of activations `act` and column `j`. -/
def Mx.steppedAcc (m : Mx) (q : Seq) (act : Nat → List Opd) (bank : Map Acc) (sh j : Nat) : Acc :=
  (mapGet Acc.clear (accKey sh q.row.toNat j) bank).update (cfgMode m.mcfg) q.pass.toNat (act sh) ((m.wr m.wnext).cols.getD j [])

theorem mem_stepWrites {act : Nat → List Opd} {bank : Map Acc} (hf : (m.wr m.wnext).fits (cfgMode m.mcfg) = true) (w : Nat × Acc) :
    w ∈ m.stepWrites q ((List.range 4).map act) free bank ↔
      ∃ sh j, sh < 4 ∧ j < modeN (cfgMode m.mcfg) ∧ w = (accKey sh q.row.toNat j, m.steppedAcc q act bank sh j) := by
  simp only [Mx.stepWrites, hf, if_true, List.mem_flatMap, List.mem_map, List.mem_range, Prod.exists, List.mem_zipIdx_iff_getElem?]
  constructor
  · rintro ⟨a, sh, ha, j, hj, rfl⟩
    obtain ⟨hsh, rfl⟩ := List.getElem?_eq_some_iff.1 ha
    rw [List.length_map, List.length_range] at hsh
    exact ⟨sh, j, hsh, hj, by rw [List.getElem_map, List.getElem_range]; rfl⟩
  · rintro ⟨sh, j, hsh, hj, rfl⟩
    exact ⟨act sh, sh, by simp [hsh], j, hj, rfl⟩

theorem modeN_le (md : Nat) : modeN md ≤ 16 := by
  unfold modeN
  split <;> decide

/-- A place names its shoal and column. -/
theorem accKey_inj {sh sh' row j j' : Nat} (hj : j < 16) (hj' : j' < 16) (h : accKey sh row j = accKey sh' row j') :
    sh = sh' ∧ j = j' := by
  unfold accKey at h
  omega

/-- Whether an element belongs to row `row`, columns below `n`, of some shoal. -/
def rowKey (row n key : Nat) : Bool := key / 16 % 64 = row && key % 16 < n && key < 4096

theorem rowKey_accKey {sh row j n : Nat} (hs : sh < 4) (hr : row < 64) (hj : j < n) (hn : n ≤ 16) : rowKey row n (accKey sh row j) = true := by
  simp only [rowKey, Bool.and_eq_true, decide_eq_true_eq]
  unfold accKey
  omega

variable {act : Nat → List Opd} (bank : Map Acc) (hf : (m.wr m.wnext).fits (cfgMode m.mcfg) = true)

include hf

theorem mapGet_stepBank_row {sh j : Nat} (hs : sh < 4) (hj : j < modeN (cfgMode m.mcfg)) :
    mapGet Acc.clear (accKey sh q.row.toNat j) (m.stepBank q ((List.range 4).map act) free bank) = m.steppedAcc q act bank sh j := by
  have hn := modeN_le (cfgMode m.mcfg)
  rw [stepBank_eq]
  refine mapGet_putAccs_of_mem bank ((mem_stepWrites hf _).2 ⟨sh, j, hs, hj, rfl⟩) fun w hw hk => ?_
  obtain ⟨sh', j', -, hj', rfl⟩ := (mem_stepWrites hf w).1 hw
  obtain ⟨rfl, rfl⟩ := accKey_inj (by omega) (by omega) hk
  rfl

theorem mapGet_stepBank_other (hr : q.row.toNat < 64) {key : Nat} (hk : rowKey q.row.toNat (modeN (cfgMode m.mcfg)) key = false) :
    mapGet Acc.clear key (m.stepBank q ((List.range 4).map act) free bank) = mapGet Acc.clear key bank := by
  rw [stepBank_eq]
  refine mapGet_putAccs_of_notMem bank fun w hw he => ?_
  obtain ⟨sh, j, hs, hj, rfl⟩ := (mem_stepWrites hf w).1 hw
  subst he
  exact Bool.false_ne_true (hk.symm.trans (rowKey_accKey hs hr hj (modeN_le _)))

end StepBank

/-! ### A step commits (R86, R91, R107) -/

section Commit

theorem advance_banks (m : Mx) (q : Seq) : (m.advance q).banks = m.banks := by
  unfold Mx.advance
  split
  · rfl
  split
  · rfl
  · exact banks_setWr _ _ _

theorem advance_running (m : Mx) (q : Seq) : (m.advance q).seq.isSome = true := by
  unfold Mx.advance
  split
  · rfl
  split <;> rfl

theorem endSeq_banks (m : Mx) : m.endSeq.banks = m.banks := by
  unfold Mx.endSeq
  split
  · rfl
  split
  · rfl
  · exact banks_setWr _ _ _

theorem endSeq_ended (m : Mx) : m.endSeq.seq = none := by
  unfold Mx.endSeq
  split
  next h => exact h
  next => split <;> rfl

/-- The activation segments of a step that retries no shoal. -/
def Mx.acts (m : Mx) (l : Bytes) (q : Seq) (free : Nat) : List (List Opd) := (List.range 4).map fun sh => m.activation l q free sh false

/-- The engine after a step's updates, its position not yet advanced: only the selected bank and the pass buffer differ. -/
def Mx.updated (m : Mx) (q : Seq) (acts : List (List Opd)) (free : Nat) (buf : Map (List Opd)) : Mx :=
  { m.updBank (cfgBank m.mcfg) (m.stepBank q acts free) with passBuf := buf }

/-- The end of MX.SEQ after its last step (R91, R107). -/
def State.sequenceEnds (s : State) (c : CoreId) : State :=
  ((s.updMx c Mx.endSeq).updSc c fun x => { x with run := .running }).retire c ((s.sc c).pc + 4#64)

/-- What a step leaves before MX.SEQ ends, if it does: its updates, the next position, the count lowered, two free values used (R107).
`buf` is the pass buffer (R102). -/
def State.stepped (s : State) (c : CoreId) (q : Seq) (buf : Map (List Opd)) : State :=
  (({ s with free := s.free + 1 + 1 } : State).updMx c fun _ =>
      ((s.mx c).updated q ((s.mx c).acts (s.sc c).lagoon q s.free) (s.free + 1) buf).advance q).updSc c
    fun x => x.wg q.rc ((s.sc c).rg q.rc - 1#64)

theorem commitStep_eq (s : State) (c : CoreId) (q : Seq) : ∃ buf,
    s.commitStep c q 0#4 = if (s.sc c).rg q.rc - 1#64 = 0#64 then (s.stepped c q buf).sequenceEnds c else s.stepped c q buf := by
  unfold State.commitStep
  simp only [State.takeFree, Mx.noteRetry, if_true, BitVec.getLsbD_zero]
  exact ⟨_, rfl⟩

/-- A register write touches the general registers alone. -/
theorem wg_eq (x : Scalar) (r : BitVec 5) (v : Word) : ∃ g, x.wg r v = { x with g := g } := by
  unfold Scalar.wg
  split <;> exact ⟨_, rfl⟩

section Stepped

variable (s : State) (c : CoreId) (q : Seq) (buf : Map (List Opd))

theorem mx_stepped : (s.stepped c q buf).mx c =
    ((s.mx c).updated q ((s.mx c).acts (s.sc c).lagoon q s.free) (s.free + 1) buf).advance q := by
  unfold State.stepped
  rw [mx_updSc_self, mx_updMx_self]

theorem sc_stepped : (s.stepped c q buf).sc c = (s.sc c).wg q.rc ((s.sc c).rg q.rc - 1#64) := by
  unfold State.stepped
  rw [sc_updSc_self, sc_updMx_self]
  rfl

theorem mx_sequenceEnds : (s.sequenceEnds c).mx c = (s.mx c).endSeq := by simp [State.sequenceEnds, State.retire]

theorem sc_sequenceEnds : ∃ cycles, (s.sequenceEnds c).sc c =
    { s.sc c with run := .running, pc := (s.sc c).pc + 4#64, retired := (s.sc c).retired + 1#64, cycles := cycles } := by
  unfold State.sequenceEnds State.retire
  rw [sc_updSc_self, sc_updSc_self, sc_updMx_self]
  exact ⟨_, rfl⟩

end Stepped

theorem acts_seen {m : Mx} {l : Bytes} (h : m.seen = l) (q : Seq) (free : Nat) :
    m.acts l q free = (List.range 4).map fun sh => m.activation l q 0 sh false :=
  List.map_congr_left fun sh _ => activation_seen h sh false

theorem sound_row {m : Mx} {q : Seq} (h : m.sound = true) (hq : m.seq = some q) : q.row.toNat < 64 := by
  simp only [Mx.sound, hq, Option.all_some, Bool.and_eq_true, decide_eq_true_eq] at h
  obtain ⟨⟨-, hrow⟩, -⟩ := h
  exact hrow

variable (s : State) (c : CoreId) (q : Seq)

/-- Whether or not it is the last one, a step leaves the banks with its updates. -/
theorem commitStep_banks : ((s.commitStep c q 0#4).mx c).banks =
    ((s.mx c).updBank (cfgBank (s.mx c).mcfg) ((s.mx c).stepBank q ((s.mx c).acts (s.sc c).lagoon q s.free) (s.free + 1))).banks := by
  obtain ⟨buf, h⟩ := commitStep_eq s c q
  have hb := advance_banks ((s.mx c).updated q ((s.mx c).acts (s.sc c).lagoon q s.free) (s.free + 1) buf) q
  rw [h]
  split
  · rw [mx_sequenceEnds, mx_stepped, endSeq_banks, hb]
    rfl
  · rw [mx_stepped, hb]
    rfl

theorem commitStep_count : ((s.commitStep c q 0#4).sc c).rg q.rc = if q.rc = 0#5 then 0#64 else (s.sc c).rg q.rc - 1#64 := by
  obtain ⟨buf, h⟩ := commitStep_eq s c q
  rw [h, ← rg_wg_self (s.sc c), ← sc_stepped s c q buf]
  split
  · obtain ⟨_, hs⟩ := sc_sequenceEnds (s.stepped c q buf) c
    rw [hs]
    rfl
  · rfl

/-- The last step retires MX.SEQ (R107). -/
theorem commitStep_last (hz : (s.sc c).rg q.rc - 1#64 = 0#64) :
    let t := s.commitStep c q 0#4
    (t.sc c).run = .running ∧ (t.mx c).seq = none ∧ (t.sc c).pc = (s.sc c).pc + 4#64 ∧ (t.sc c).retired = (s.sc c).retired + 1#64 := by
  obtain ⟨buf, h⟩ := commitStep_eq s c q
  obtain ⟨_, hs⟩ := sc_sequenceEnds (s.stepped c q buf) c
  obtain ⟨_, hg⟩ := wg_eq (s.sc c) q.rc ((s.sc c).rg q.rc - 1#64)
  rw [h, if_pos hz]
  dsimp only
  rw [mx_sequenceEnds, hs, sc_stepped, hg]
  exact ⟨rfl, endSeq_ended _, rfl, rfl⟩

/-- Any other step leaves MX.SEQ running (R107). -/
theorem commitStep_more (hz : (s.sc c).rg q.rc - 1#64 ≠ 0#64) :
    let t := s.commitStep c q 0#4
    (t.sc c).run = (s.sc c).run ∧ (t.mx c).seq.isSome = true ∧ (t.sc c).pc = (s.sc c).pc ∧ (t.sc c).retired = (s.sc c).retired := by
  obtain ⟨buf, h⟩ := commitStep_eq s c q
  obtain ⟨_, hg⟩ := wg_eq (s.sc c) q.rc ((s.sc c).rg q.rc - 1#64)
  rw [h, if_neg hz]
  dsimp only
  rw [mx_stepped, sc_stepped, hg]
  exact ⟨rfl, advance_running _ _, rfl, rfl⟩

end Commit

/-! ### STEP runs (R86, R93, R95, R107) -/

/-- A step that the engine runs and that passes its checks: MX.SEQ runs, its chunk is loaded, no drain or restore holds its row,
its segments are aligned and readable, no chunk is to be loaded with it, and every stored element is sound, at the first try. -/
structure StepPasses (s : State) (c : CoreId) (k : StepCheck) (q : Seq) : Prop where
  seq : (s.mx c).seq = some q
  run : (s.sc c).run = .matrix
  clocked : s.clocked c = true
  loaded : ((s.mx c).wr (s.mx c).wnext).st = 2#2
  free : (s.mx c).rowHeld (cfgBank (s.mx c).mcfg) ((s.mx c).cycleEnd q.row.toNat) = false
  good : badWraps (s.sc c).lagoonBad ((s.mx c).stepRanges q 0#4) = none
  loads : (s.mx c).mustLoad q ((s.sc c).rg q.rc).toNat = false
  first : k.first = 0#4
  sound : (s.mx c).rowSound q = true
  aligned : q.pass = 0#4 → ∀ sh, sh < 4 → (s.mx c).actOff q sh % segAlign (cfgA (s.mx c).mcfg) = 0

theorem firstOff_eq_none {al : Nat} {offs : List Nat} (h : ∀ o ∈ offs, o % al = 0) : firstOff al offs = none :=
  List.find?_eq_none.2 fun o ho => by simp [h o ho]

theorem exec_step_commits {s : State} {c : CoreId} {k : StepCheck} {q : Seq} (h : StepPasses s c k q) :
    exec (.step c k) s = .next (s.commitStep c q 0#4) := by
  have hoff : (if q.pass = 0#4 then
      firstOff (segAlign (cfgA (s.mx c).mcfg)) ((List.range 4).map fun sh => (s.mx c).actOff q sh) else none) = none := by
    split
    next hp => exact firstOff_eq_none (by simpa using h.aligned hp)
    next => rfl
  have hu : ((s.mx c).wr (s.mx c).wnext).used = true := by simp [WReg.used, h.loaded]
  have hg := h.good
  simp only [exec, execStep, h.seq, h.run, h.clocked, hu, h.loaded, h.free, h.loads, hoff, h.sound, h.first, bne_self_eq_false, Bool.not_true,
    Bool.false_and, Bool.or_self, Bool.false_eq_true, if_false, if_true, feed_good _ _ hg, countRetries_zero]
  rfl

/-- The count reaches zero at the step that finds it at one. -/
theorem sub_one_eq_zero_iff (x : Word) : x - 1#64 = 0#64 ↔ x = 1#64 := by
  rw [BitVec.sub_eq_iff_eq_add, BitVec.zero_add]

/-- Settles O28: an MX.SEQ leaves its steps to STEP, and a step writes the elements of its row, counts down, and ends the MX.SEQ at zero. -/
theorem matrixSequencesAndSteps : Obligations.MatrixSequencesAndSteps := by
  refine ⟨fun s c g f h hb hp => ⟨mxSeq_empty h hb hp, fun hz hr hlt hw => ⟨_, mxSeq_starts h hb hp hz hr hlt hw, ?_⟩⟩, ?_⟩
  · refine ⟨((OnlyCore.setCore _ _ _).trans (.setCore _ _ _)).trans (.setCore _ _ _), ?_⟩
    simp only [sc_updSc_self, sc_updMx_self, mx_updSc_self, mx_updMx_self, begun_sc, begun_mx, Scalar.sequence, and_self]
  · intro s c k q m x md w bank gc act mine hsound hseq hrun hclk hst hfit hfree hgood hload hseen hfirst hrow hal
    refine ⟨_, exec_step_commits ⟨hseq, hrun, hclk, hst, hfree, hgood, hload, hfirst, hrow, hal⟩, ?_⟩
    have hq := sound_row hsound hseq
    have hb := commitStep_banks s c q
    rw [acts_seen hseen] at hb
    refine ⟨fun sh j hs hj => ?_, fun key hk => ?_, fun key => ?_, ?_, fun h1 => ?_, fun h1 => ?_⟩
    · rw [acc_of_banks _ hb, acc_updBank_self]
      exact mapGet_stepBank_row _ hfit hs hj
    · rw [acc_of_banks _ hb, acc_updBank_self]
      exact mapGet_stepBank_other _ hfit hq hk
    · rw [acc_of_banks _ hb, acc_updBank_not]
    · exact commitStep_count s c q
    · exact commitStep_last s c q ((sub_one_eq_zero_iff gc).2 h1)
    · rw [← hrun]
      exact commitStep_more s c q fun hz => h1 ((sub_one_eq_zero_iff gc).1 hz)

end Sys2Proof.Machine

/-! Drains and the tile queue (R77, R103, R111-R115, R138). -/

namespace Sys2Proof.Machine

/-! ### MX.DRN accepts a drain (R103, R111) -/

section Accept

/-- The drain that an MX.DRN of kind `kind` starts: its settings are those at issue (R111). -/
def Mx.drainOf (m : Mx) (f : FmtMxDrn) (gd : Word) (kind : DrainKind) : Drain :=
  { kind := kind, cfg := m.mcfg, fmt := f.fmt, rm := if f.rm = rmDYN then m.mround else f.rm, om := f.om, clear := f.clear,
    tag := gd.extractLsb' 0 16, dseq := m.dseq, base := gd.extractLsb' 0 20, lanes := Vector.replicate 4 DrainLane.start }

/-- The engine with such a drain in progress; one that pushes entries takes the next number (R111). -/
def Mx.accepts (f : FmtMxDrn) (gd : Word) (kind : DrainKind) (m : Mx) : Mx :=
  { m with
    drains := m.drains.set (bankIx f.bank) (some (m.drainOf f gd kind))
    dseq := if kind = .push && cfgRows m.mcfg != 0 then m.dseq + 1#16 else m.dseq }

theorem startDrain_eq (c : CoreId) (f : FmtMxDrn) (kind : DrainKind) (s : State) :
    startDrain c f kind s = .done (s.updMx c (Mx.accepts f ((s.sc c).rg f.gd) kind)) := rfl

/-- An MX.DRN's lagoon offset is aligned exactly when its register's value is (R95). -/
theorem fld_aligned (w : Word) : fld w 19 0 % 16 = w.toNat % 16 := by
  simp only [fld, nbits]
  omega

/-- An MX.DRN that its checks let pass: nothing is interrupted, trapped or busy, and an offset for images is aligned. -/
structure DrainPasses (s : State) (c : CoreId) (f : FmtMxDrn) (img : Bool) : Prop where
  bad : drnBad f = false
  prog : (s.mx c).progValid = false
  trap : (s.mx c).trapPend = false
  bank : (s.mx c).bankBusy f.bank = false
  aligned : img = true → ((s.sc c).rg f.gd).toNat % 16 = 0

variable {s : State} {c : CoreId} {f : FmtMxDrn} {img : Bool}

theorem drnChecks_pass (k : State → Res) (h : DrainPasses s c f img) : drnChecks c f img k (s.begun c) = k (s.begun c) := by
  have ha : (img && fld ((s.sc c).rg f.gd) 19 0 % 16 != 0) = false := by
    cases hi : img
    · rfl
    · simp [fld_aligned, h.aligned hi]
  unfold drnChecks
  simp only [begun_mx, begun_rg, h.prog, h.trap, h.bank, ha, Bool.false_eq_true, if_false]

theorem finish_startDrain (kind : DrainKind) (hl : (s.sc c).settled) :
    (s.begun c).finish c (startDrain c f kind (s.begun c)) = s.retires c fun k => k.onMx (Mx.accepts f ((s.sc c).rg f.gd) kind) := by
  rw [startDrain_eq, begun_rg, retires_of_mx _ hl]

variable {g : Guard} (h : Runs s c g)

include h

theorem exec_mxDrn (hp : DrainPasses s c f f.img) : exec (.mxDrn c g f) s =
    .next (s.retires c fun k => k.onMx (Mx.accepts f ((s.sc c).rg f.gd) (if f.img then .img else .push))) := by
  simp only [exec, execMxDrn]
  rw [issue_runs _ h hp.bad, drnChecks_pass _ hp, finish_startDrain _ (runs_settled h)]

theorem exec_mxDrnImg (hp : DrainPasses s c f true) :
    exec (.mxDrnImg c g f) s = .next (s.retires c fun k => k.onMx (Mx.accepts f ((s.sc c).rg f.gd) .img)) := by
  simp only [exec, execMxDrnImg]
  rw [issue_runs _ h hp.bad, drnChecks_pass _ hp, finish_startDrain _ (runs_settled h)]

/-- The engine with the elements cleared that a drain of bank `b` would read (R111). -/
def Mx.discards (b : Bool) (m : Mx) : Mx :=
  m.updBank b fun x => x.filter fun e => !drainedKey (cfgRows m.mcfg) (modeN (cfgMode m.mcfg)) e.1

theorem exec_mxDrnDiscard (hp : DrainPasses s c f false) (hc : f.clear = true) (hi : f.img = false) : exec (.mxDrnDiscard c g f) s =
    .next (s.retires c fun k => k.onMx fun m => Mx.accepts f ((s.sc c).rg f.gd) .discard (m.discards f.bank)) := by
  have hd : startDrain c f .discard ((s.begun c).updMx c fun m => m.updBank f.bank fun b =>
      b.filter fun x => !drainedKey (cfgRows (s.mx c).mcfg) (modeN (cfgMode (s.mx c).mcfg)) x.1) =
      .done ((s.begun c).updMx c fun m => Mx.accepts f ((s.sc c).rg f.gd) .discard (m.updBank f.bank fun b =>
        b.filter fun x => !drainedKey (cfgRows (s.mx c).mcfg) (modeN (cfgMode (s.mx c).mcfg)) x.1)) := by
    rw [startDrain_eq, updMx_updMx, sc_updMx_self, begun_rg]
  simp only [exec, execMxDrnDiscard]
  rw [issue_runs _ h (by simp [hp.bad, hc, hi]), drnChecks_pass _ hp]
  simp only [begun_mx]
  rw [hd, retires_of_mx _ (runs_settled h)]
  rfl

end Accept

/-! ### Elements that are cleared -/

/-- Dropping the places that `p` names leaves the default there, and every other place as it was. -/
theorem mapGet_filter_not {α : Type} (d : α) (p : Nat → Bool) (k : Nat) :
    ∀ m : Map α, mapGet d k (m.filter fun x => !p x.1) = if p k then d else mapGet d k m
  | [] => by simp [mapGet]
  | (i, a) :: t => by
    have ih := mapGet_filter_not d p k t
    by_cases hi : i = k
    · subst hi
      cases hp : p i
      · simp [hp, mapGet]
      · simpa [hp] using ih
    · cases hp : p i <;> simp [hp, mapGet, hi, ih]

/-- Clearing the elements that `p` names. -/
theorem acc_clears (m : Mx) (b : Bool) (p : Nat → Bool) (key : Nat) :
    (m.updBank b fun x => x.filter fun e => !p e.1).acc b key = if p key then Acc.clear else m.acc b key := by
  rw [acc_updBank_self, mapGet_filter_not]
  rfl

theorem drainedKey_iff {rows n key : Nat} : drainedKey rows n key = true ↔ key / 16 % 64 < rows ∧ key % 16 < n := by simp [drainedKey]

theorem acc_discards (m : Mx) (b : Bool) (key : Nat) : (m.discards b).acc b key =
    if key / 16 % 64 < cfgRows m.mcfg ∧ key % 16 < modeN (cfgMode m.mcfg) then Acc.clear else m.acc b key := by
  simp only [← drainedKey_iff]
  exact acc_clears m b _ key

/-! ### A shoal takes its entry, reads a row and writes a row (R77, R114) -/

section Row

variable {m : Mx} {d : Drain} {bank : Bool} {sh : Nat}

@[simp] theorem lane_setLane (l : DrainLane) : (d.setLane sh l).lane sh = l := vget_set_self _ _ _

@[simp] theorem hdr_setLane (l : DrainLane) : (d.setLane sh l).hdr bank sh = d.hdr bank sh := rfl

/-- A shoal that holds its entry takes no other (R114). -/
theorem takeEntry_taken (h : (d.lane sh).taken = true) : m.takeEntry d bank sh = (m, d) := by
  unfold Mx.takeEntry
  simp only [h, Bool.or_true, Bool.true_or, if_true]

/-- The places of row `i` of a shoal, columns below `n`. -/
def laneKey (sh i n key : Nat) : Bool := key / 16 = 64 * sh + i && key % 16 < n

/-- The engine after a shoal's read of its row `i` at the first try: with CLEAR the row is cleared, and no retry is counted. -/
def Mx.afterRead (m : Mx) (d : Drain) (bank : Bool) (sh i : Nat) : Mx :=
  let m := m.countRetries 0
  if d.clear then m.updBank bank fun b => b.filter fun x => !laneKey sh i (modeN (cfgMode d.cfg)) x.1 else m

@[simp] theorem popcount_zero (n : Nat) : popcount n 0 = 0 := by simp [popcount]

/-- A shoal with empty links reads its next row, rounded (R77, R114). -/
theorem readRow_reads (hr : (d.lane sh).read < cfgRows d.cfg) (hl : (d.lane sh).links = []) :
    m.readRow d bank sh 0#16 = (m.afterRead d bank sh (d.lane sh).read, d.setLane sh
      { d.lane sh with read := (d.lane sh).read + 1, links := [m.drainRow d bank sh (d.lane sh).read 0#16] }) := by
  have h0 : (m.drainRow d bank sh (d.lane sh).read 0#16).retries = 0 := popcount_zero _
  have hle : ¬ cfgRows d.cfg ≤ (d.lane sh).read := by omega
  unfold Mx.readRow
  simp only [hl, hle, h0, decide_false, List.length_nil, List.nil_append]
  rfl

theorem afterRead_tq (i : Nat) : (m.afterRead d bank sh i).tq = m.tq := by
  unfold Mx.afterRead
  dsimp only
  split <;> rfl

theorem acc_afterRead (i key : Nat) : (m.afterRead d bank sh i).acc bank key =
    if d.clear = true ∧ key / 16 = 64 * sh + i ∧ key % 16 < modeN (cfgMode d.cfg) then Acc.clear else m.acc bank key := by
  unfold Mx.afterRead
  cases d.clear
  · rfl
  · have hk : laneKey sh i (modeN (cfgMode d.cfg)) key = true ↔ key / 16 = 64 * sh + i ∧ key % 16 < modeN (cfgMode d.cfg) := by
      simp [laneKey]
    simp only [if_true, true_and, ← hk]
    exact acc_clears _ bank _ key

variable {α : Type} {p : α → Bool} {pre post : List α} {a : α}

theorem find?_only (hp : p a = true) (h : ∀ u ∈ pre ++ post, p u = false) : (pre ++ a :: post).find? p = some a := by
  have hpre : pre.find? p = none := List.find?_eq_none.2 fun u hu => by simp [h u (List.mem_append_left _ hu)]
  simp [List.find?_append, hpre, hp]

theorem map_only (b : α) (hp : p a = true) (h : ∀ u ∈ pre ++ post, p u = false) :
    (pre ++ a :: post).map (fun u => if p u then b else u) = pre ++ b :: post := by
  have keep : ∀ l : List α, l ⊆ pre ++ post → l.map (fun u => if p u then b else u) = l := fun l hl =>
    (List.map_congr_left fun u hu => by simp [h u (hl hu)]).trans (List.map_id l)
  rw [List.map_append, List.map_cons, keep pre (List.subset_append_left _ _), keep post (List.subset_append_right _ _), if_pos hp]

/-- Whether a tile-queue entry is the one that a shoal of a drain still fills. -/
def Drain.fills (d : Drain) (bank : Bool) (sh : Nat) (u : Tile) : Bool := u.hdr == d.hdr bank sh && !u.visible

/-- An entry with a row at its end, and the row's flags and retries in its status word (R78, R114). -/
def Tile.extended (t : Tile) (l : DrainLane) (r : LinkRow) : Tile :=
  { t with
    status := statusAdd t.status r.flags (if r.flags = 0#7 then 0#64 else 1#64 <<< l.written) r.retries
    data := t.data ++ r.data }

/-- The engine and the entry `t` after the shoal's row was written: the last row completes the entry. -/
def Mx.afterWrite (m : Mx) (d : Drain) (bank : Bool) (sh : Nat) (t : Tile) : Mx × Tile :=
  if (d.lane sh).written + 1 = cfgRows d.cfg then m.completeTile d bank sh t else (m, t)

theorem afterWrite_keeps (t : Tile) : let w := m.afterWrite d bank sh t
    w.1.tq = m.tq ∧ w.1.banks = m.banks ∧ w.2.hdr = t.hdr ∧ w.2.data = t.data := by
  unfold Mx.afterWrite
  dsimp only
  split <;> exact ⟨rfl, rfl, rfl, rfl⟩

theorem afterWrite_visible {t : Tile} (h : t.visible = false) :
    (m.afterWrite d bank sh t).2.visible = true ↔ (d.lane sh).written + 1 = cfgRows d.cfg := by
  unfold Mx.afterWrite
  split
  next hw => exact iff_of_true rfl hw
  next hw => exact iff_of_false (by simp [h]) hw

variable {r : LinkRow} {rest : List LinkRow} {tile : Tile}

theorem writeRow_eq (ht : (d.lane sh).taken = true) (hl : (d.lane sh).links = r :: rest)
    (hf : m.tq.find? (d.fills bank sh) = some tile) : m.writeRow d bank sh =
      let w := m.afterWrite d bank sh (tile.extended (d.lane sh) r)
      ({ w.1 with tq := w.1.tq.map fun u => if d.fills bank sh u then w.2 else u },
        d.setLane sh { d.lane sh with written := (d.lane sh).written + 1, links := rest }) := by
  have hf' : m.tq.find? (fun t => t.hdr == d.hdr bank sh && !t.visible) = some tile := hf
  unfold Mx.writeRow
  simp only [ht, hl, hf']
  rfl

/-- A shoal writes the oldest row of its links at the end of its entry, which its last row makes visible (R114, R116). -/
theorem writeRow_writes {pre post : List Tile} (ht : (d.lane sh).taken = true) (hl : (d.lane sh).links = r :: rest)
    (hq : m.tq = pre ++ tile :: post) (hm : d.fills bank sh tile = true) (ho : ∀ u ∈ pre ++ post, d.fills bank sh u = false) :
    ∃ v m', m.writeRow d bank sh = (m', d.setLane sh { d.lane sh with written := (d.lane sh).written + 1, links := rest }) ∧
      m'.tq = pre ++ v :: post ∧ m'.banks = m.banks ∧ v.hdr = tile.hdr ∧ v.data = tile.data ++ r.data ∧
      (v.visible = true ↔ (d.lane sh).written + 1 = cfgRows d.cfg) := by
  obtain ⟨htq, hbanks, hhdr, hdata⟩ := afterWrite_keeps (m := m) (d := d) (bank := bank) (sh := sh) (tile.extended (d.lane sh) r)
  have hv : tile.visible = false := by
    simp only [Drain.fills, Bool.and_eq_true, Bool.not_eq_true'] at hm
    obtain ⟨-, hv⟩ := hm
    exact hv
  refine ⟨_, _, writeRow_eq ht hl (hq ▸ find?_only hm ho), ?_, hbanks, hhdr, hdata, afterWrite_visible hv⟩
  dsimp only
  rw [htq, hq, map_only _ hm ho]

end Row

/-! ### DRAIN_ROW_WRITE and DRAIN_END -/

section Write

variable {s : State} {c : CoreId} {bank : Bool} {d : Drain} {shoal : BitVec 2} {k : DrainCheck}
  (hd : (s.mx c).drains.get (bankIx bank) = some d) (he : s.enginesRun c = true)

include hd he

theorem exec_drainRowWrite_push (hk : d.kind = .push) (hs : (s.mx c).drainSound d bank shoal.toNat (modeN (cfgMode d.cfg)) = true)
    (hf : k.first = 0#16) : exec (.drainRowWrite c bank shoal k) s =
      let e := (s.mx c).takeEntry d bank shoal.toNat
      let r := e.1.readRow e.2 bank shoal.toNat 0#16
      let w := r.1.writeRow r.2 bank shoal.toNat
      .next (s.updMx c fun _ => w.1.setDrain bank w.2) := by
  have himg : (d.kind = .img) = False := by simp [hk]
  have hdis : (d.kind = .discard) = False := by simp [hk]
  have h0 : (0#16).toNat = 0 := rfl
  simp only [exec, execDrainRowWrite, hd, he, himg, hdis, hf, h0, hs, if_false, popcount_zero, bne_self_eq_false, Bool.false_and, Bool.not_true,
    Bool.or_self, Bool.and_false, decide_false, Bool.false_eq_true, ite_self, countRetries_zero]

/-- A finished drain ends while no TQDISCARD waits for it: its bank is free, and with CLEAR has no events (R111, R115). -/
theorem exec_drainEnd (hfin : d.finished = true) (hw : (s.mx c).discardWait = false) : exec (.drainEnd c bank) s =
    .next (s.updMx c fun m => { m with
      drains := m.drains.set (bankIx bank) none
      events := if d.clear then m.events.set (bankIx bank) (Vector.replicate 4 BankEvent.clear) else m.events }) := by
  simp only [exec, execDrainEnd, hd, he, hfin, Bool.not_true, Bool.or_self, Bool.false_eq_true, if_false]
  refine congrArg _ (updMx_congr ?_)
  cases d.clear <;> simp only [Mx.clearEvents, hw, Bool.false_and, Bool.false_eq_true, if_false, if_true]

/-- What a shoal that holds its entry does at the first try while its links are empty: it reads its next row and writes it (R77, R114). -/
theorem drainRowWrite_moves {pre post : List Tile} {tile : Tile} (hk : d.kind = .push) (ht : (d.lane shoal.toNat).taken = true)
    (hl : (d.lane shoal.toNat).links = []) (hr : (d.lane shoal.toNat).read < cfgRows d.cfg)
    (hs : (s.mx c).drainSound d bank shoal.toNat (modeN (cfgMode d.cfg)) = true) (hf : k.first = 0#16)
    (hq : (s.mx c).tq = pre ++ tile :: post) (hm : d.fills bank shoal.toNat tile = true)
    (ho : ∀ u ∈ pre ++ post, d.fills bank shoal.toNat u = false) :
    let l := d.lane shoal.toNat
    ∃ (v : Tile) (m' : Mx), exec (.drainRowWrite c bank shoal k) s = .next (s.updMx c fun _ => m'.setDrain bank ((d.setLane shoal.toNat
          { l with read := l.read + 1, links := [(s.mx c).drainRow d bank shoal.toNat l.read 0#16] }).setLane shoal.toNat
        { l with read := l.read + 1, written := l.written + 1, links := [] })) ∧
      m'.tq = pre ++ v :: post ∧ m'.banks = ((s.mx c).afterRead d bank shoal.toNat l.read).banks ∧ v.hdr = tile.hdr ∧
      v.data = tile.data ++ ((s.mx c).drainRow d bank shoal.toNat l.read 0#16).data ∧ (v.visible = true ↔ l.written + 1 = cfgRows d.cfg) := by
  intro l
  let e := d.setLane shoal.toNat { l with read := l.read + 1, links := [(s.mx c).drainRow d bank shoal.toNat l.read 0#16] }
  have hlane : e.lane shoal.toNat = { l with read := l.read + 1, links := [(s.mx c).drainRow d bank shoal.toNat l.read 0#16] } :=
    lane_setLane _
  obtain ⟨v, m', hw, hv⟩ := writeRow_writes (m := (s.mx c).afterRead d bank shoal.toNat l.read) (d := e) (bank := bank)
    (by rw [hlane]; exact ht) (by rw [hlane]) ((afterRead_tq _).trans hq) hm ho
  rw [hlane] at hw hv
  refine ⟨v, m', ?_, hv⟩
  rw [exec_drainRowWrite_push hd he hk hs hf]
  simp only [takeEntry_taken ht, readRow_reads hr hl]
  rw [hw]

end Write

/-! ### TQDISCARD (R138) -/

theorem noDrain_iff (v : Vector (Option Drain) 2) : v.toList.all Option.isNone = true ↔ v.get 0 = none ∧ v.get 1 = none := by
  have h : v.toList = [v.get 0, v.get 1] := List.ext_getElem (by simp) fun i _ hi => by
    match i, hi with
    | 0, _ => rfl
    | 1, _ => rfl
  rw [h]
  simp

/-- What a TQDISCARD does to the engine: it empties the tile queue, or waits for the drains in progress (R138). -/
def Mx.tqDiscard (m : Mx) : Mx := if m.drains.toList.all Option.isNone then m.discardTiles else { m with discardWait := true }

theorem discard_cases (m : Mx) : m.tqDiscard =
    if m.drains.get 0 = none ∧ m.drains.get 1 = none then
      { m with tq := [], tqHead := m.tqHead + BitVec.ofNat 3 m.tq.length, discardWait := false }
    else { m with discardWait := true } := by
  simp only [Mx.tqDiscard, noDrain_iff]
  rfl

/-- With no descriptor running, a TQDISCARD acts on the matrix engine alone. -/
theorem tqDiscard_eq {s : State} {c : CoreId} (h : (s.ew c).job = none) : s.tqDiscard c = s.updMx c Mx.tqDiscard := by
  unfold State.tqDiscard
  rw [h]
  rfl

theorem exec_tqdiscard {s : State} {c : CoreId} {v : Word} (h : Runs s c alwaysGuard) (hp : 1#2 ≤ (s.sc c).priv)
    (hj : (s.ew c).job = none) : exec (.tqdiscard c v) s = .next (s.retires c fun k => k.onMx Mx.tqDiscard) := by
  have hj' : ((s.begun c).ew c).job = none := by
    unfold State.ew
    rw [begun_core]
    exact hj
  have hp' : privRuntime ≤ ((s.begun c).sc c).priv := (begun_priv s c).symm ▸ hp
  simp only [exec, execTqdiscard, outPort]
  rw [issue_runs _ h rfl]
  simp only [hp', if_true]
  rw [tqDiscard_eq hj', retires_of_mx _ (runs_settled h)]

/-- Settles O29: an accepted MX.DRN is the drain of its settings; DISCARD's elements, and with CLEAR a row that was read, are the places that
a filter of the bank drops; the shoal's entry is the one place of the tile queue that a row changes. -/
theorem matrixDrains : Obligations.MatrixDrains := by
  refine ⟨?_, ?_, ?_⟩
  · intro s c g f h hb m gd d goTo hp ht hk
    have hgo : ∀ kind, s.retires c (fun k => k.onMx (Mx.accepts f gd kind)) =
        goTo kind (if kind = .push && cfgRows m.mcfg != 0 then m.dseq + 1#16 else m.dseq) := fun kind => retires_onMx_congr rfl
    refine ⟨fun ha => ?_, fun ha => ?_, fun hc hi => ?_⟩
    · rw [exec_mxDrn h ⟨hb, hp, ht, hk, ha⟩, hgo]
      cases f.img
      · simp
      · rfl
    · rw [exec_mxDrnImg h ⟨hb, hp, ht, hk, fun _ => ha⟩, hgo]
      rfl
    · refine ⟨_, exec_mxDrnDiscard h ⟨hb, hp, ht, hk, by simp⟩ hc hi, ?_⟩
      dsimp only
      rw [mx_retires, pc_retires]
      exact ⟨vget_set_self _ _ _, rfl, acc_discards m f.bank, acc_updBank_not _ _ _, rfl⟩
  · intro s c bank d m hd he
    refine ⟨?_, ?_⟩
    · intro shoal k pre post tile sh l n row here hk ht hl hwr hr _ hs hf hq hm ho
      obtain ⟨v, m', hx, htq, hbanks, hhdr, hdata, hvis⟩ := drainRowWrite_moves hd he hk ht hl hr hs hf hq hm ho
      refine ⟨_, hx, ?_⟩
      dsimp only
      rw [mx_updMx_self]
      refine ⟨⟨v, htq, hhdr, hdata, ?_⟩, ⟨_, vget_set_self _ _ _, ?_⟩, fun key => ?_⟩
      · rw [← hwr]
        exact hvis
      · rw [lane_setLane]
        exact ⟨rfl, rfl⟩
      · exact (acc_of_banks bank hbanks key).trans (acc_afterRead _ key)
    · intro hfin hw
      refine ⟨_, exec_drainEnd hd he hfin hw, .setCore _ _ _, ?_⟩
      rw [mx_updMx_self]
  · intro s c v hi hl hp hj
    rw [exec_tqdiscard (runs_always hi hl) hp hj]
    exact congrArg _ (retires_onMx_congr (discard_cases (s.mx c)))

end Sys2Proof.Machine
